-- ==== Sys2Proof/Word.lean ====
section
/-! DEFINITION. The word types of the QX4096-SH (00 R9): a register is 64 bits, a byte 8, a vector register 512; and what a host
message and a bring-up bring along (20 R386, R392). -/
namespace Sys2Proof

/-- A 64-bit register value. -/
abbrev Word := BitVec 64
/-- An instruction word (03, introduction: every instruction is 32 bits wide). -/
abbrev IWord := BitVec 32
/-- One byte of memory. -/
abbrev Byte := BitVec 8
/-- A vector register, lane 0 in the low bits (02 R23). -/
abbrev VWord := BitVec 512

/-- What names a host message: its 48-bit SEQ in its direction and the REQID that its reply carries (20 R386). -/
structure MsgId where
  seq : Nat
  reqId : Nat
  deriving DecidableEq, Repr

/-- A LAUNCH message: its identification and the 128-byte packet, byte 0 in the low bits (11 R234, 20 R386). -/
structure LaunchMsg where
  id : MsgId
  packet : BitVec 1024
  deriving DecidableEq, Repr

/-- The host's reply to a message of the device: its own SEQ, the STATUS and the bytes of a read (20 R386, R387). -/
structure HostAnswer where
  seq : Nat
  status : Nat
  data : List Byte
  deriving DecidableEq, Repr

/-- What bring-up finds (20 R392, R393): sockets whose die fails to authenticate or to train, sockets without a die, and DDR-5
channels that fail to train. -/
structure Training where
  failed : BitVec 23
  absent : BitVec 23
  channels : BitVec 12
  deriving DecidableEq, Repr

end Sys2Proof
end

