-- ==== Sys2Proof/Syntax.lean ====
section
/-! DEFINITION. The instructions and events of the QX4096-SH: one constructor per row of spec/opcode_table.json.
Register operands are register numbers, immediates the bits of the word; branch and jump offsets are bits [12:1] and
[20:1] of the byte offset. Events carry the identifiers of what they act on, and host and link events their contents. Instructions
with operands stand first: the compiler builds only the first 244 constructors with fields. -/
namespace Sys2Proof

/-- One constructor per row of the table of operations and events. -/
inductive Instr where
  /-- R54. Writes the 20-bit upper immediate into rd. -/
  | lui (rd : BitVec 5) (imm : BitVec 20)
  /-- R54. Adds the upper immediate to the PC and writes the sum to rd. -/
  | auipc (rd : BitVec 5) (imm : BitVec 20)
  /-- R54. Jumps to a 4-byte-aligned PC-relative target and links in rd. -/
  | jal (rd : BitVec 5) (off : BitVec 20)
  /-- R54. Jumps to rs1 plus an offset and links in rd; the target must be 4-byte aligned. -/
  | jalr (rd : BitVec 5) (rs1 : BitVec 5) (imm : BitVec 12)
  /-- R54. Branches when rs1 equals rs2. -/
  | beq (rs1 : BitVec 5) (rs2 : BitVec 5) (off : BitVec 12)
  /-- R54. Branches when rs1 differs from rs2. -/
  | bne (rs1 : BitVec 5) (rs2 : BitVec 5) (off : BitVec 12)
  /-- R54. Branches when rs1 is less than rs2 as signed numbers. -/
  | blt (rs1 : BitVec 5) (rs2 : BitVec 5) (off : BitVec 12)
  /-- R54. Branches when rs1 is greater than or equal to rs2 as signed numbers. -/
  | bge (rs1 : BitVec 5) (rs2 : BitVec 5) (off : BitVec 12)
  /-- R54. Branches when rs1 is less than rs2 as unsigned numbers. -/
  | bltu (rs1 : BitVec 5) (rs2 : BitVec 5) (off : BitVec 12)
  /-- R54. Branches when rs1 is greater than or equal to rs2 as unsigned numbers. -/
  | bgeu (rs1 : BitVec 5) (rs2 : BitVec 5) (off : BitVec 12)
  /-- R54. Non-blocking signed byte load that empties rd until its reply arrives. -/
  | lb (rd : BitVec 5) (rs1 : BitVec 5) (imm : BitVec 12)
  /-- R54. Non-blocking signed half load that empties rd until its reply arrives. -/
  | lh (rd : BitVec 5) (rs1 : BitVec 5) (imm : BitVec 12)
  /-- R54. Non-blocking signed word load that empties rd until its reply arrives. -/
  | lw (rd : BitVec 5) (rs1 : BitVec 5) (imm : BitVec 12)
  /-- R54. Non-blocking doubleword load that empties rd until its reply arrives. -/
  | ld (rd : BitVec 5) (rs1 : BitVec 5) (imm : BitVec 12)
  /-- R54. Non-blocking unsigned byte load that empties rd until its reply arrives. -/
  | lbu (rd : BitVec 5) (rs1 : BitVec 5) (imm : BitVec 12)
  /-- R54. Non-blocking unsigned half load that empties rd until its reply arrives. -/
  | lhu (rd : BitVec 5) (rs1 : BitVec 5) (imm : BitVec 12)
  /-- R54. Non-blocking unsigned word load that empties rd until its reply arrives. -/
  | lwu (rd : BitVec 5) (rs1 : BitVec 5) (imm : BitVec 12)
  /-- R54. Stores the low byte of rs2. -/
  | sb (rs2 : BitVec 5) (rs1 : BitVec 5) (imm : BitVec 12)
  /-- R54. Stores the low half of rs2. -/
  | sh (rs2 : BitVec 5) (rs1 : BitVec 5) (imm : BitVec 12)
  /-- R54. Stores the low word of rs2. -/
  | sw (rs2 : BitVec 5) (rs1 : BitVec 5) (imm : BitVec 12)
  /-- R54. Stores the doubleword rs2. -/
  | sd (rs2 : BitVec 5) (rs1 : BitVec 5) (imm : BitVec 12)
  /-- R54. Adds a sign-extended immediate to rs1. -/
  | addi (rd : BitVec 5) (rs1 : BitVec 5) (imm : BitVec 12)
  /-- R54. Sets rd to 1 when rs1 is below the immediate as signed numbers. -/
  | slti (rd : BitVec 5) (rs1 : BitVec 5) (imm : BitVec 12)
  /-- R54. Sets rd to 1 when rs1 is below the immediate as unsigned numbers. -/
  | sltiu (rd : BitVec 5) (rs1 : BitVec 5) (imm : BitVec 12)
  /-- R54. Exclusive-ors rs1 with the immediate. -/
  | xori (rd : BitVec 5) (rs1 : BitVec 5) (imm : BitVec 12)
  /-- R54. Ors rs1 with the immediate. -/
  | ori (rd : BitVec 5) (rs1 : BitVec 5) (imm : BitVec 12)
  /-- R54. Ands rs1 with the immediate. -/
  | andi (rd : BitVec 5) (rs1 : BitVec 5) (imm : BitVec 12)
  /-- R54. Shifts rs1 left by a 6-bit amount. -/
  | slli (rd : BitVec 5) (rs1 : BitVec 5) (sh : BitVec 6)
  /-- R54. Shifts rs1 right logically by a 6-bit amount. -/
  | srli (rd : BitVec 5) (rs1 : BitVec 5) (sh : BitVec 6)
  /-- R54. Shifts rs1 right arithmetically by a 6-bit amount. -/
  | srai (rd : BitVec 5) (rs1 : BitVec 5) (sh : BitVec 6)
  /-- R54. Adds the immediate to rs1 in 32 bits and sign-extends the result. -/
  | addiw (rd : BitVec 5) (rs1 : BitVec 5) (imm : BitVec 12)
  /-- R54. Shifts the low word of rs1 left and sign-extends. -/
  | slliw (rd : BitVec 5) (rs1 : BitVec 5) (sh : BitVec 5)
  /-- R54. Shifts the low word of rs1 right logically and sign-extends. -/
  | srliw (rd : BitVec 5) (rs1 : BitVec 5) (sh : BitVec 5)
  /-- R54. Shifts the low word of rs1 right arithmetically and sign-extends. -/
  | sraiw (rd : BitVec 5) (rs1 : BitVec 5) (sh : BitVec 5)
  /-- R54. Adds rs1 and rs2. -/
  | add (rd : BitVec 5) (rs1 : BitVec 5) (rs2 : BitVec 5)
  /-- R54. Shifts rs1 left by rs2. -/
  | sll (rd : BitVec 5) (rs1 : BitVec 5) (rs2 : BitVec 5)
  /-- R54. Sets rd to 1 when rs1 is below rs2 as signed numbers. -/
  | slt (rd : BitVec 5) (rs1 : BitVec 5) (rs2 : BitVec 5)
  /-- R54. Sets rd to 1 when rs1 is below rs2 as unsigned numbers. -/
  | sltu (rd : BitVec 5) (rs1 : BitVec 5) (rs2 : BitVec 5)
  /-- R54. Exclusive-ors rs1 and rs2. -/
  | xor (rd : BitVec 5) (rs1 : BitVec 5) (rs2 : BitVec 5)
  /-- R54. Shifts rs1 right logically by rs2. -/
  | srl (rd : BitVec 5) (rs1 : BitVec 5) (rs2 : BitVec 5)
  /-- R54. Ors rs1 and rs2. -/
  | or (rd : BitVec 5) (rs1 : BitVec 5) (rs2 : BitVec 5)
  /-- R54. Ands rs1 and rs2. -/
  | and (rd : BitVec 5) (rs1 : BitVec 5) (rs2 : BitVec 5)
  /-- R54. Subtracts rs2 from rs1. -/
  | sub (rd : BitVec 5) (rs1 : BitVec 5) (rs2 : BitVec 5)
  /-- R54. Shifts rs1 right arithmetically by rs2. -/
  | sra (rd : BitVec 5) (rs1 : BitVec 5) (rs2 : BitVec 5)
  /-- R54. Writes the low 64 bits of rs1 times rs2. -/
  | mul (rd : BitVec 5) (rs1 : BitVec 5) (rs2 : BitVec 5)
  /-- R54. Writes the high 64 bits of the signed product. -/
  | mulh (rd : BitVec 5) (rs1 : BitVec 5) (rs2 : BitVec 5)
  /-- R54. Writes the high 64 bits of the signed-by-unsigned product. -/
  | mulhsu (rd : BitVec 5) (rs1 : BitVec 5) (rs2 : BitVec 5)
  /-- R54. Writes the high 64 bits of the unsigned product. -/
  | mulhu (rd : BitVec 5) (rs1 : BitVec 5) (rs2 : BitVec 5)
  /-- R24. Signed divide as an asynchronous writer that empties rd until the quotient arrives. -/
  | div (rd : BitVec 5) (rs1 : BitVec 5) (rs2 : BitVec 5)
  /-- R24. Unsigned divide as an asynchronous writer. -/
  | divu (rd : BitVec 5) (rs1 : BitVec 5) (rs2 : BitVec 5)
  /-- R24. Signed remainder as an asynchronous writer. -/
  | rem (rd : BitVec 5) (rs1 : BitVec 5) (rs2 : BitVec 5)
  /-- R24. Unsigned remainder as an asynchronous writer. -/
  | remu (rd : BitVec 5) (rs1 : BitVec 5) (rs2 : BitVec 5)
  /-- R54. Adds the low words and sign-extends. -/
  | addw (rd : BitVec 5) (rs1 : BitVec 5) (rs2 : BitVec 5)
  /-- R54. Shifts the low word left and sign-extends. -/
  | sllw (rd : BitVec 5) (rs1 : BitVec 5) (rs2 : BitVec 5)
  /-- R54. Shifts the low word right logically and sign-extends. -/
  | srlw (rd : BitVec 5) (rs1 : BitVec 5) (rs2 : BitVec 5)
  /-- R54. Subtracts the low words and sign-extends. -/
  | subw (rd : BitVec 5) (rs1 : BitVec 5) (rs2 : BitVec 5)
  /-- R54. Shifts the low word right arithmetically and sign-extends. -/
  | sraw (rd : BitVec 5) (rs1 : BitVec 5) (rs2 : BitVec 5)
  /-- R54. Multiplies the low words and sign-extends the low word of the product. -/
  | mulw (rd : BitVec 5) (rs1 : BitVec 5) (rs2 : BitVec 5)
  /-- R24. 32-bit signed divide as an asynchronous writer. -/
  | divw (rd : BitVec 5) (rs1 : BitVec 5) (rs2 : BitVec 5)
  /-- R24. 32-bit unsigned divide as an asynchronous writer. -/
  | divuw (rd : BitVec 5) (rs1 : BitVec 5) (rs2 : BitVec 5)
  /-- R24. 32-bit signed remainder as an asynchronous writer. -/
  | remw (rd : BitVec 5) (rs1 : BitVec 5) (rs2 : BitVec 5)
  /-- R24. 32-bit unsigned remainder as an asynchronous writer. -/
  | remuw (rd : BitVec 5) (rs1 : BitVec 5) (rs2 : BitVec 5)
  /-- R7. Acts as a full fence at system scope for every fm, pred and succ value. -/
  | fence (rd : BitVec 5) (rs1 : BitVec 5) (imm : BitVec 12)
  /-- R7. Makes the context's later fetches reflect earlier stores of the core's contexts and the stores it has acquired. -/
  | fenceI (rd : BitVec 5) (rs1 : BitVec 5) (imm : BitVec 12)
  /-- R31. Swaps a CSR with rs1 under the CSR's field rules. -/
  | csrrw (rd : BitVec 5) (rs1 : BitVec 5) (csr : BitVec 12)
  /-- R31. Reads a CSR and sets the bits given in rs1. -/
  | csrrs (rd : BitVec 5) (rs1 : BitVec 5) (csr : BitVec 12)
  /-- R31. Reads a CSR and clears the bits given in rs1. -/
  | csrrc (rd : BitVec 5) (rs1 : BitVec 5) (csr : BitVec 12)
  /-- R31. Swaps a CSR with a 5-bit immediate. -/
  | csrrwi (rd : BitVec 5) (uimm : BitVec 5) (csr : BitVec 12)
  /-- R31. Reads a CSR and sets the bits of a 5-bit immediate. -/
  | csrrsi (rd : BitVec 5) (uimm : BitVec 5) (csr : BitVec 12)
  /-- R31. Reads a CSR and clears the bits of a 5-bit immediate. -/
  | csrrci (rd : BitVec 5) (uimm : BitVec 5) (csr : BitVec 12)
  /-- R27. Loads an FP32 value into an f register without parking at issue, interlocking later users. -/
  | flw (rd : BitVec 5) (rs1 : BitVec 5) (imm : BitVec 12)
  /-- R54. Stores an FP32 f register. -/
  | fsw (rs2 : BitVec 5) (rs1 : BitVec 5) (imm : BitVec 12)
  /-- R54. Computes rs1 times rs2 plus rs3 in FP32 with one rounding. -/
  | fmaddS (rd : BitVec 5) (rs1 : BitVec 5) (rs2 : BitVec 5) (rs3 : BitVec 5) (rm : BitVec 3)
  /-- R54. Computes rs1 times rs2 minus rs3 in FP32 with one rounding. -/
  | fmsubS (rd : BitVec 5) (rs1 : BitVec 5) (rs2 : BitVec 5) (rs3 : BitVec 5) (rm : BitVec 3)
  /-- R54. Computes minus rs1 times rs2 plus rs3 in FP32. -/
  | fnmsubS (rd : BitVec 5) (rs1 : BitVec 5) (rs2 : BitVec 5) (rs3 : BitVec 5) (rm : BitVec 3)
  /-- R54. Computes minus rs1 times rs2 minus rs3 in FP32. -/
  | fnmaddS (rd : BitVec 5) (rs1 : BitVec 5) (rs2 : BitVec 5) (rs3 : BitVec 5) (rm : BitVec 3)
  /-- R54. Adds two FP32 values. -/
  | faddS (rd : BitVec 5) (rs1 : BitVec 5) (rs2 : BitVec 5) (rm : BitVec 3)
  /-- R54. Subtracts two FP32 values. -/
  | fsubS (rd : BitVec 5) (rs1 : BitVec 5) (rs2 : BitVec 5) (rm : BitVec 3)
  /-- R54. Multiplies two FP32 values. -/
  | fmulS (rd : BitVec 5) (rs1 : BitVec 5) (rs2 : BitVec 5) (rm : BitVec 3)
  /-- R27. Divides two FP32 values without parking at issue, interlocking later users. -/
  | fdivS (rd : BitVec 5) (rs1 : BitVec 5) (rs2 : BitVec 5) (rm : BitVec 3)
  /-- R27. Takes the FP32 square root without parking at issue, interlocking later users. -/
  | fsqrtS (rd : BitVec 5) (rs1 : BitVec 5) (rm : BitVec 3)
  /-- R54. Injects the sign of rs2 into rs1. -/
  | fsgnjS (rd : BitVec 5) (rs1 : BitVec 5) (rs2 : BitVec 5)
  /-- R54. Injects the inverted sign of rs2 into rs1. -/
  | fsgnjnS (rd : BitVec 5) (rs1 : BitVec 5) (rs2 : BitVec 5)
  /-- R54. Xors the sign of rs2 into rs1. -/
  | fsgnjxS (rd : BitVec 5) (rs1 : BitVec 5) (rs2 : BitVec 5)
  /-- R54. Writes the smaller FP32 operand. -/
  | fminS (rd : BitVec 5) (rs1 : BitVec 5) (rs2 : BitVec 5)
  /-- R54. Writes the larger FP32 operand. -/
  | fmaxS (rd : BitVec 5) (rs1 : BitVec 5) (rs2 : BitVec 5)
  /-- R54. Compares rs1 less or equal rs2 into an x register. -/
  | fleS (rd : BitVec 5) (rs1 : BitVec 5) (rs2 : BitVec 5)
  /-- R54. Compares rs1 less than rs2 into an x register. -/
  | fltS (rd : BitVec 5) (rs1 : BitVec 5) (rs2 : BitVec 5)
  /-- R54. Compares rs1 equal rs2 into an x register. -/
  | feqS (rd : BitVec 5) (rs1 : BitVec 5) (rs2 : BitVec 5)
  /-- R54. Converts FP32 to a signed word. -/
  | fcvtWS (rd : BitVec 5) (rs1 : BitVec 5) (rm : BitVec 3)
  /-- R54. Converts FP32 to an unsigned word. -/
  | fcvtWuS (rd : BitVec 5) (rs1 : BitVec 5) (rm : BitVec 3)
  /-- R54. Converts FP32 to a signed doubleword. -/
  | fcvtLS (rd : BitVec 5) (rs1 : BitVec 5) (rm : BitVec 3)
  /-- R54. Converts FP32 to an unsigned doubleword. -/
  | fcvtLuS (rd : BitVec 5) (rs1 : BitVec 5) (rm : BitVec 3)
  /-- R54. Converts a signed word to FP32. -/
  | fcvtSW (rd : BitVec 5) (rs1 : BitVec 5) (rm : BitVec 3)
  /-- R54. Converts an unsigned word to FP32. -/
  | fcvtSWu (rd : BitVec 5) (rs1 : BitVec 5) (rm : BitVec 3)
  /-- R54. Converts a signed doubleword to FP32. -/
  | fcvtSL (rd : BitVec 5) (rs1 : BitVec 5) (rm : BitVec 3)
  /-- R54. Converts an unsigned doubleword to FP32. -/
  | fcvtSLu (rd : BitVec 5) (rs1 : BitVec 5) (rm : BitVec 3)
  /-- R54. Moves the bits of an f register to an x register. -/
  | fmvXW (rd : BitVec 5) (rs1 : BitVec 5)
  /-- R54. Classifies an FP32 value into an x register. -/
  | fclassS (rd : BitVec 5) (rs1 : BitVec 5)
  /-- R54. Moves the low word of an x register to an f register. -/
  | fmvWX (rd : BitVec 5) (rs1 : BitVec 5)
  /-- R8. A word of an unimplemented feature or unallocated encoding raises a precise illegal-instruction trap with no effect. -/
  | illegalInstruction (word : BitVec 32)
  /-- R80. Starts the lowest free helper at PC rs1 with argument rs2 and writes its number, or 0, to rd. -/
  | hstart (rd : BitVec 5) (rs1 : BitVec 5) (rs2 : BitVec 5)
  /-- R83. Waits until a named helper, or every other helper, is free. -/
  | hwait (rs1 : BitVec 5)
  /-- R84. Ends a helper at once, aborting its transaction and releasing its locks with the poison mark. -/
  | hkill (rs1 : BitVec 5)
  /-- R91. Ends context 0's current parcel and fills rd with the next parcel number, or writes all ones when none remains. -/
  | pnext (rd : BitVec 5)
  /-- R87. Empties an x or v register, keeping its pending mark. -/
  | pclr (kind : BitVec 5) (reg : BitVec 5)
  /-- R88. Writes the pending and present bits of a named register to rd without parking. -/
  | ptest (rd : BitVec 5) (kind : BitVec 5) (reg : BitVec 5)
  /-- R89. Posts a value into a register of a context on a core of the issuer's cluster and launch. -/
  | nput (rs1 : BitVec 5) (rs2 : BitVec 5)
  /-- R94. Stops a helper and begins writing its context image, emptying the token rd. -/
  | ctxSave (rd : BitVec 5) (rs1 : BitVec 5) (rs2 : BitVec 5)
  /-- R95. Reserves a free helper and begins reading a context image into it, emptying the token rd. -/
  | ctxLoad (rd : BitVec 5) (rs1 : BitVec 5) (rs2 : BitVec 5)
  /-- R100. Rank 0 sets the expected count for the barrier phases after the current one. -/
  | barInit (rs1 : BitVec 5)
  /-- R98. Sends the core's arrival at the domain barrier and goes on issuing. -/
  | barArr (rd : BitVec 5)
  /-- R101. Waits until a given phase of the domain barrier has completed. -/
  | barWait (rs1 : BitVec 5)
  /-- R98. Arrives at the domain barrier and waits until that phase completes. -/
  | barAwt (rd : BitVec 5)
  /-- R98. Arrives at the domain barrier and drops out of later phases. -/
  | barDrop (rd : BitVec 5)
  /-- R104. Collectively pushes or pops a domain level, emptying rd until every member has issued it. -/
  | domSet (rd : BitVec 5) (rs1 : BitVec 5) (rs2 : BitVec 5)
  /-- R105. Writes the size and rank of the core at a given domain level. -/
  | domGet (rd : BitVec 5) (rs1 : BitVec 5)
  /-- R106. Checks the receive-area descriptor and arrives at the domain barrier to open an exchange phase. -/
  | xchBeg (rs1 : BitVec 5)
  /-- R107. Queues a v register in the send buffer for a destination rank that the slot table allows. -/
  | xsend (rs1 : BitVec 5) (vs : BitVec 4)
  /-- R109. Waits until qrxcnt reaches a count and writes the count to rd. -/
  | xrecv (rd : BitVec 5) (rs1 : BitVec 5)
  /-- R112. Raises SWFAULT as a precise trap with tval = rs1. -/
  | qtrap (rs1 : BitVec 5) (code : BitVec 12)
  /-- R120. Atomically adds rs2 to memory and returns the old value. -/
  | amAdd (rd : BitVec 5) (rs1 : BitVec 5) (rs2 : BitVec 5) (ord : BitVec 3) (w : BitVec 1) (sc : BitVec 2)
  /-- R120. Atomically ands rs2 into memory and returns the old value. -/
  | amAnd (rd : BitVec 5) (rs1 : BitVec 5) (rs2 : BitVec 5) (ord : BitVec 3) (w : BitVec 1) (sc : BitVec 2)
  /-- R120. Atomically ors rs2 into memory and returns the old value. -/
  | amOr (rd : BitVec 5) (rs1 : BitVec 5) (rs2 : BitVec 5) (ord : BitVec 3) (w : BitVec 1) (sc : BitVec 2)
  /-- R120. Atomically xors rs2 into memory and returns the old value. -/
  | amXor (rd : BitVec 5) (rs1 : BitVec 5) (rs2 : BitVec 5) (ord : BitVec 3) (w : BitVec 1) (sc : BitVec 2)
  /-- R120. Atomically keeps the signed minimum and returns the old value. -/
  | amMin (rd : BitVec 5) (rs1 : BitVec 5) (rs2 : BitVec 5) (ord : BitVec 3) (w : BitVec 1) (sc : BitVec 2)
  /-- R120. Atomically keeps the signed maximum and returns the old value. -/
  | amMax (rd : BitVec 5) (rs1 : BitVec 5) (rs2 : BitVec 5) (ord : BitVec 3) (w : BitVec 1) (sc : BitVec 2)
  /-- R120. Atomically keeps the unsigned minimum and returns the old value. -/
  | amMinn (rd : BitVec 5) (rs1 : BitVec 5) (rs2 : BitVec 5) (ord : BitVec 3) (w : BitVec 1) (sc : BitVec 2)
  /-- R120. Atomically keeps the unsigned maximum and returns the old value. -/
  | amMaxn (rd : BitVec 5) (rs1 : BitVec 5) (rs2 : BitVec 5) (ord : BitVec 3) (w : BitVec 1) (sc : BitVec 2)
  /-- R120. Atomically swaps rs2 into memory and returns the old value. -/
  | amSwp (rd : BitVec 5) (rs1 : BitVec 5) (rs2 : BitVec 5) (ord : BitVec 3) (w : BitVec 1) (sc : BitVec 2)
  /-- R120. Atomically stores rs2 when memory equals rd and returns the old value in rd. -/
  | amCas (rd : BitVec 5) (rs1 : BitVec 5) (rs2 : BitVec 5) (ord : BitVec 3) (w : BitVec 1) (sc : BitVec 2)
  /-- R120. Atomically adds a floating-point operand under RNE and returns the old value. -/
  | amFadd (rd : BitVec 5) (rs1 : BitVec 5) (rs2 : BitVec 5) (ord : BitVec 3) (w : BitVec 1) (sc : BitVec 2)
  /-- R120. Atomic 16-byte compare-and-swap on register pairs. -/
  | amCasQ (rd : BitVec 5) (rs1 : BitVec 5) (rs2 : BitVec 5) (ord : BitVec 3) (sc : BitVec 2)
  /-- R117. Loads the active lanes of a v register from consecutive elements. -/
  | vld (v : BitVec 4) (rs1 : BitVec 5) (et : BitVec 3) (km : BitVec 2) (h : BitVec 1)
  /-- R117. Loads the active lanes of a v register with a byte stride. -/
  | vlds (v : BitVec 4) (rs1 : BitVec 5) (rs2 : BitVec 5) (et : BitVec 3) (km : BitVec 2) (h : BitVec 1)
  /-- R117. Loads the active lanes of a v register at indexed addresses. -/
  | vldx (v : BitVec 4) (rs1 : BitVec 5) (vs : BitVec 4) (et : BitVec 3) (km : BitVec 2) (h : BitVec 1)
  /-- R117. Loads one element and writes it to every active lane. -/
  | vbc (v : BitVec 4) (rs1 : BitVec 5) (et : BitVec 3) (km : BitVec 2) (h : BitVec 1)
  /-- R117. Stores the active lanes of a v register to consecutive elements. -/
  | vst (v : BitVec 4) (rs1 : BitVec 5) (et : BitVec 3) (km : BitVec 2) (h : BitVec 1)
  /-- R117. Stores the active lanes of a v register with a byte stride. -/
  | vsts (v : BitVec 4) (rs1 : BitVec 5) (rs2 : BitVec 5) (et : BitVec 3) (km : BitVec 2) (h : BitVec 1)
  /-- R117. Stores the active lanes of a v register at indexed addresses. -/
  | vstx (v : BitVec 4) (rs1 : BitVec 5) (vs : BitVec 4) (et : BitVec 3) (km : BitVec 2) (h : BitVec 1)
  /-- R128. Waits until a word is at least a value or a cycle limit passes. -/
  | gwait (rd : BitVec 5) (rs1 : BitVec 5) (rs2 : BitVec 5) (rs3 : BitVec 5)
  /-- R143. Queues a copy from memory to memory at the octet's copy engine. -/
  | cpG2g (rd : BitVec 5) (rs1 : BitVec 5) (rs2 : BitVec 5) (rs3 : BitVec 5)
  /-- R143. Queues a two-dimensional row copy at the octet's copy engine. -/
  | cp2d (rd : BitVec 5) (rs1 : BitVec 5) (rs2 : BitVec 5) (rs3 : BitVec 5)
  /-- R143. Queues a copy from memory to scratchpad. -/
  | cpG2s (rd : BitVec 5) (rs1 : BitVec 5) (rs2 : BitVec 5) (rs3 : BitVec 5)
  /-- R143. Queues a copy from scratchpad to memory. -/
  | cpS2g (rd : BitVec 5) (rs1 : BitVec 5) (rs2 : BitVec 5) (rs3 : BitVec 5)
  /-- R143. Queues a copy from scratchpad to scratchpad. -/
  | cpS2s (rd : BitVec 5) (rs1 : BitVec 5) (rs2 : BitVec 5) (rs3 : BitVec 5)
  /-- R123. Posts an integer add reduction into memory without reading it back. -/
  | redAdd (rs1 : BitVec 5) (rs2 : BitVec 5) (w : BitVec 1)
  /-- R123. Posts a signed minimum reduction into memory. -/
  | redMin (rs1 : BitVec 5) (rs2 : BitVec 5) (w : BitVec 1)
  /-- R123. Posts a signed maximum reduction into memory. -/
  | redMax (rs1 : BitVec 5) (rs2 : BitVec 5) (w : BitVec 1)
  /-- R123. Posts a floating-point add reduction into memory, rounded under RNE. -/
  | redFadd (rs1 : BitVec 5) (rs2 : BitVec 5) (w : BitVec 1)
  /-- R126. Holds the context until its earlier loads and acquires are performed at the scope. -/
  | fncAcq (scope : BitVec 5)
  /-- R126. Holds the context until its earlier accesses are performed at the scope before later writes. -/
  | fncRel (scope : BitVec 5)
  /-- R126. Holds the context until every earlier access is performed at the scope before any later one. -/
  | fncFull (scope : BitVec 5)
  /-- R127. Posts an add to a word at its home as a release at system scope. -/
  | gsig (rs1 : BitVec 5) (rs2 : BitVec 5)
  /-- R129. Indivisibly takes NEXT from a ticket word and increments it. -/
  | tkGet (rd : BitVec 5) (rs1 : BitVec 5)
  /-- R129. Waits until a ticket has been reached, ending as an acquire at system scope. -/
  | tkWait (rs1 : BitVec 5) (rs2 : BitVec 5)
  /-- R129. Indivisibly increments SERVE of a ticket word as a release at system scope. -/
  | tkAdv (rs1 : BitVec 5)
  /-- R130. Joins the queue of a gecko lock with a timeout, emptying rd until the status arrives. -/
  | lkAcq (rd : BitVec 5) (rs1 : BitVec 5) (rs2 : BitVec 5)
  /-- R130. Takes a gecko lock only if it has no entry at its home, else returns BUSY. -/
  | lkTry (rd : BitVec 5) (rs1 : BitVec 5)
  /-- R132. Releases a held gecko lock, handing line and lock to the successor once earlier accesses are performed. -/
  | lkRel (rs1 : BitVec 5)
  /-- R133. Returns a snapshot status word of a gecko lock. -/
  | lkStat (rd : BitVec 5) (rs1 : BitVec 5)
  /-- R136. Begins or nests a transaction, taking a checkpoint and an age. -/
  | txBeg (rd : BitVec 5)
  /-- R142. Aborts the transaction with EXPLICIT and a user code. -/
  | txAbt (rs1 : BitVec 5)
  /-- R142. Writes the context's transaction status word. -/
  | txStat (rd : BitVec 5)
  /-- R150. Publishes, defines or clears a scratchpad remap entry, emptying rd until done. -/
  | cpPub (rd : BitVec 5) (rs1 : BitVec 5)
  /-- R147. Removes or stops a pending copy of the context, setting its token to CANCELLED. -/
  | cpCancel (rd : BitVec 5)
  /-- R151. Posts a gather of indexed table elements into scratchpad for the domain's next exchange phase. -/
  | gth (rd : BitVec 5) (rs1 : BitVec 5) (rs2 : BitVec 5)
  /-- R151. Posts a scatter of scratchpad elements to indexed table entries for the next exchange phase. -/
  | sct (rd : BitVec 5) (rs1 : BitVec 5) (rs2 : BitVec 5)
  /-- R153. Writes a dirty line back to main memory, keeping clean copies. -/
  | clWb (rs1 : BitVec 5)
  /-- R153. Removes a line from the issuing core's L1 after writing it back if dirty. -/
  | clInv (rs1 : BitVec 5)
  /-- R153. Writes a line back and removes it from every cache of the package. -/
  | clFlush (rs1 : BitVec 5)
  /-- R154. Invalidates cached translations over a chosen reach, raising FAULTDONE for held helpers it covers. -/
  | tlbInv (rs1 : BitVec 5) (rs2 : BitVec 5)
  /-- R155. Starts migration of a page to a new frame, emptying the token rd. -/
  | pgMig (rd : BitVec 5) (rs1 : BitVec 5) (rs2 : BitVec 5)
  /-- R156. Returns the migration state of a page read at its current owner. -/
  | pgStat (rd : BitVec 5) (rs1 : BitVec 5)
  /-- R164. Adds active floating-point lanes with one rounding each. -/
  | vadd (vd : BitVec 4) (vs1 : BitVec 4) (vs2 : BitVec 4) (ft : BitVec 2) (rm : BitVec 3) (km : BitVec 2) (h : BitVec 1)
  /-- R164. Subtracts active floating-point lanes with one rounding each. -/
  | vsub (vd : BitVec 4) (vs1 : BitVec 4) (vs2 : BitVec 4) (ft : BitVec 2) (rm : BitVec 3) (km : BitVec 2) (h : BitVec 1)
  /-- R164. Multiplies active floating-point lanes with one rounding each. -/
  | vmul (vd : BitVec 4) (vs1 : BitVec 4) (vs2 : BitVec 4) (ft : BitVec 2) (rm : BitVec 3) (km : BitVec 2) (h : BitVec 1)
  /-- R164. Divides active floating-point lanes with one rounding each. -/
  | vdiv (vd : BitVec 4) (vs1 : BitVec 4) (vs2 : BitVec 4) (ft : BitVec 2) (rm : BitVec 3) (km : BitVec 2) (h : BitVec 1)
  /-- R164. Takes the square root of active floating-point lanes. -/
  | vsqrt (vd : BitVec 4) (vs1 : BitVec 4) (ft : BitVec 2) (rm : BitVec 3) (km : BitVec 2) (h : BitVec 1)
  /-- R164. Computes vs1 times vs2 plus vd with one rounding. -/
  | vfma (vd : BitVec 4) (vs1 : BitVec 4) (vs2 : BitVec 4) (ft : BitVec 2) (rm : BitVec 3) (km : BitVec 2) (h : BitVec 1)
  /-- R164. Computes vs1 times vs2 minus vd with one rounding. -/
  | vfms (vd : BitVec 4) (vs1 : BitVec 4) (vs2 : BitVec 4) (ft : BitVec 2) (rm : BitVec 3) (km : BitVec 2) (h : BitVec 1)
  /-- R164. Computes vd minus vs1 times vs2 with one rounding. -/
  | vfnma (vd : BitVec 4) (vs1 : BitVec 4) (vs2 : BitVec 4) (ft : BitVec 2) (rm : BitVec 3) (km : BitVec 2) (h : BitVec 1)
  /-- R165. Writes the smaller of two floating-point lanes. -/
  | vmin (vd : BitVec 4) (vs1 : BitVec 4) (vs2 : BitVec 4) (ft : BitVec 2) (km : BitVec 2) (h : BitVec 1)
  /-- R165. Writes the larger of two floating-point lanes. -/
  | vmax (vd : BitVec 4) (vs1 : BitVec 4) (vs2 : BitVec 4) (ft : BitVec 2) (km : BitVec 2) (h : BitVec 1)
  /-- R166. Clears the sign bit of each active lane. -/
  | vabs (vd : BitVec 4) (vs1 : BitVec 4) (ft : BitVec 2) (km : BitVec 2) (h : BitVec 1)
  /-- R166. Inverts the sign bit of each active lane. -/
  | vneg (vd : BitVec 4) (vs1 : BitVec 4) (ft : BitVec 2) (km : BitVec 2) (h : BitVec 1)
  /-- R167. Converts lanes from a source format to the destination floating-point format. -/
  | vcvt (vd : BitVec 4) (vs1 : BitVec 4) (sf : BitVec 4) (ft : BitVec 2) (rm : BitVec 3) (km : BitVec 2) (h : BitVec 1)
  /-- R168. Sums the active lanes in a fixed pairwise tree into lane 0. -/
  | vredsum (vd : BitVec 4) (vs1 : BitVec 4) (ft : BitVec 2) (rm : BitVec 3) (km : BitVec 2) (h : BitVec 1)
  /-- R168. Takes the minimum of the active lanes in a fixed tree into lane 0. -/
  | vredmin (vd : BitVec 4) (vs1 : BitVec 4) (ft : BitVec 2) (km : BitVec 2) (h : BitVec 1)
  /-- R168. Takes the maximum of the active lanes in a fixed tree into lane 0. -/
  | vredmax (vd : BitVec 4) (vs1 : BitVec 4) (ft : BitVec 2) (km : BitVec 2) (h : BitVec 1)
  /-- R169. Adds integer lanes modulo their width. -/
  | viadd (vd : BitVec 4) (vs1 : BitVec 4) (vs2 : BitVec 4) (et : BitVec 3) (km : BitVec 3) (h : BitVec 1)
  /-- R169. Subtracts integer lanes modulo their width. -/
  | visub (vd : BitVec 4) (vs1 : BitVec 4) (vs2 : BitVec 4) (et : BitVec 3) (km : BitVec 3) (h : BitVec 1)
  /-- R169. Multiplies integer lanes, keeping the low half. -/
  | vimul (vd : BitVec 4) (vs1 : BitVec 4) (vs2 : BitVec 4) (et : BitVec 3) (km : BitVec 3) (h : BitVec 1)
  /-- R170. Ands active lanes bitwise. -/
  | vand (vd : BitVec 4) (vs1 : BitVec 4) (vs2 : BitVec 4) (et : BitVec 3) (km : BitVec 3) (h : BitVec 1)
  /-- R170. Ors active lanes bitwise. -/
  | vor (vd : BitVec 4) (vs1 : BitVec 4) (vs2 : BitVec 4) (et : BitVec 3) (km : BitVec 3) (h : BitVec 1)
  /-- R170. Xors active lanes bitwise. -/
  | vxor (vd : BitVec 4) (vs1 : BitVec 4) (vs2 : BitVec 4) (et : BitVec 3) (km : BitVec 3) (h : BitVec 1)
  /-- R169. Shifts integer lanes left. -/
  | vsll (vd : BitVec 4) (vs1 : BitVec 4) (vs2 : BitVec 4) (et : BitVec 3) (km : BitVec 3) (h : BitVec 1)
  /-- R169. Shifts integer lanes right logically. -/
  | vsrl (vd : BitVec 4) (vs1 : BitVec 4) (vs2 : BitVec 4) (et : BitVec 3) (km : BitVec 3) (h : BitVec 1)
  /-- R169. Shifts integer lanes right arithmetically. -/
  | vsra (vd : BitVec 4) (vs1 : BitVec 4) (vs2 : BitVec 4) (et : BitVec 3) (km : BitVec 3) (h : BitVec 1)
  /-- R171. Writes lane equality into a k register. -/
  | vcmpeq (kd : BitVec 3) (vs1 : BitVec 4) (vs2 : BitVec 4) (et : BitVec 3) (km : BitVec 3) (h : BitVec 1)
  /-- R171. Writes lane inequality into a k register. -/
  | vcmpne (kd : BitVec 3) (vs1 : BitVec 4) (vs2 : BitVec 4) (et : BitVec 3) (km : BitVec 3) (h : BitVec 1)
  /-- R171. Writes signed or ordered less-than into a k register. -/
  | vcmplt (kd : BitVec 3) (vs1 : BitVec 4) (vs2 : BitVec 4) (et : BitVec 3) (km : BitVec 3) (h : BitVec 1)
  /-- R171. Writes signed or ordered less-or-equal into a k register. -/
  | vcmple (kd : BitVec 3) (vs1 : BitVec 4) (vs2 : BitVec 4) (et : BitVec 3) (km : BitVec 3) (h : BitVec 1)
  /-- R171. Writes unsigned or unordered less-than into a k register. -/
  | vcmpltn (kd : BitVec 3) (vs1 : BitVec 4) (vs2 : BitVec 4) (et : BitVec 3) (km : BitVec 3) (h : BitVec 1)
  /-- R172. Permutes lanes of vs1 by indices in vs2. -/
  | vperm (vd : BitVec 4) (vs1 : BitVec 4) (vs2 : BitVec 4) (et : BitVec 3) (km : BitVec 3) (h : BitVec 1)
  /-- R172. Slides lanes of vs1 by a signed count from an x register. -/
  | vslide (vd : BitVec 4) (vs1 : BitVec 4) (xs : BitVec 4) (et : BitVec 3) (km : BitVec 3) (h : BitVec 1)
  /-- R173. Interleaves the low halves of two registers. -/
  | vzip (vd : BitVec 4) (vs1 : BitVec 4) (vs2 : BitVec 4) (et : BitVec 3) (km : BitVec 3) (h : BitVec 1)
  /-- R173. Takes the even lanes of the concatenation of two registers. -/
  | vunzip (vd : BitVec 4) (vs1 : BitVec 4) (vs2 : BitVec 4) (et : BitVec 3) (km : BitVec 3) (h : BitVec 1)
  /-- R174. Chooses each lane from vs1 or vs2 by a k register. -/
  | vmerge (vd : BitVec 4) (vs1 : BitVec 4) (vs2 : BitVec 4) (et : BitVec 3) (km : BitVec 3) (h : BitVec 1)
  /-- R174. Copies a v register, byte-masked when km is nonzero. -/
  | vmv (vd : BitVec 4) (vs1 : BitVec 4) (km : BitVec 3) (h : BitVec 1)
  /-- R175. Inserts the low bits of an x register into one lane. -/
  | vins (vd : BitVec 4) (xs : BitVec 4) (xi : BitVec 4) (et : BitVec 3) (h : BitVec 1)
  /-- R175. Extracts one lane into an x register as an asynchronous writer. -/
  | vext (rd : BitVec 5) (vs : BitVec 4) (xi : BitVec 4) (et : BitVec 3)
  /-- R176. Ands two k registers. -/
  | kand (kd : BitVec 3) (ks1 : BitVec 3) (ks2 : BitVec 3)
  /-- R176. Ors two k registers. -/
  | kor (kd : BitVec 3) (ks1 : BitVec 3) (ks2 : BitVec 3)
  /-- R176. Xors two k registers. -/
  | kxor (kd : BitVec 3) (ks1 : BitVec 3) (ks2 : BitVec 3)
  /-- R176. Inverts a k register. -/
  | knot (kd : BitVec 3) (ks1 : BitVec 3)
  /-- R176. Counts the 1 bits of a k register into an x register. -/
  | kpop (rd : BitVec 5) (ks1 : BitVec 3)
  /-- R176. Writes the index of the lowest 1 bit of a k register, or 64. -/
  | kfirst (rd : BitVec 5) (ks1 : BitVec 3)
  /-- R192. Queues a BF16 matrix multiply-accumulate into an accumulator. -/
  | mmBf16 (rd : BitVec 5) (rs1 : BitVec 5) (rs2 : BitVec 5) (fs : BitVec 5)
  /-- R192. Queues an FP16 matrix multiply-accumulate. -/
  | mmFp16 (rd : BitVec 5) (rs1 : BitVec 5) (rs2 : BitVec 5) (fs : BitVec 5)
  /-- R192. Queues an E4M3 by E4M3 matrix multiply-accumulate. -/
  | mmE4e4 (rd : BitVec 5) (rs1 : BitVec 5) (rs2 : BitVec 5) (fs : BitVec 5)
  /-- R192. Queues an E5M2 by E5M2 matrix multiply-accumulate. -/
  | mmE5e5 (rd : BitVec 5) (rs1 : BitVec 5) (rs2 : BitVec 5) (fs : BitVec 5)
  /-- R192. Queues an E4M3 by E5M2 matrix multiply-accumulate. -/
  | mmE4e5 (rd : BitVec 5) (rs1 : BitVec 5) (rs2 : BitVec 5) (fs : BitVec 5)
  /-- R192. Queues an E5M2 by E4M3 matrix multiply-accumulate. -/
  | mmE5e4 (rd : BitVec 5) (rs1 : BitVec 5) (rs2 : BitVec 5) (fs : BitVec 5)
  /-- R192. Queues a QE8 by E4M3 matrix multiply-accumulate. -/
  | mmQe4 (rd : BitVec 5) (rs1 : BitVec 5) (rs2 : BitVec 5) (fs : BitVec 5)
  /-- R192. Queues a QE8 by BF16 matrix multiply-accumulate. -/
  | mmQbf (rd : BitVec 5) (rs1 : BitVec 5) (rs2 : BitVec 5) (fs : BitVec 5)
  /-- R192. Queues an INT8 matrix multiply into an INT32 accumulator. -/
  | mmI8 (rd : BitVec 5) (rs1 : BitVec 5) (rs2 : BitVec 5) (fs : BitVec 5)
  /-- R192. Queues an FP32 matrix multiply-accumulate. -/
  | mmFp32 (rd : BitVec 5) (rs1 : BitVec 5) (rs2 : BitVec 5) (fs : BitVec 5)
  /-- R199. Queues a command that sets an accumulator to +0. -/
  | maZero (rd : BitVec 5) (acc : BitVec 2)
  /-- R200. Queues a load of an accumulator from scratchpad, converted exactly to FP32. -/
  | maLd (rd : BitVec 5) (acc : BitVec 2) (rs1 : BitVec 5)
  /-- R201. Queues a rounded store of an accumulator to scratchpad, optionally binning exponents. -/
  | maSt (rd : BitVec 5) (acc : BitVec 2) (rs1 : BitVec 5) (rm : BitVec 3)
  /-- R199. Queues a copy of one accumulator into another. -/
  | maMv (rd : BitVec 5) (accD : BitVec 2) (accS : BitVec 2)
  /-- R203. Queues a clear of an LA640 long accumulator. -/
  | laClr (rd : BitVec 5) (rs1 : BitVec 5)
  /-- R203. Queues exact addition of lane products into an LA640. -/
  | laFma (rd : BitVec 5) (rs1 : BitVec 5) (va : BitVec 4) (vb : BitVec 4)
  /-- R203. Queues exact addition of lane values into an LA640. -/
  | laAdd (rd : BitVec 5) (rs1 : BitVec 5) (va : BitVec 4)
  /-- R204. Queues rounding of an LA640 to a floating-point format. -/
  | laRnd (rd : BitVec 5) (rs1 : BitVec 5) (fmt : BitVec 2) (rm : BitVec 3)
  /-- R205. Queues exact addition of one LA640 into another. -/
  | laMrg (rd : BitVec 5) (rs1 : BitVec 5) (rs2 : BitVec 5)
  /-- R207. Queues binning of every lane's exponent into a histogram. -/
  | hxBin (rd : BitVec 5) (rs1 : BitVec 5) (va : BitVec 4) (ft : BitVec 2)
  /-- R207. Queues a clear of a histogram. -/
  | hxClr (rd : BitVec 5) (rs1 : BitVec 5)
  /-- R207. Queues a saturating merge of one histogram into another. -/
  | hxMrg (rd : BitVec 5) (rs1 : BitVec 5) (rs2 : BitVec 5)
  /-- R15. From U mode traps to the runtime, or with a7 = 0 parks until the context's accesses complete and then ends the parcel; from S mode with an unknown a7 returns -1. -/
  | ecall
  /-- R398. An S-mode ecall with a7 = 1 hands a fault to firmware, which logs it and applies qcont.ESC of the calling core. -/
  | ecallPassFault
  /-- R398. An S-mode ecall with a7 = 2 posts an INTERRUPT event carrying a0 and returns a0 := 0. -/
  | ecallRaiseInterrupt
  /-- R54. Raises a breakpoint trap. -/
  | ebreak
  /-- R54. Returns from an S-mode trap and frees a hand-back slot held for a trapped engine fault. -/
  | sret
  /-- R54. Returns from an M-mode trap. -/
  | mret
  /-- R7. In S or M mode stops issue from the context until an interrupt is pending for it; illegal in U mode. -/
  | wfi
  /-- R81. Ends the executing helper, freeing its context. -/
  | hend
  /-- R86. Makes the context not ready until the other ready contexts have issued once or 11 cycles pass. -/
  | yield
  /-- R92. Returns context 0 from an upcall, delivering a held upcall or resuming at qupepc and releasing a held helper. -/
  | upret
  /-- R113. Stops issue on every context and halts the core until an enabled interrupt is pending for context 0. -/
  | qhalt
  /-- R110. Waits for the send buffer to drain, then arrives at the exchange's closing barrier and waits. -/
  | xchEnd
  /-- R139. Decrements the nesting depth or starts the commit of the outermost transaction. -/
  | txEnd
  /-- R31. A write to a CSR with no behaviour of its own, stored under its field rules. -/
  | csrWrite (csr : BitVec 12) (v : BitVec 64)
  /-- R298. A write to a region descriptor removes that region's entries from the core's L1 TLBs and applies to every later access. -/
  | qrgnWrite (word : BitVec 4) (v : BitVec 64)
  /-- R37. A write to qrxcnt sets the landing count, a landing of the same cycle being counted after it. -/
  | qrxcntWrite (v : BitVec 64)
  /-- R42. A write to qcont changes the containment policies and, for NOPRE, raises a CTL event. -/
  | qcontWrite (v : BitVec 64)
  /-- R43. A write to qsave locates the save area and, for V, raises a CTL event. -/
  | qsaveWrite (v : BitVec 64)
  /-- R24. The reply to a request writes its register, sets presence and clears the pending mark, or is written into the image of a saved core. -/
  | reply (id : Nat)
  /-- R158. A VEC or vector memory instruction reaches the head of the vector queue and executes. -/
  | vectorQueueExecute (core : Nat)
  /-- R89. An nput fill reaches its target context and writes the register, or is discarded with NPUTLOST. -/
  | nputFill (id : Nat)
  /-- R15. Once the context's accesses have completed, the parcel ends and the next parcel begins or the rank retires, ending its helpers. -/
  | parcelEnd (core : Nat)
  /-- R244. The octet's arbiter grants one unit of matrix work to an eligible head command by weighted round robin. -/
  | matrixGrant (octet : Nat)
  /-- R181. A matrix command completes, writes its results and sets its token to 0 or a failure status. -/
  | mtxCompletion (core : Nat)
  /-- R187. A multiply with C = 1 has read A and B and fills its operands-consumed token. -/
  | operandsConsumed (core : Nat)
  /-- R196. A paired multiply at the cluster pairing point pairs with the earliest unpaired partner of the same tag. -/
  | pairing (core : Nat)
  /-- R196. A paired command finds no partner within qpair.WINDOW cycles and ends with PAIRTIMEOUT. -/
  | pairtimeout (core : Nat)
  /-- R246. The copy engine advances one core's head command by up to 1,024 bytes in its turn. -/
  | copyEngineTurn (octet : Nat)
  /-- R144. A copy completes and sets its token to 0 as a release at its scope. -/
  | copyCompletion (core : Nat)
  /-- R150. Once earlier shadow copies are done, the remap selector flips; once old readers finish, the publish token completes. -/
  | publishFlip (core : Nat)
  /-- R247. The gather engine moves up to 1,024 bytes of one command of a domain in exchange. -/
  | gatherEngineTurn (cluster : Nat)
  /-- R99. An arrival reaches the barrier unit, is counted, answered, and may complete the phase. -/
  | barrierArrival (id : Nat)
  /-- R101. The completion of a phase reaches a member, ending its barrier waits and opening or closing an exchange phase. -/
  | barrierCompletion (id : Nat)
  /-- R104. When every member has issued dom.set, new domains and counters are formed or a level is popped, and rd is filled. -/
  | domSetCompletion (dom : Nat)
  /-- R250. A slot of an exchange phase begins and each sender whose head entry the table allows sends it. -/
  | exchangeSlot (dom : Nat)
  /-- R108. An exchange entry lands in the receive area and increments qrxcnt, or is discarded with XRXOVF. -/
  | entryLanding (id : Nat)
  /-- R94. A ctx.save finishes writing the image, frees the helper and sets its token. -/
  | ctxSaveCompletion (core : Nat) (ctx : Nat)
  /-- R95. A ctx.load finishes reading the image, makes the helper live and sets its token. -/
  | ctxLoadCompletion (core : Nat) (ctx : Nat)
  /-- R127. A gsig increment, sent once earlier accesses are performed, is added at the word's home. -/
  | gsigPerform (id : Nat)
  /-- R128. A gwait's cycle limit passes and the wait ends with TIMEOUT. -/
  | gwaitTimeout (core : Nat) (ctx : Nat)
  /-- R364. A new value of a watched word reaches a package, whose gateway retests its waiters. -/
  | watchValue (pkg : Nat) (word : Nat)
  /-- R329. A read request for a line is served at its home slice by the directory transitions. -/
  | homeRead (id : Nat) (part : Nat)
  /-- R329. A write or atomic request for a line is served at its home, checking transactional conflicts. -/
  | homeWrite (id : Nat) (part : Nat)
  /-- R329. A reduction enters the line's partial state at its home, merging holders of another tag first. -/
  | homeReduce (id : Nat) (part : Nat)
  /-- R329. A holder evicts a line and the home updates memory or merges its partial. -/
  | homeEviction (cluster : Nat) (line : Nat)
  /-- R330. A reduction arrives at the cluster L2 and is combined into the line's partial value. -/
  | reductionAtL2 (id : Nat) (part : Nat)
  /-- R327. A directory probe reaches a cluster, is filtered and answered, waking a sleeping agent if needed. -/
  | probe (cluster : Nat) (line : Nat)
  /-- R332. A probe answer fails to arrive in time; it is resent once, then the agent is declared failed. -/
  | probeTimeout (cluster : Nat) (line : Nat)
  /-- R342. An lk.acq or lk.try request reaches the lock's home and is granted, queued or refused. -/
  | lockRequest (id : Nat)
  /-- R342. An enqueue reaches the predecessor's L1 and records the successor link. -/
  | successorLink (id : Nat)
  /-- R342. A release with no successor reaches the home, freeing the entry or passing the lock to a later waiter. -/
  | lockReleaseHome (id : Nat)
  /-- R343. A handoff reaches the successor, filling its rd, passing through a ghost, or being parked at a saved core. -/
  | lockHandoff (id : Nat)
  /-- R344. A waiter's lock timeout expires; it completes with TIMEOUT and its link becomes a ghost. -/
  | lockTimeout (core : Nat) (ctx : Nat)
  /-- R346. After a waiter has waited 65,536 cycles the lock engine searches for a cycle and gives DEADLOCK to its youngest waiter. -/
  | deadlockSearch (core : Nat) (ctx : Nat)
  /-- R345. A grant parked for a saved context outlasts qlkpark and is handed on, with SKIPPED in the image. -/
  | grantParkExpiry (core : Nat) (ctx : Nat)
  /-- R337. An abort raised by a home reaches the owning context, which rolls back to its checkpoint. -/
  | txAbortMessage (core : Nat) (ctx : Nat)
  /-- R338. A commit prepare reaches a home, which marks the transaction's tiles as committing and acknowledges. -/
  | txPrepare (core : Nat) (ctx : Nat) (home : Nat)
  /-- R338. The last prepare acknowledgement is the commit point: speculative lines become M and releases are sent. -/
  | txPrepareAck (core : Nat) (ctx : Nat)
  /-- R338. A commit release reaches a home, which clears the overlay and serves held accesses. -/
  | txRelease (core : Nat) (ctx : Nat) (home : Nat)
  /-- R258. A waiting upcall is delivered to context 0 when it is in U mode, outside a transaction and not in a handler. -/
  | upcallDelivery (core : Nat)
  /-- R257. A deferred trap is taken by its context at the first eligible instruction boundary. -/
  | deferredTrap (core : Nat) (ctx : Nat)
  /-- R385. Context 0 takes the pending supervisor external interrupt when enabled. -/
  | interruptTake (core : Nat)
  /-- R42. A core with live contexts issues nothing for WDOG x 65,536 cycles and raises WATCHDOG. -/
  | watchdog (core : Nat)
  /-- R86. Eleven cycles after a yield, the context becomes ready again. -/
  | yieldWindowEnd (core : Nat) (ctx : Nat)
  /-- R273. An uncorrectable core error quarantines the core onto the spare column and contains its rank. -/
  | quarantine (core : Nat)
  /-- R235. A launch packet reaches the endpoint, is checked and accepted as SUBMIT or rejected with a record. -/
  | launch (pkg : Nat) (tenant : Nat) (queue : Nat) (msg : LaunchMsg)
  /-- R237. A SUBMIT event is applied on every die, which then runs Distribute on its partition. -/
  | submit (pkg : Nat)
  /-- R237. A RETIRE event, raised when a rank's commands have completed, frees cores and after the last rank writes the record. -/
  | retire (pkg : Nat)
  /-- R237. A SAVED event is applied, letting the waiting rank start on the pre-empted core. -/
  | saved (pkg : Nat)
  /-- R237. A CTL event records a core's new qsave.V or qcont.NOPRE in every occupancy map. -/
  | ctl (pkg : Nat)
  /-- R237. A PART event applies a partition change from the fabric manager. -/
  | part (pkg : Nat) (num : Nat) (tenant : Nat) (quads : BitVec 128) (windows : List (BitVec 64)) (l2mask : List (BitVec 24)) (llcWays : Nat) (bwHbm : Nat) (bwDdr : Nat)
  /-- R241. A rank is started on a core: repartitioning with write-backs, CSR loading and context 0 at the entry. -/
  | rankStart (core : Nat)
  /-- R266. A victim core, once quiet, stops issue, drains its queues, writes its save area and raises SAVED. -/
  | preempt (core : Nat)
  /-- R271. A saved rank is read back from the save area and its contexts resume. -/
  | restore (core : Nat)
  /-- R28. A core reset frees every context except context 0, which starts in M mode at the firmware entry. -/
  | coreReset (core : Nat)
  /-- R390. Stops and cleans every core of a partition, poisons its lines in flight and posts PARTRESET. -/
  | partitionReset (pkg : Nat) (num : Nat)
  /-- R392. Power-on bring-up verifies firmware, authenticates dies, trains interfaces and signs the report. -/
  | bringUp (pkg : Nat) (imageOk : Bool) (found : Training) (strap : BitVec 8)
  /-- R348. A home slice or its cache die fails; its lines are lost and affected partitions quiesce. -/
  | homeLost (pkg : Nat) (slice : Nat)
  /-- R382. A UCIe module meets the down conditions and its die fails at run time. -/
  | moduleDown (pkg : Nat) (socket : Nat)
  /-- R386. A host read of device physical memory, checked against the tenant's windows. -/
  | memrd (pkg : Nat) (tenant : Nat) (msgId : MsgId) (pa : Nat) (len : Nat)
  /-- R386. A host write of device physical memory, acknowledged once performed at package scope. -/
  | memwr (pkg : Nat) (tenant : Nat) (msgId : MsgId) (pa : Nat) (data : List (BitVec 8))
  /-- R385. A host doorbell sets SEIP of a named core, ending a wfi or resuming a halted core. -/
  | doorbell (pkg : Nat) (tenant : Nat) (msgId : MsgId) (core : Nat)
  /-- R391. The host returns its event-queue read index. -/
  | evread (pkg : Nat) (tenant : Nat) (msgSeq : Nat) (index : Nat)
  /-- R386. An operator-signed X25519 exchange sets up the management keys. -/
  | keyagree (pkg : Nat) (msgId : MsgId) (pub : BitVec 256) (sig : BitVec 512)
  /-- R386. Installs a tenant's transport keys. -/
  | keyset (pkg : Nat) (msgId : MsgId) (tenant : Nat) (h2d : BitVec 256) (d2h : BitVec 256)
  /-- R386. Sets up a tenant's event ring in a host window. -/
  | evring (pkg : Nat) (msgId : MsgId) (tenant : Nat) (log2n : Nat) (window : Nat) (offset : Nat)
  /-- R387. Defines a host window of a tenant. -/
  | hwin (pkg : Nat) (msgId : MsgId) (tenant : Nat) (window : Nat) (wr : Bool) (base : Nat) (size : Nat)
  /-- R394. Returns the signed 512-byte attestation report for a host nonce. -/
  | attest (pkg : Nat) (msgId : MsgId) (nonce : BitVec 256)
  /-- R387. A host reply to a window access arrives and completes the device's request. -/
  | hostReply (id : Nat) (answer : HostAnswer)
  /-- R388. An atomic to a host window reaches the die's proxy core and is served in lane order. -/
  | proxyAtomic (id : Nat)
  /-- R383. A transport message unacknowledged for 100 us is sent again with the same sequence. -/
  | retransmit (pkg : Nat) (tenant : Nat) (msgSeq : Nat)
  /-- R357. A codeword arrives on a link; good cells in sequence are accepted, credits returned, or a NAK resends. -/
  | linkCodeword (pkg : Nat) (link : Nat) (good : Bool) (cells : List (Nat × Nat × Nat)) (credits : List Nat) (nak : Bool) (ackSeq : Nat)
  /-- R359. A link is declared down after repeated NAKs, 10 us without a good control word, or failed training. -/
  | linkDown (pkg : Nat) (link : Nat)
  /-- R365. A request unanswered for 2 ms makes the gateway declare the destination package lost. -/
  | peerLostTimeout (pkg : Nat) (peer : Nat)
  /-- R362. A request cell reaches its destination gateway, is checked against the windows and performed or answered by a tail. -/
  | remoteRequest (id : Nat) (part : Nat)
  /-- R369. An eft copy pass ends and the old home starts another pass, holds writes, or begins the handover. -/
  | migrationPassEnd (frame : Nat)
  /-- R370. The new home installs the page's lock entries and watches and acknowledges. -/
  | install (frame : Nat)
  /-- R370. The old home receives the install acknowledgement, completes the pg.mig token and becomes a tail. -/
  | installAck (frame : Nat)
  /-- R371. A forwarded request reaches the next frame and is performed with a redirect, or answered with MIGCHAIN. -/
  | fwd (id : Nat) (part : Nat)
  /-- R373. A redirect reaches the requesting cluster, writes an owner-cache entry and holds new requests until earlier ones are answered. -/
  | redirect (id : Nat)
  /-- R375. A purge reaches a package, whose clusters remove entries for the frame, drain and acknowledge. -/
  | purge (id : Nat)
  /-- R375. A purge acknowledgement reaches the tail, which becomes a stale mark when every package has acknowledged. -/
  | purgeAck (id : Nat)
  /-- R374. A MIGCHAIN answer reaches the requesting cluster, which walks the page table and resends. -/
  | migchain (id : Nat) (part : Nat)
  /-- R374. A MIGSTALE answer reaches the requesting cluster, which resolves the request again or ends it with an error. -/
  | migstale (id : Nat) (part : Nat)
  /-- R375. A tail that has forwarded nothing for 100 us sends PURGE to its recorded packages. -/
  | tailIdleTimeout (frame : Nat)
  /-- R375. A tail's lifetime expires and it becomes a stale mark after a last PURGE. -/
  | tailLifetimeExpiry (frame : Nat)
  /-- R375. A stale mark ends after LIFE us and the frame serves accesses as ordinary memory. -/
  | staleMarkExpiry (frame : Nat)
  /-- R396. Every 10 us the power manager lowers or raises island clocks against the power and temperature limits. -/
  | powerCheck (pkg : Nat) (watts : Nat) (power : List Nat) (temps : List Nat)
  /-- R396. An island at the floor clock for 1 ms posts THROTTLE to its tenants. -/
  | throttle (pkg : Nat) (island : Nat)
  /-- R396. A junction temperature of 115 degrees C stops the package as a reset of every partition. -/
  | thermalShutdown (pkg : Nat) (temp : Nat)
  /-- R397. An idle island is power-gated once every home has acknowledged the notice. -/
  | powerGate (pkg : Nat) (island : Nat)
  /-- R27. The result of an flw, fdiv.s or fsqrt.s is written to its f register, releasing later instructions of the context that interlock on it. -/
  | fResultWritten (core : Nat) (ctx : Nat) (reg : Nat)
  /-- R289. A request through the scratchpad window reaches the owning core's scratchpad port, or its save agent, and is performed in arrival order, held, or refused with an error response. -/
  | scratchpadWindowRequest (id : Nat) (part : Nat)
  deriving DecidableEq, Repr

end Sys2Proof
end

