-- ==== Sys2Proof/WellFormed.lean ====
section
/-! DEFINITION. Which operand values an encoding admits (03 R47, R51, R54 to R65). -/
namespace Sys2Proof

/-- Standard F rounding mode: 101 and 110 are illegal (00 R7). -/
def okFRounding (rm : BitVec 3) : Bool := rm != 5#3 && rm != 6#3
/-- Quistad rounding mode: 110 is illegal (03 R51). -/
def okRounding (rm : BitVec 3) : Bool := rm != 6#3
/-- Scope codes 12 to 31 are illegal (03 R67). -/
def okScope (scope : BitVec 5) : Bool := scope.toNat < 12
/-- Source formats of vcvt (03 R62). -/
def okSource (sf : BitVec 4) : Bool := sf.toNat < 10
/-- Integer element types (03 R63). -/
def okInteger (et : BitVec 3) : Bool := et.toNat < 4
/-- vmerge needs a choosing register (03 R63). -/
def okChoice (km : BitVec 3) : Bool := km != 0#3
/-- A pair field is even and not 0 (03 R47). -/
def okPair (r : BitVec 5) : Bool := r.getLsbD 0 == false && r != 0#5
/-- Kind 0 names an x register, kind 1 a v register, whose number has bit 4 clear (03 R55, R47). -/
def okKind (kind reg : BitVec 5) : Bool := kind == 0#5 || (kind == 1#5 && reg.getLsbD 4 == false)
/-- Orderings rlx 000, acq 001, rel 010, ar 101; with rlx, SC is 00 (03 R56, R57). -/
def okOrdering (ord : BitVec 3) (sc : BitVec 2) : Bool :=
  (ord == 0#3 && sc == 0#2) || ord == 1#3 || ord == 2#3 || ord == 5#3

/-- The operand values are those that some word encodes. Events have no word and carry plain data. -/
def Instr.wf : Instr → Bool
  | .lui _ _ => true
  | .auipc _ _ => true
  | .jal _ _ => true
  | .jalr _ _ _ => true
  | .beq _ _ _ => true
  | .bne _ _ _ => true
  | .blt _ _ _ => true
  | .bge _ _ _ => true
  | .bltu _ _ _ => true
  | .bgeu _ _ _ => true
  | .lb _ _ _ => true
  | .lh _ _ _ => true
  | .lw _ _ _ => true
  | .ld _ _ _ => true
  | .lbu _ _ _ => true
  | .lhu _ _ _ => true
  | .lwu _ _ _ => true
  | .sb _ _ _ => true
  | .sh _ _ _ => true
  | .sw _ _ _ => true
  | .sd _ _ _ => true
  | .addi _ _ _ => true
  | .slti _ _ _ => true
  | .sltiu _ _ _ => true
  | .xori _ _ _ => true
  | .ori _ _ _ => true
  | .andi _ _ _ => true
  | .slli _ _ _ => true
  | .srli _ _ _ => true
  | .srai _ _ _ => true
  | .addiw _ _ _ => true
  | .slliw _ _ _ => true
  | .srliw _ _ _ => true
  | .sraiw _ _ _ => true
  | .add _ _ _ => true
  | .sll _ _ _ => true
  | .slt _ _ _ => true
  | .sltu _ _ _ => true
  | .xor _ _ _ => true
  | .srl _ _ _ => true
  | .or _ _ _ => true
  | .and _ _ _ => true
  | .sub _ _ _ => true
  | .sra _ _ _ => true
  | .mul _ _ _ => true
  | .mulh _ _ _ => true
  | .mulhsu _ _ _ => true
  | .mulhu _ _ _ => true
  | .div _ _ _ => true
  | .divu _ _ _ => true
  | .rem _ _ _ => true
  | .remu _ _ _ => true
  | .addw _ _ _ => true
  | .sllw _ _ _ => true
  | .srlw _ _ _ => true
  | .subw _ _ _ => true
  | .sraw _ _ _ => true
  | .mulw _ _ _ => true
  | .divw _ _ _ => true
  | .divuw _ _ _ => true
  | .remw _ _ _ => true
  | .remuw _ _ _ => true
  | .fence _ _ _ => true
  | .fenceI _ _ _ => true
  | .csrrw _ _ _ => true
  | .csrrs _ _ _ => true
  | .csrrc _ _ _ => true
  | .csrrwi _ _ _ => true
  | .csrrsi _ _ _ => true
  | .csrrci _ _ _ => true
  | .flw _ _ _ => true
  | .fsw _ _ _ => true
  | .fmaddS _ _ _ _ rm => okFRounding rm
  | .fmsubS _ _ _ _ rm => okFRounding rm
  | .fnmsubS _ _ _ _ rm => okFRounding rm
  | .fnmaddS _ _ _ _ rm => okFRounding rm
  | .faddS _ _ _ rm => okFRounding rm
  | .fsubS _ _ _ rm => okFRounding rm
  | .fmulS _ _ _ rm => okFRounding rm
  | .fdivS _ _ _ rm => okFRounding rm
  | .fsqrtS _ _ rm => okFRounding rm
  | .fsgnjS _ _ _ => true
  | .fsgnjnS _ _ _ => true
  | .fsgnjxS _ _ _ => true
  | .fminS _ _ _ => true
  | .fmaxS _ _ _ => true
  | .fleS _ _ _ => true
  | .fltS _ _ _ => true
  | .feqS _ _ _ => true
  | .fcvtWS _ _ rm => okFRounding rm
  | .fcvtWuS _ _ rm => okFRounding rm
  | .fcvtLS _ _ rm => okFRounding rm
  | .fcvtLuS _ _ rm => okFRounding rm
  | .fcvtSW _ _ rm => okFRounding rm
  | .fcvtSWu _ _ rm => okFRounding rm
  | .fcvtSL _ _ rm => okFRounding rm
  | .fcvtSLu _ _ rm => okFRounding rm
  | .fmvXW _ _ => true
  | .fclassS _ _ => true
  | .fmvWX _ _ => true
  | .illegalInstruction _ => true
  | .hstart _ _ _ => true
  | .hwait _ => true
  | .hkill _ => true
  | .pnext _ => true
  | .pclr kind reg => okKind kind reg
  | .ptest _ kind reg => okKind kind reg
  | .nput _ _ => true
  | .ctxSave _ _ _ => true
  | .ctxLoad _ _ _ => true
  | .barInit _ => true
  | .barArr _ => true
  | .barWait _ => true
  | .barAwt _ => true
  | .barDrop _ => true
  | .domSet _ _ _ => true
  | .domGet _ _ => true
  | .xchBeg _ => true
  | .xsend _ _ => true
  | .xrecv _ _ => true
  | .qtrap _ _ => true
  | .amAdd _ _ _ ord _ sc => okOrdering ord sc
  | .amAnd _ _ _ ord _ sc => okOrdering ord sc
  | .amOr _ _ _ ord _ sc => okOrdering ord sc
  | .amXor _ _ _ ord _ sc => okOrdering ord sc
  | .amMin _ _ _ ord _ sc => okOrdering ord sc
  | .amMax _ _ _ ord _ sc => okOrdering ord sc
  | .amMinn _ _ _ ord _ sc => okOrdering ord sc
  | .amMaxn _ _ _ ord _ sc => okOrdering ord sc
  | .amSwp _ _ _ ord _ sc => okOrdering ord sc
  | .amCas _ _ _ ord _ sc => okOrdering ord sc
  | .amFadd _ _ _ ord _ sc => okOrdering ord sc
  | .amCasQ rd _ rs2 ord sc => okOrdering ord sc && okPair rd && okPair rs2
  | .vld _ _ _ _ _ => true
  | .vlds _ _ _ _ _ _ => true
  | .vldx _ _ _ _ _ _ => true
  | .vbc _ _ _ _ _ => true
  | .vst _ _ _ _ _ => true
  | .vsts _ _ _ _ _ _ => true
  | .vstx _ _ _ _ _ _ => true
  | .gwait _ _ _ _ => true
  | .cpG2g _ _ _ _ => true
  | .cp2d _ _ _ _ => true
  | .cpG2s _ _ _ _ => true
  | .cpS2g _ _ _ _ => true
  | .cpS2s _ _ _ _ => true
  | .redAdd _ _ _ => true
  | .redMin _ _ _ => true
  | .redMax _ _ _ => true
  | .redFadd _ _ _ => true
  | .fncAcq scope => okScope scope
  | .fncRel scope => okScope scope
  | .fncFull scope => okScope scope
  | .gsig _ _ => true
  | .tkGet _ _ => true
  | .tkWait _ _ => true
  | .tkAdv _ => true
  | .lkAcq _ _ _ => true
  | .lkTry _ _ => true
  | .lkRel _ => true
  | .lkStat _ _ => true
  | .txBeg _ => true
  | .txAbt _ => true
  | .txStat _ => true
  | .cpPub _ _ => true
  | .cpCancel _ => true
  | .gth _ _ _ => true
  | .sct _ _ _ => true
  | .clWb _ => true
  | .clInv _ => true
  | .clFlush _ => true
  | .tlbInv _ _ => true
  | .pgMig _ _ _ => true
  | .pgStat _ _ => true
  | .vadd _ _ _ _ rm _ _ => okRounding rm
  | .vsub _ _ _ _ rm _ _ => okRounding rm
  | .vmul _ _ _ _ rm _ _ => okRounding rm
  | .vdiv _ _ _ _ rm _ _ => okRounding rm
  | .vsqrt _ _ _ rm _ _ => okRounding rm
  | .vfma _ _ _ _ rm _ _ => okRounding rm
  | .vfms _ _ _ _ rm _ _ => okRounding rm
  | .vfnma _ _ _ _ rm _ _ => okRounding rm
  | .vmin _ _ _ _ _ _ => true
  | .vmax _ _ _ _ _ _ => true
  | .vabs _ _ _ _ _ => true
  | .vneg _ _ _ _ _ => true
  | .vcvt _ _ sf _ rm _ _ => okRounding rm && okSource sf
  | .vredsum _ _ _ rm _ _ => okRounding rm
  | .vredmin _ _ _ _ _ => true
  | .vredmax _ _ _ _ _ => true
  | .viadd _ _ _ et _ _ => okInteger et
  | .visub _ _ _ et _ _ => okInteger et
  | .vimul _ _ _ et _ _ => okInteger et
  | .vand _ _ _ _ _ _ => true
  | .vor _ _ _ _ _ _ => true
  | .vxor _ _ _ _ _ _ => true
  | .vsll _ _ _ et _ _ => okInteger et
  | .vsrl _ _ _ et _ _ => okInteger et
  | .vsra _ _ _ et _ _ => okInteger et
  | .vcmpeq _ _ _ _ _ _ => true
  | .vcmpne _ _ _ _ _ _ => true
  | .vcmplt _ _ _ _ _ _ => true
  | .vcmple _ _ _ _ _ _ => true
  | .vcmpltn _ _ _ _ _ _ => true
  | .vperm _ _ _ _ _ _ => true
  | .vslide _ _ _ _ _ _ => true
  | .vzip _ _ _ _ _ _ => true
  | .vunzip _ _ _ _ _ _ => true
  | .vmerge _ _ _ _ km _ => okChoice km
  | .vmv _ _ _ _ => true
  | .vins _ _ _ _ _ => true
  | .vext _ _ _ _ => true
  | .kand _ _ _ => true
  | .kor _ _ _ => true
  | .kxor _ _ _ => true
  | .knot _ _ => true
  | .kpop _ _ => true
  | .kfirst _ _ => true
  | .mmBf16 _ rs1 rs2 fs => okPair rs1 && okPair rs2 && okPair fs
  | .mmFp16 _ rs1 rs2 fs => okPair rs1 && okPair rs2 && okPair fs
  | .mmE4e4 _ rs1 rs2 fs => okPair rs1 && okPair rs2 && okPair fs
  | .mmE5e5 _ rs1 rs2 fs => okPair rs1 && okPair rs2 && okPair fs
  | .mmE4e5 _ rs1 rs2 fs => okPair rs1 && okPair rs2 && okPair fs
  | .mmE5e4 _ rs1 rs2 fs => okPair rs1 && okPair rs2 && okPair fs
  | .mmQe4 _ rs1 rs2 fs => okPair rs1 && okPair rs2 && okPair fs
  | .mmQbf _ rs1 rs2 fs => okPair rs1 && okPair rs2 && okPair fs
  | .mmI8 _ rs1 rs2 fs => okPair rs1 && okPair rs2 && okPair fs
  | .mmFp32 _ rs1 rs2 fs => okPair rs1 && okPair rs2 && okPair fs
  | .maZero _ _ => true
  | .maLd _ _ rs1 => okPair rs1
  | .maSt _ _ rs1 rm => okRounding rm && okPair rs1
  | .maMv _ _ _ => true
  | .laClr _ _ => true
  | .laFma _ rs1 _ _ => okPair rs1
  | .laAdd _ rs1 _ => okPair rs1
  | .laRnd _ rs1 _ rm => okRounding rm && okPair rs1
  | .laMrg _ _ _ => true
  | .hxBin _ _ _ _ => true
  | .hxClr _ _ => true
  | .hxMrg _ _ _ => true
  | .ecall => true
  | .ecallPassFault => true
  | .ecallRaiseInterrupt => true
  | .ebreak => true
  | .sret => true
  | .mret => true
  | .wfi => true
  | .hend => true
  | .yield => true
  | .upret => true
  | .qhalt => true
  | .xchEnd => true
  | .txEnd => true
  | .csrWrite _ _ => true
  | .qrgnWrite _ _ => true
  | .qrxcntWrite _ => true
  | .qcontWrite _ => true
  | .qsaveWrite _ => true
  | .reply _ => true
  | .vectorQueueExecute _ => true
  | .nputFill _ => true
  | .parcelEnd _ => true
  | .matrixGrant _ => true
  | .mtxCompletion _ => true
  | .operandsConsumed _ => true
  | .pairing _ => true
  | .pairtimeout _ => true
  | .copyEngineTurn _ => true
  | .copyCompletion _ => true
  | .publishFlip _ => true
  | .gatherEngineTurn _ => true
  | .barrierArrival _ => true
  | .barrierCompletion _ => true
  | .domSetCompletion _ => true
  | .exchangeSlot _ => true
  | .entryLanding _ => true
  | .ctxSaveCompletion _ _ => true
  | .ctxLoadCompletion _ _ => true
  | .gsigPerform _ => true
  | .gwaitTimeout _ _ => true
  | .watchValue _ _ => true
  | .homeRead _ _ => true
  | .homeWrite _ _ => true
  | .homeReduce _ _ => true
  | .homeEviction _ _ => true
  | .reductionAtL2 _ _ => true
  | .probe _ _ => true
  | .probeTimeout _ _ => true
  | .lockRequest _ => true
  | .successorLink _ => true
  | .lockReleaseHome _ => true
  | .lockHandoff _ => true
  | .lockTimeout _ _ => true
  | .deadlockSearch _ _ => true
  | .grantParkExpiry _ _ => true
  | .txAbortMessage _ _ => true
  | .txPrepare _ _ _ => true
  | .txPrepareAck _ _ => true
  | .txRelease _ _ _ => true
  | .upcallDelivery _ => true
  | .deferredTrap _ _ => true
  | .interruptTake _ => true
  | .watchdog _ => true
  | .yieldWindowEnd _ _ => true
  | .quarantine _ => true
  | .launch _ _ _ _ => true
  | .submit _ => true
  | .retire _ => true
  | .saved _ => true
  | .ctl _ => true
  | .part _ _ _ _ _ _ _ _ _ => true
  | .rankStart _ => true
  | .preempt _ => true
  | .restore _ => true
  | .coreReset _ => true
  | .partitionReset _ _ => true
  | .bringUp _ _ _ _ => true
  | .homeLost _ _ => true
  | .moduleDown _ _ => true
  | .memrd _ _ _ _ _ => true
  | .memwr _ _ _ _ _ => true
  | .doorbell _ _ _ _ => true
  | .evread _ _ _ _ => true
  | .keyagree _ _ _ _ => true
  | .keyset _ _ _ _ _ => true
  | .evring _ _ _ _ _ _ => true
  | .hwin _ _ _ _ _ _ _ => true
  | .attest _ _ _ => true
  | .hostReply _ _ => true
  | .proxyAtomic _ => true
  | .retransmit _ _ _ => true
  | .linkCodeword _ _ _ _ _ _ _ => true
  | .linkDown _ _ => true
  | .peerLostTimeout _ _ => true
  | .remoteRequest _ _ => true
  | .migrationPassEnd _ => true
  | .install _ => true
  | .installAck _ => true
  | .fwd _ _ => true
  | .redirect _ => true
  | .purge _ => true
  | .purgeAck _ => true
  | .migchain _ _ => true
  | .migstale _ _ => true
  | .tailIdleTimeout _ => true
  | .tailLifetimeExpiry _ => true
  | .staleMarkExpiry _ => true
  | .powerCheck _ _ _ _ => true
  | .throttle _ _ => true
  | .thermalShutdown _ _ => true
  | .powerGate _ _ => true
  | .fResultWritten _ _ _ => true
  | .scratchpadWindowRequest _ _ => true

end Sys2Proof
end

