-- ==== Sys2Proof/Decode.lean ====
section
/-! DEFINITION. The decoder of instruction words (03 R46 to R65), total on any 32 bits, and the encoder written from
the same tables. The three rows that share the word 0x00000073 (ECALL and the two firmware calls of 12 R398) decode
to `ecall`, whose meaning selects by mode and a7; a word the decoder rejects runs as ILLEGAL_INSTRUCTION (00 R8). -/
namespace Sys2Proof

/-- Why a word is an illegal instruction. -/
inductive Reject where
  /-- no instruction has these major-opcode bits, bits [1:0] other than 0b11 included (03 R50, 00 R7) -/
  | opcode
  /-- selector fields that the tables do not allocate (03 R51, first case) -/
  | selector
  /-- a field that the row marks as 0 is not 0 (03 R51, second case) -/
  | reserved
  /-- a register field breaks R47 (03 R51, third case) -/
  | register
  | pair
  /-- rounding mode (03 R51, fourth case; 00 R7) -/
  | rounding
  | scope | sourceFormat | elementType | mask | ordering
  deriving DecidableEq, Repr

/-- Bits lo + n - 1 down to lo of a word (03 R49). -/
def fld (w : IWord) (lo n : Nat) : BitVec n := w.extractLsb' lo n

/-- Answer `a` where the check holds, else the named rejection. -/
def check (b : Bool) (r : Reject) (a : Except Reject Instr) : Except Reject Instr := if b then a else .error r

/-- Words with major opcode 0x37. -/
def decodeLui (w : IWord) : Except Reject Instr :=
  .ok (.lui (fld w 7 5) (fld w 12 20))

/-- Words with major opcode 0x17. -/
def decodeAuipc (w : IWord) : Except Reject Instr :=
  .ok (.auipc (fld w 7 5) (fld w 12 20))

/-- Words with major opcode 0x6F. -/
def decodeJal (w : IWord) : Except Reject Instr :=
  .ok (.jal (fld w 7 5) (fld w 31 1 ++ fld w 12 8 ++ fld w 20 1 ++ fld w 21 10))

/-- Words with major opcode 0x67. -/
def decodeJalr (w : IWord) : Except Reject Instr :=
  if fld w 12 3 = 0#3 then .ok (.jalr (fld w 7 5) (fld w 15 5) (fld w 20 12))
  else
  .error .selector

/-- Words with major opcode 0x63. -/
def decodeBranch (w : IWord) : Except Reject Instr :=
  if fld w 12 3 = 0#3 then .ok (.beq (fld w 15 5) (fld w 20 5) (fld w 31 1 ++ fld w 7 1 ++ fld w 25 6 ++ fld w 8 4))
  else
  if fld w 12 3 = 1#3 then .ok (.bne (fld w 15 5) (fld w 20 5) (fld w 31 1 ++ fld w 7 1 ++ fld w 25 6 ++ fld w 8 4))
  else
  if fld w 12 3 = 4#3 then .ok (.blt (fld w 15 5) (fld w 20 5) (fld w 31 1 ++ fld w 7 1 ++ fld w 25 6 ++ fld w 8 4))
  else
  if fld w 12 3 = 5#3 then .ok (.bge (fld w 15 5) (fld w 20 5) (fld w 31 1 ++ fld w 7 1 ++ fld w 25 6 ++ fld w 8 4))
  else
  if fld w 12 3 = 6#3 then .ok (.bltu (fld w 15 5) (fld w 20 5) (fld w 31 1 ++ fld w 7 1 ++ fld w 25 6 ++ fld w 8 4))
  else
  if fld w 12 3 = 7#3 then .ok (.bgeu (fld w 15 5) (fld w 20 5) (fld w 31 1 ++ fld w 7 1 ++ fld w 25 6 ++ fld w 8 4))
  else
  .error .selector

/-- Words with major opcode 0x03. -/
def decodeLoad (w : IWord) : Except Reject Instr :=
  if fld w 12 3 = 0#3 then .ok (.lb (fld w 7 5) (fld w 15 5) (fld w 20 12))
  else
  if fld w 12 3 = 1#3 then .ok (.lh (fld w 7 5) (fld w 15 5) (fld w 20 12))
  else
  if fld w 12 3 = 2#3 then .ok (.lw (fld w 7 5) (fld w 15 5) (fld w 20 12))
  else
  if fld w 12 3 = 3#3 then .ok (.ld (fld w 7 5) (fld w 15 5) (fld w 20 12))
  else
  if fld w 12 3 = 4#3 then .ok (.lbu (fld w 7 5) (fld w 15 5) (fld w 20 12))
  else
  if fld w 12 3 = 5#3 then .ok (.lhu (fld w 7 5) (fld w 15 5) (fld w 20 12))
  else
  if fld w 12 3 = 6#3 then .ok (.lwu (fld w 7 5) (fld w 15 5) (fld w 20 12))
  else
  .error .selector

/-- Words with major opcode 0x23. -/
def decodeStore (w : IWord) : Except Reject Instr :=
  if fld w 12 3 = 0#3 then .ok (.sb (fld w 20 5) (fld w 15 5) (fld w 25 7 ++ fld w 7 5))
  else
  if fld w 12 3 = 1#3 then .ok (.sh (fld w 20 5) (fld w 15 5) (fld w 25 7 ++ fld w 7 5))
  else
  if fld w 12 3 = 2#3 then .ok (.sw (fld w 20 5) (fld w 15 5) (fld w 25 7 ++ fld w 7 5))
  else
  if fld w 12 3 = 3#3 then .ok (.sd (fld w 20 5) (fld w 15 5) (fld w 25 7 ++ fld w 7 5))
  else
  .error .selector

/-- Words with major opcode 0x13. -/
def decodeOpImm (w : IWord) : Except Reject Instr :=
  if fld w 12 3 = 0#3 then .ok (.addi (fld w 7 5) (fld w 15 5) (fld w 20 12))
  else
  if fld w 12 3 = 2#3 then .ok (.slti (fld w 7 5) (fld w 15 5) (fld w 20 12))
  else
  if fld w 12 3 = 3#3 then .ok (.sltiu (fld w 7 5) (fld w 15 5) (fld w 20 12))
  else
  if fld w 12 3 = 4#3 then .ok (.xori (fld w 7 5) (fld w 15 5) (fld w 20 12))
  else
  if fld w 12 3 = 6#3 then .ok (.ori (fld w 7 5) (fld w 15 5) (fld w 20 12))
  else
  if fld w 12 3 = 7#3 then .ok (.andi (fld w 7 5) (fld w 15 5) (fld w 20 12))
  else
  if fld w 26 6 = 0#6 ∧ fld w 12 3 = 1#3 then .ok (.slli (fld w 7 5) (fld w 15 5) (fld w 20 6))
  else
  if fld w 26 6 = 0#6 ∧ fld w 12 3 = 5#3 then .ok (.srli (fld w 7 5) (fld w 15 5) (fld w 20 6))
  else
  if fld w 26 6 = 16#6 ∧ fld w 12 3 = 5#3 then .ok (.srai (fld w 7 5) (fld w 15 5) (fld w 20 6))
  else
  .error .selector

/-- Words with major opcode 0x1B. -/
def decodeOpImm32 (w : IWord) : Except Reject Instr :=
  if fld w 12 3 = 0#3 then .ok (.addiw (fld w 7 5) (fld w 15 5) (fld w 20 12))
  else
  if fld w 25 7 = 0#7 ∧ fld w 12 3 = 1#3 then .ok (.slliw (fld w 7 5) (fld w 15 5) (fld w 20 5))
  else
  if fld w 25 7 = 0#7 ∧ fld w 12 3 = 5#3 then .ok (.srliw (fld w 7 5) (fld w 15 5) (fld w 20 5))
  else
  if fld w 25 7 = 32#7 ∧ fld w 12 3 = 5#3 then .ok (.sraiw (fld w 7 5) (fld w 15 5) (fld w 20 5))
  else
  .error .selector

/-- Words with major opcode 0x33. -/
def decodeOp (w : IWord) : Except Reject Instr :=
  if fld w 25 7 = 0#7 ∧ fld w 12 3 = 0#3 then .ok (.add (fld w 7 5) (fld w 15 5) (fld w 20 5))
  else
  if fld w 25 7 = 0#7 ∧ fld w 12 3 = 1#3 then .ok (.sll (fld w 7 5) (fld w 15 5) (fld w 20 5))
  else
  if fld w 25 7 = 0#7 ∧ fld w 12 3 = 2#3 then .ok (.slt (fld w 7 5) (fld w 15 5) (fld w 20 5))
  else
  if fld w 25 7 = 0#7 ∧ fld w 12 3 = 3#3 then .ok (.sltu (fld w 7 5) (fld w 15 5) (fld w 20 5))
  else
  if fld w 25 7 = 0#7 ∧ fld w 12 3 = 4#3 then .ok (.xor (fld w 7 5) (fld w 15 5) (fld w 20 5))
  else
  if fld w 25 7 = 0#7 ∧ fld w 12 3 = 5#3 then .ok (.srl (fld w 7 5) (fld w 15 5) (fld w 20 5))
  else
  if fld w 25 7 = 0#7 ∧ fld w 12 3 = 6#3 then .ok (.or (fld w 7 5) (fld w 15 5) (fld w 20 5))
  else
  if fld w 25 7 = 0#7 ∧ fld w 12 3 = 7#3 then .ok (.and (fld w 7 5) (fld w 15 5) (fld w 20 5))
  else
  if fld w 25 7 = 32#7 ∧ fld w 12 3 = 0#3 then .ok (.sub (fld w 7 5) (fld w 15 5) (fld w 20 5))
  else
  if fld w 25 7 = 32#7 ∧ fld w 12 3 = 5#3 then .ok (.sra (fld w 7 5) (fld w 15 5) (fld w 20 5))
  else
  if fld w 25 7 = 1#7 ∧ fld w 12 3 = 0#3 then .ok (.mul (fld w 7 5) (fld w 15 5) (fld w 20 5))
  else
  if fld w 25 7 = 1#7 ∧ fld w 12 3 = 1#3 then .ok (.mulh (fld w 7 5) (fld w 15 5) (fld w 20 5))
  else
  if fld w 25 7 = 1#7 ∧ fld w 12 3 = 2#3 then .ok (.mulhsu (fld w 7 5) (fld w 15 5) (fld w 20 5))
  else
  if fld w 25 7 = 1#7 ∧ fld w 12 3 = 3#3 then .ok (.mulhu (fld w 7 5) (fld w 15 5) (fld w 20 5))
  else
  if fld w 25 7 = 1#7 ∧ fld w 12 3 = 4#3 then .ok (.div (fld w 7 5) (fld w 15 5) (fld w 20 5))
  else
  if fld w 25 7 = 1#7 ∧ fld w 12 3 = 5#3 then .ok (.divu (fld w 7 5) (fld w 15 5) (fld w 20 5))
  else
  if fld w 25 7 = 1#7 ∧ fld w 12 3 = 6#3 then .ok (.rem (fld w 7 5) (fld w 15 5) (fld w 20 5))
  else
  if fld w 25 7 = 1#7 ∧ fld w 12 3 = 7#3 then .ok (.remu (fld w 7 5) (fld w 15 5) (fld w 20 5))
  else
  .error .selector

/-- Words with major opcode 0x3B. -/
def decodeOp32 (w : IWord) : Except Reject Instr :=
  if fld w 25 7 = 0#7 ∧ fld w 12 3 = 0#3 then .ok (.addw (fld w 7 5) (fld w 15 5) (fld w 20 5))
  else
  if fld w 25 7 = 0#7 ∧ fld w 12 3 = 1#3 then .ok (.sllw (fld w 7 5) (fld w 15 5) (fld w 20 5))
  else
  if fld w 25 7 = 0#7 ∧ fld w 12 3 = 5#3 then .ok (.srlw (fld w 7 5) (fld w 15 5) (fld w 20 5))
  else
  if fld w 25 7 = 32#7 ∧ fld w 12 3 = 0#3 then .ok (.subw (fld w 7 5) (fld w 15 5) (fld w 20 5))
  else
  if fld w 25 7 = 32#7 ∧ fld w 12 3 = 5#3 then .ok (.sraw (fld w 7 5) (fld w 15 5) (fld w 20 5))
  else
  if fld w 25 7 = 1#7 ∧ fld w 12 3 = 0#3 then .ok (.mulw (fld w 7 5) (fld w 15 5) (fld w 20 5))
  else
  if fld w 25 7 = 1#7 ∧ fld w 12 3 = 4#3 then .ok (.divw (fld w 7 5) (fld w 15 5) (fld w 20 5))
  else
  if fld w 25 7 = 1#7 ∧ fld w 12 3 = 5#3 then .ok (.divuw (fld w 7 5) (fld w 15 5) (fld w 20 5))
  else
  if fld w 25 7 = 1#7 ∧ fld w 12 3 = 6#3 then .ok (.remw (fld w 7 5) (fld w 15 5) (fld w 20 5))
  else
  if fld w 25 7 = 1#7 ∧ fld w 12 3 = 7#3 then .ok (.remuw (fld w 7 5) (fld w 15 5) (fld w 20 5))
  else
  .error .selector

/-- Words with major opcode 0x0F. -/
def decodeMiscMem (w : IWord) : Except Reject Instr :=
  if fld w 12 3 = 0#3 then .ok (.fence (fld w 7 5) (fld w 15 5) (fld w 20 12))
  else
  if fld w 12 3 = 1#3 then .ok (.fenceI (fld w 7 5) (fld w 15 5) (fld w 20 12))
  else
  .error .selector

/-- Words with major opcode 0x73. -/
def decodeSystem (w : IWord) : Except Reject Instr :=
  if fld w 20 12 = 0#12 ∧ fld w 12 3 = 0#3 then check (fld w 15 5 == 0#5 && fld w 7 5 == 0#5) .reserved <| .ok (.ecall)
  else
  if fld w 20 12 = 1#12 ∧ fld w 12 3 = 0#3 then check (fld w 15 5 == 0#5 && fld w 7 5 == 0#5) .reserved <| .ok (.ebreak)
  else
  if fld w 20 12 = 258#12 ∧ fld w 12 3 = 0#3 then check (fld w 15 5 == 0#5 && fld w 7 5 == 0#5) .reserved <| .ok (.sret)
  else
  if fld w 20 12 = 770#12 ∧ fld w 12 3 = 0#3 then check (fld w 15 5 == 0#5 && fld w 7 5 == 0#5) .reserved <| .ok (.mret)
  else
  if fld w 20 12 = 261#12 ∧ fld w 12 3 = 0#3 then check (fld w 15 5 == 0#5 && fld w 7 5 == 0#5) .reserved <| .ok (.wfi)
  else
  if fld w 12 3 = 1#3 then .ok (.csrrw (fld w 7 5) (fld w 15 5) (fld w 20 12))
  else
  if fld w 12 3 = 2#3 then .ok (.csrrs (fld w 7 5) (fld w 15 5) (fld w 20 12))
  else
  if fld w 12 3 = 3#3 then .ok (.csrrc (fld w 7 5) (fld w 15 5) (fld w 20 12))
  else
  if fld w 12 3 = 5#3 then .ok (.csrrwi (fld w 7 5) (fld w 15 5) (fld w 20 12))
  else
  if fld w 12 3 = 6#3 then .ok (.csrrsi (fld w 7 5) (fld w 15 5) (fld w 20 12))
  else
  if fld w 12 3 = 7#3 then .ok (.csrrci (fld w 7 5) (fld w 15 5) (fld w 20 12))
  else
  .error .selector

/-- Words with major opcode 0x07. -/
def decodeLoadFp (w : IWord) : Except Reject Instr :=
  if fld w 12 3 = 2#3 then .ok (.flw (fld w 7 5) (fld w 15 5) (fld w 20 12))
  else
  .error .selector

/-- Words with major opcode 0x27. -/
def decodeStoreFp (w : IWord) : Except Reject Instr :=
  if fld w 12 3 = 2#3 then .ok (.fsw (fld w 20 5) (fld w 15 5) (fld w 25 7 ++ fld w 7 5))
  else
  .error .selector

/-- Words with major opcode 0x43. -/
def decodeMadd (w : IWord) : Except Reject Instr :=
  if fld w 25 2 = 0#2 then check (okFRounding (fld w 12 3)) .rounding <| .ok (.fmaddS (fld w 7 5) (fld w 15 5) (fld w 20 5) (fld w 27 5) (fld w 12 3))
  else
  .error .selector

/-- Words with major opcode 0x47. -/
def decodeMsub (w : IWord) : Except Reject Instr :=
  if fld w 25 2 = 0#2 then check (okFRounding (fld w 12 3)) .rounding <| .ok (.fmsubS (fld w 7 5) (fld w 15 5) (fld w 20 5) (fld w 27 5) (fld w 12 3))
  else
  .error .selector

/-- Words with major opcode 0x4B. -/
def decodeNmsub (w : IWord) : Except Reject Instr :=
  if fld w 25 2 = 0#2 then check (okFRounding (fld w 12 3)) .rounding <| .ok (.fnmsubS (fld w 7 5) (fld w 15 5) (fld w 20 5) (fld w 27 5) (fld w 12 3))
  else
  .error .selector

/-- Words with major opcode 0x4F. -/
def decodeNmadd (w : IWord) : Except Reject Instr :=
  if fld w 25 2 = 0#2 then check (okFRounding (fld w 12 3)) .rounding <| .ok (.fnmaddS (fld w 7 5) (fld w 15 5) (fld w 20 5) (fld w 27 5) (fld w 12 3))
  else
  .error .selector

/-- Words with major opcode 0x53. -/
def decodeOpFp (w : IWord) : Except Reject Instr :=
  if fld w 25 7 = 0#7 then check (okFRounding (fld w 12 3)) .rounding <| .ok (.faddS (fld w 7 5) (fld w 15 5) (fld w 20 5) (fld w 12 3))
  else
  if fld w 25 7 = 4#7 then check (okFRounding (fld w 12 3)) .rounding <| .ok (.fsubS (fld w 7 5) (fld w 15 5) (fld w 20 5) (fld w 12 3))
  else
  if fld w 25 7 = 8#7 then check (okFRounding (fld w 12 3)) .rounding <| .ok (.fmulS (fld w 7 5) (fld w 15 5) (fld w 20 5) (fld w 12 3))
  else
  if fld w 25 7 = 12#7 then check (okFRounding (fld w 12 3)) .rounding <| .ok (.fdivS (fld w 7 5) (fld w 15 5) (fld w 20 5) (fld w 12 3))
  else
  if fld w 25 7 = 44#7 ∧ fld w 20 5 = 0#5 then check (okFRounding (fld w 12 3)) .rounding <| .ok (.fsqrtS (fld w 7 5) (fld w 15 5) (fld w 12 3))
  else
  if fld w 25 7 = 16#7 ∧ fld w 12 3 = 0#3 then .ok (.fsgnjS (fld w 7 5) (fld w 15 5) (fld w 20 5))
  else
  if fld w 25 7 = 16#7 ∧ fld w 12 3 = 1#3 then .ok (.fsgnjnS (fld w 7 5) (fld w 15 5) (fld w 20 5))
  else
  if fld w 25 7 = 16#7 ∧ fld w 12 3 = 2#3 then .ok (.fsgnjxS (fld w 7 5) (fld w 15 5) (fld w 20 5))
  else
  if fld w 25 7 = 20#7 ∧ fld w 12 3 = 0#3 then .ok (.fminS (fld w 7 5) (fld w 15 5) (fld w 20 5))
  else
  if fld w 25 7 = 20#7 ∧ fld w 12 3 = 1#3 then .ok (.fmaxS (fld w 7 5) (fld w 15 5) (fld w 20 5))
  else
  if fld w 25 7 = 80#7 ∧ fld w 12 3 = 0#3 then .ok (.fleS (fld w 7 5) (fld w 15 5) (fld w 20 5))
  else
  if fld w 25 7 = 80#7 ∧ fld w 12 3 = 1#3 then .ok (.fltS (fld w 7 5) (fld w 15 5) (fld w 20 5))
  else
  if fld w 25 7 = 80#7 ∧ fld w 12 3 = 2#3 then .ok (.feqS (fld w 7 5) (fld w 15 5) (fld w 20 5))
  else
  if fld w 25 7 = 96#7 ∧ fld w 20 5 = 0#5 then check (okFRounding (fld w 12 3)) .rounding <| .ok (.fcvtWS (fld w 7 5) (fld w 15 5) (fld w 12 3))
  else
  if fld w 25 7 = 96#7 ∧ fld w 20 5 = 1#5 then check (okFRounding (fld w 12 3)) .rounding <| .ok (.fcvtWuS (fld w 7 5) (fld w 15 5) (fld w 12 3))
  else
  if fld w 25 7 = 96#7 ∧ fld w 20 5 = 2#5 then check (okFRounding (fld w 12 3)) .rounding <| .ok (.fcvtLS (fld w 7 5) (fld w 15 5) (fld w 12 3))
  else
  if fld w 25 7 = 96#7 ∧ fld w 20 5 = 3#5 then check (okFRounding (fld w 12 3)) .rounding <| .ok (.fcvtLuS (fld w 7 5) (fld w 15 5) (fld w 12 3))
  else
  if fld w 25 7 = 104#7 ∧ fld w 20 5 = 0#5 then check (okFRounding (fld w 12 3)) .rounding <| .ok (.fcvtSW (fld w 7 5) (fld w 15 5) (fld w 12 3))
  else
  if fld w 25 7 = 104#7 ∧ fld w 20 5 = 1#5 then check (okFRounding (fld w 12 3)) .rounding <| .ok (.fcvtSWu (fld w 7 5) (fld w 15 5) (fld w 12 3))
  else
  if fld w 25 7 = 104#7 ∧ fld w 20 5 = 2#5 then check (okFRounding (fld w 12 3)) .rounding <| .ok (.fcvtSL (fld w 7 5) (fld w 15 5) (fld w 12 3))
  else
  if fld w 25 7 = 104#7 ∧ fld w 20 5 = 3#5 then check (okFRounding (fld w 12 3)) .rounding <| .ok (.fcvtSLu (fld w 7 5) (fld w 15 5) (fld w 12 3))
  else
  if fld w 25 7 = 112#7 ∧ fld w 20 5 = 0#5 ∧ fld w 12 3 = 0#3 then .ok (.fmvXW (fld w 7 5) (fld w 15 5))
  else
  if fld w 25 7 = 112#7 ∧ fld w 20 5 = 0#5 ∧ fld w 12 3 = 1#3 then .ok (.fclassS (fld w 7 5) (fld w 15 5))
  else
  if fld w 25 7 = 120#7 ∧ fld w 20 5 = 0#5 ∧ fld w 12 3 = 0#3 then .ok (.fmvWX (fld w 7 5) (fld w 15 5))
  else
  .error .selector

/-- Words with major opcode 0x0B. -/
def decodeCtx (w : IWord) : Except Reject Instr :=
  if fld w 25 7 = 0#7 ∧ fld w 12 3 = 0#3 then .ok (.hstart (fld w 7 5) (fld w 15 5) (fld w 20 5))
  else
  if fld w 25 7 = 1#7 ∧ fld w 12 3 = 0#3 then check (fld w 20 5 == 0#5 && fld w 15 5 == 0#5 && fld w 7 5 == 0#5) .reserved <| .ok (.hend)
  else
  if fld w 25 7 = 2#7 ∧ fld w 12 3 = 0#3 then check (fld w 20 5 == 0#5 && fld w 7 5 == 0#5) .reserved <| .ok (.hwait (fld w 15 5))
  else
  if fld w 25 7 = 3#7 ∧ fld w 12 3 = 0#3 then check (fld w 20 5 == 0#5 && fld w 7 5 == 0#5) .reserved <| .ok (.hkill (fld w 15 5))
  else
  if fld w 25 7 = 4#7 ∧ fld w 12 3 = 0#3 then check (fld w 20 5 == 0#5 && fld w 15 5 == 0#5 && fld w 7 5 == 0#5) .reserved <| .ok (.yield)
  else
  if fld w 25 7 = 5#7 ∧ fld w 12 3 = 0#3 then check (fld w 20 5 == 0#5 && fld w 15 5 == 0#5) .reserved <| .ok (.pnext (fld w 7 5))
  else
  if fld w 25 7 = 6#7 ∧ fld w 12 3 = 0#3 then check (fld w 20 5 == 0#5 && fld w 15 5 == 0#5 && fld w 7 5 == 0#5) .reserved <| .ok (.upret)
  else
  if fld w 25 7 = 7#7 ∧ fld w 12 3 = 0#3 then check (fld w 20 5 == 0#5 && fld w 15 5 == 0#5 && fld w 7 5 == 0#5) .reserved <| .ok (.qhalt)
  else
  if fld w 25 7 = 0#7 ∧ fld w 12 3 = 1#3 then check (fld w 15 5 == 0#5) .reserved <| check (okKind (fld w 20 5) (fld w 7 5)) .register <| .ok (.pclr (fld w 20 5) (fld w 7 5))
  else
  if fld w 25 7 = 1#7 ∧ fld w 12 3 = 1#3 then check (okKind (fld w 20 5) (fld w 15 5)) .register <| .ok (.ptest (fld w 7 5) (fld w 20 5) (fld w 15 5))
  else
  if fld w 25 7 = 2#7 ∧ fld w 12 3 = 1#3 then check (fld w 7 5 == 0#5) .reserved <| .ok (.nput (fld w 15 5) (fld w 20 5))
  else
  if fld w 25 7 = 3#7 ∧ fld w 12 3 = 1#3 then .ok (.ctxSave (fld w 7 5) (fld w 15 5) (fld w 20 5))
  else
  if fld w 25 7 = 4#7 ∧ fld w 12 3 = 1#3 then .ok (.ctxLoad (fld w 7 5) (fld w 15 5) (fld w 20 5))
  else
  if fld w 25 7 = 0#7 ∧ fld w 12 3 = 2#3 then check (fld w 20 5 == 0#5 && fld w 7 5 == 0#5) .reserved <| .ok (.barInit (fld w 15 5))
  else
  if fld w 25 7 = 1#7 ∧ fld w 12 3 = 2#3 then check (fld w 20 5 == 0#5 && fld w 15 5 == 0#5) .reserved <| .ok (.barArr (fld w 7 5))
  else
  if fld w 25 7 = 2#7 ∧ fld w 12 3 = 2#3 then check (fld w 20 5 == 0#5 && fld w 7 5 == 0#5) .reserved <| .ok (.barWait (fld w 15 5))
  else
  if fld w 25 7 = 3#7 ∧ fld w 12 3 = 2#3 then check (fld w 20 5 == 0#5 && fld w 15 5 == 0#5) .reserved <| .ok (.barAwt (fld w 7 5))
  else
  if fld w 25 7 = 4#7 ∧ fld w 12 3 = 2#3 then check (fld w 20 5 == 0#5 && fld w 15 5 == 0#5) .reserved <| .ok (.barDrop (fld w 7 5))
  else
  if fld w 25 7 = 5#7 ∧ fld w 12 3 = 2#3 then .ok (.domSet (fld w 7 5) (fld w 15 5) (fld w 20 5))
  else
  if fld w 25 7 = 6#7 ∧ fld w 12 3 = 2#3 then check (fld w 20 5 == 0#5) .reserved <| .ok (.domGet (fld w 7 5) (fld w 15 5))
  else
  if fld w 25 7 = 0#7 ∧ fld w 12 3 = 3#3 then check (fld w 20 5 == 0#5 && fld w 7 5 == 0#5) .reserved <| .ok (.xchBeg (fld w 15 5))
  else
  if fld w 25 7 = 1#7 ∧ fld w 12 3 = 3#3 then check (fld w 20 5 == 0#5 && fld w 15 5 == 0#5 && fld w 7 5 == 0#5) .reserved <| .ok (.xchEnd)
  else
  if fld w 25 7 = 2#7 ∧ fld w 12 3 = 3#3 then check (fld w 24 1 == 0#1 && fld w 7 5 == 0#5) .reserved <| .ok (.xsend (fld w 15 5) (fld w 20 4))
  else
  if fld w 25 7 = 3#7 ∧ fld w 12 3 = 3#3 then check (fld w 20 5 == 0#5) .reserved <| .ok (.xrecv (fld w 7 5) (fld w 15 5))
  else
  if fld w 12 3 = 4#3 then check (fld w 7 5 == 0#5) .reserved <| .ok (.qtrap (fld w 15 5) (fld w 20 12))
  else
  .error .selector

/-- Words with major opcode 0x2B, groups 000, 001, 010 and 101. -/
def decodeAtomic (w : IWord) : Except Reject Instr :=
  if fld w 28 4 = 0#4 then check (okOrdering (fld w 12 3) (fld w 25 2)) .ordering <| .ok (.amAdd (fld w 7 5) (fld w 15 5) (fld w 20 5) (fld w 12 3) (fld w 27 1) (fld w 25 2))
  else
  if fld w 28 4 = 1#4 then check (okOrdering (fld w 12 3) (fld w 25 2)) .ordering <| .ok (.amAnd (fld w 7 5) (fld w 15 5) (fld w 20 5) (fld w 12 3) (fld w 27 1) (fld w 25 2))
  else
  if fld w 28 4 = 2#4 then check (okOrdering (fld w 12 3) (fld w 25 2)) .ordering <| .ok (.amOr (fld w 7 5) (fld w 15 5) (fld w 20 5) (fld w 12 3) (fld w 27 1) (fld w 25 2))
  else
  if fld w 28 4 = 3#4 then check (okOrdering (fld w 12 3) (fld w 25 2)) .ordering <| .ok (.amXor (fld w 7 5) (fld w 15 5) (fld w 20 5) (fld w 12 3) (fld w 27 1) (fld w 25 2))
  else
  if fld w 28 4 = 4#4 then check (okOrdering (fld w 12 3) (fld w 25 2)) .ordering <| .ok (.amMin (fld w 7 5) (fld w 15 5) (fld w 20 5) (fld w 12 3) (fld w 27 1) (fld w 25 2))
  else
  if fld w 28 4 = 5#4 then check (okOrdering (fld w 12 3) (fld w 25 2)) .ordering <| .ok (.amMax (fld w 7 5) (fld w 15 5) (fld w 20 5) (fld w 12 3) (fld w 27 1) (fld w 25 2))
  else
  if fld w 28 4 = 6#4 then check (okOrdering (fld w 12 3) (fld w 25 2)) .ordering <| .ok (.amMinn (fld w 7 5) (fld w 15 5) (fld w 20 5) (fld w 12 3) (fld w 27 1) (fld w 25 2))
  else
  if fld w 28 4 = 7#4 then check (okOrdering (fld w 12 3) (fld w 25 2)) .ordering <| .ok (.amMaxn (fld w 7 5) (fld w 15 5) (fld w 20 5) (fld w 12 3) (fld w 27 1) (fld w 25 2))
  else
  if fld w 28 4 = 8#4 then check (okOrdering (fld w 12 3) (fld w 25 2)) .ordering <| .ok (.amSwp (fld w 7 5) (fld w 15 5) (fld w 20 5) (fld w 12 3) (fld w 27 1) (fld w 25 2))
  else
  if fld w 28 4 = 9#4 then check (okOrdering (fld w 12 3) (fld w 25 2)) .ordering <| .ok (.amCas (fld w 7 5) (fld w 15 5) (fld w 20 5) (fld w 12 3) (fld w 27 1) (fld w 25 2))
  else
  if fld w 28 4 = 10#4 then check (okOrdering (fld w 12 3) (fld w 25 2)) .ordering <| .ok (.amFadd (fld w 7 5) (fld w 15 5) (fld w 20 5) (fld w 12 3) (fld w 27 1) (fld w 25 2))
  else
  if fld w 28 4 = 11#4 ∧ fld w 27 1 = 1#1 then check (okOrdering (fld w 12 3) (fld w 25 2)) .ordering <| check (okPair (fld w 7 5)) .pair <| check (okPair (fld w 20 5)) .pair <| .ok (.amCasQ (fld w 7 5) (fld w 15 5) (fld w 20 5) (fld w 12 3) (fld w 25 2))
  else
  .error .selector

/-- Words with major opcode 0x2B. -/
def decodeMem (w : IWord) : Except Reject Instr :=
  if fld w 12 3 = 0#3 ∨ fld w 12 3 = 1#3 ∨ fld w 12 3 = 2#3 ∨ fld w 12 3 = 5#3 then decodeAtomic w else
  if fld w 30 2 = 0#2 ∧ fld w 12 3 = 3#3 then check (fld w 20 5 == 0#5) .reserved <| .ok (.vld (fld w 7 4) (fld w 15 5) (fld w 25 3) (fld w 28 2) (fld w 11 1))
  else
  if fld w 30 2 = 1#2 ∧ fld w 12 3 = 3#3 then .ok (.vlds (fld w 7 4) (fld w 15 5) (fld w 20 5) (fld w 25 3) (fld w 28 2) (fld w 11 1))
  else
  if fld w 30 2 = 2#2 ∧ fld w 12 3 = 3#3 then check (fld w 24 1 == 0#1) .reserved <| .ok (.vldx (fld w 7 4) (fld w 15 5) (fld w 20 4) (fld w 25 3) (fld w 28 2) (fld w 11 1))
  else
  if fld w 30 2 = 3#2 ∧ fld w 12 3 = 3#3 then check (fld w 20 5 == 0#5) .reserved <| .ok (.vbc (fld w 7 4) (fld w 15 5) (fld w 25 3) (fld w 28 2) (fld w 11 1))
  else
  if fld w 30 2 = 0#2 ∧ fld w 12 3 = 4#3 then check (fld w 20 5 == 0#5) .reserved <| .ok (.vst (fld w 7 4) (fld w 15 5) (fld w 25 3) (fld w 28 2) (fld w 11 1))
  else
  if fld w 30 2 = 1#2 ∧ fld w 12 3 = 4#3 then .ok (.vsts (fld w 7 4) (fld w 15 5) (fld w 20 5) (fld w 25 3) (fld w 28 2) (fld w 11 1))
  else
  if fld w 30 2 = 2#2 ∧ fld w 12 3 = 4#3 then check (fld w 24 1 == 0#1) .reserved <| .ok (.vstx (fld w 7 4) (fld w 15 5) (fld w 20 4) (fld w 25 3) (fld w 28 2) (fld w 11 1))
  else
  if fld w 25 2 = 0#2 ∧ fld w 12 3 = 6#3 then .ok (.gwait (fld w 7 5) (fld w 15 5) (fld w 20 5) (fld w 27 5))
  else
  if fld w 25 2 = 1#2 ∧ fld w 12 3 = 6#3 then .ok (.cpG2g (fld w 7 5) (fld w 15 5) (fld w 20 5) (fld w 27 5))
  else
  if fld w 25 2 = 2#2 ∧ fld w 12 3 = 6#3 then .ok (.cp2d (fld w 7 5) (fld w 15 5) (fld w 20 5) (fld w 27 5))
  else
  if fld w 25 2 = 0#2 ∧ fld w 12 3 = 7#3 then .ok (.cpG2s (fld w 7 5) (fld w 15 5) (fld w 20 5) (fld w 27 5))
  else
  if fld w 25 2 = 1#2 ∧ fld w 12 3 = 7#3 then .ok (.cpS2g (fld w 7 5) (fld w 15 5) (fld w 20 5) (fld w 27 5))
  else
  if fld w 25 2 = 2#2 ∧ fld w 12 3 = 7#3 then .ok (.cpS2s (fld w 7 5) (fld w 15 5) (fld w 20 5) (fld w 27 5))
  else
  if fld w 28 4 = 0#4 ∧ fld w 25 2 = 3#2 ∧ fld w 12 3 = 6#3 then check (fld w 7 5 == 0#5) .reserved <| .ok (.redAdd (fld w 15 5) (fld w 20 5) (fld w 27 1))
  else
  if fld w 28 4 = 1#4 ∧ fld w 25 2 = 3#2 ∧ fld w 12 3 = 6#3 then check (fld w 7 5 == 0#5) .reserved <| .ok (.redMin (fld w 15 5) (fld w 20 5) (fld w 27 1))
  else
  if fld w 28 4 = 2#4 ∧ fld w 25 2 = 3#2 ∧ fld w 12 3 = 6#3 then check (fld w 7 5 == 0#5) .reserved <| .ok (.redMax (fld w 15 5) (fld w 20 5) (fld w 27 1))
  else
  if fld w 28 4 = 3#4 ∧ fld w 25 2 = 3#2 ∧ fld w 12 3 = 6#3 then check (fld w 7 5 == 0#5) .reserved <| .ok (.redFadd (fld w 15 5) (fld w 20 5) (fld w 27 1))
  else
  if fld w 27 5 = 8#5 ∧ fld w 25 2 = 3#2 ∧ fld w 12 3 = 6#3 then check (fld w 15 5 == 0#5 && fld w 7 5 == 0#5) .reserved <| check (okScope (fld w 20 5)) .scope <| .ok (.fncAcq (fld w 20 5))
  else
  if fld w 27 5 = 9#5 ∧ fld w 25 2 = 3#2 ∧ fld w 12 3 = 6#3 then check (fld w 15 5 == 0#5 && fld w 7 5 == 0#5) .reserved <| check (okScope (fld w 20 5)) .scope <| .ok (.fncRel (fld w 20 5))
  else
  if fld w 27 5 = 10#5 ∧ fld w 25 2 = 3#2 ∧ fld w 12 3 = 6#3 then check (fld w 15 5 == 0#5 && fld w 7 5 == 0#5) .reserved <| check (okScope (fld w 20 5)) .scope <| .ok (.fncFull (fld w 20 5))
  else
  if fld w 27 5 = 11#5 ∧ fld w 25 2 = 3#2 ∧ fld w 12 3 = 6#3 then check (fld w 7 5 == 0#5) .reserved <| .ok (.gsig (fld w 15 5) (fld w 20 5))
  else
  if fld w 27 5 = 12#5 ∧ fld w 25 2 = 3#2 ∧ fld w 12 3 = 6#3 then check (fld w 20 5 == 0#5) .reserved <| .ok (.tkGet (fld w 7 5) (fld w 15 5))
  else
  if fld w 27 5 = 13#5 ∧ fld w 25 2 = 3#2 ∧ fld w 12 3 = 6#3 then check (fld w 7 5 == 0#5) .reserved <| .ok (.tkWait (fld w 15 5) (fld w 20 5))
  else
  if fld w 27 5 = 14#5 ∧ fld w 25 2 = 3#2 ∧ fld w 12 3 = 6#3 then check (fld w 20 5 == 0#5 && fld w 7 5 == 0#5) .reserved <| .ok (.tkAdv (fld w 15 5))
  else
  if fld w 27 5 = 16#5 ∧ fld w 25 2 = 3#2 ∧ fld w 12 3 = 6#3 then .ok (.lkAcq (fld w 7 5) (fld w 15 5) (fld w 20 5))
  else
  if fld w 27 5 = 17#5 ∧ fld w 25 2 = 3#2 ∧ fld w 12 3 = 6#3 then check (fld w 20 5 == 0#5) .reserved <| .ok (.lkTry (fld w 7 5) (fld w 15 5))
  else
  if fld w 27 5 = 18#5 ∧ fld w 25 2 = 3#2 ∧ fld w 12 3 = 6#3 then check (fld w 20 5 == 0#5 && fld w 7 5 == 0#5) .reserved <| .ok (.lkRel (fld w 15 5))
  else
  if fld w 27 5 = 19#5 ∧ fld w 25 2 = 3#2 ∧ fld w 12 3 = 6#3 then check (fld w 20 5 == 0#5) .reserved <| .ok (.lkStat (fld w 7 5) (fld w 15 5))
  else
  if fld w 27 5 = 20#5 ∧ fld w 25 2 = 3#2 ∧ fld w 12 3 = 6#3 then check (fld w 20 5 == 0#5 && fld w 15 5 == 0#5) .reserved <| .ok (.txBeg (fld w 7 5))
  else
  if fld w 27 5 = 21#5 ∧ fld w 25 2 = 3#2 ∧ fld w 12 3 = 6#3 then check (fld w 20 5 == 0#5 && fld w 15 5 == 0#5 && fld w 7 5 == 0#5) .reserved <| .ok (.txEnd)
  else
  if fld w 27 5 = 22#5 ∧ fld w 25 2 = 3#2 ∧ fld w 12 3 = 6#3 then check (fld w 20 5 == 0#5 && fld w 7 5 == 0#5) .reserved <| .ok (.txAbt (fld w 15 5))
  else
  if fld w 27 5 = 23#5 ∧ fld w 25 2 = 3#2 ∧ fld w 12 3 = 6#3 then check (fld w 20 5 == 0#5 && fld w 15 5 == 0#5) .reserved <| .ok (.txStat (fld w 7 5))
  else
  if fld w 27 5 = 0#5 ∧ fld w 25 2 = 3#2 ∧ fld w 12 3 = 7#3 then check (fld w 20 5 == 0#5) .reserved <| .ok (.cpPub (fld w 7 5) (fld w 15 5))
  else
  if fld w 27 5 = 1#5 ∧ fld w 25 2 = 3#2 ∧ fld w 12 3 = 7#3 then check (fld w 20 5 == 0#5 && fld w 15 5 == 0#5) .reserved <| .ok (.cpCancel (fld w 7 5))
  else
  if fld w 27 5 = 2#5 ∧ fld w 25 2 = 3#2 ∧ fld w 12 3 = 7#3 then .ok (.gth (fld w 7 5) (fld w 15 5) (fld w 20 5))
  else
  if fld w 27 5 = 3#5 ∧ fld w 25 2 = 3#2 ∧ fld w 12 3 = 7#3 then .ok (.sct (fld w 7 5) (fld w 15 5) (fld w 20 5))
  else
  if fld w 27 5 = 4#5 ∧ fld w 25 2 = 3#2 ∧ fld w 12 3 = 7#3 then check (fld w 20 5 == 0#5 && fld w 7 5 == 0#5) .reserved <| .ok (.clWb (fld w 15 5))
  else
  if fld w 27 5 = 5#5 ∧ fld w 25 2 = 3#2 ∧ fld w 12 3 = 7#3 then check (fld w 20 5 == 0#5 && fld w 7 5 == 0#5) .reserved <| .ok (.clInv (fld w 15 5))
  else
  if fld w 27 5 = 6#5 ∧ fld w 25 2 = 3#2 ∧ fld w 12 3 = 7#3 then check (fld w 20 5 == 0#5 && fld w 7 5 == 0#5) .reserved <| .ok (.clFlush (fld w 15 5))
  else
  if fld w 27 5 = 8#5 ∧ fld w 25 2 = 3#2 ∧ fld w 12 3 = 7#3 then check (fld w 7 5 == 0#5) .reserved <| .ok (.tlbInv (fld w 15 5) (fld w 20 5))
  else
  if fld w 27 5 = 9#5 ∧ fld w 25 2 = 3#2 ∧ fld w 12 3 = 7#3 then .ok (.pgMig (fld w 7 5) (fld w 15 5) (fld w 20 5))
  else
  if fld w 27 5 = 10#5 ∧ fld w 25 2 = 3#2 ∧ fld w 12 3 = 7#3 then check (fld w 20 5 == 0#5) .reserved <| .ok (.pgStat (fld w 7 5) (fld w 15 5))
  else
  .error .selector

/-- Words with major opcode 0x5B. -/
def decodeVec (w : IWord) : Except Reject Instr :=
  if fld w 31 1 = 0#1 ∧ fld w 27 4 = 0#4 then check (okRounding (fld w 11 3)) .rounding <| .ok (.vadd (fld w 7 4) (fld w 16 4) (fld w 20 4) (fld w 14 2) (fld w 11 3) (fld w 24 2) (fld w 26 1))
  else
  if fld w 31 1 = 0#1 ∧ fld w 27 4 = 1#4 then check (okRounding (fld w 11 3)) .rounding <| .ok (.vsub (fld w 7 4) (fld w 16 4) (fld w 20 4) (fld w 14 2) (fld w 11 3) (fld w 24 2) (fld w 26 1))
  else
  if fld w 31 1 = 0#1 ∧ fld w 27 4 = 2#4 then check (okRounding (fld w 11 3)) .rounding <| .ok (.vmul (fld w 7 4) (fld w 16 4) (fld w 20 4) (fld w 14 2) (fld w 11 3) (fld w 24 2) (fld w 26 1))
  else
  if fld w 31 1 = 0#1 ∧ fld w 27 4 = 3#4 then check (okRounding (fld w 11 3)) .rounding <| .ok (.vdiv (fld w 7 4) (fld w 16 4) (fld w 20 4) (fld w 14 2) (fld w 11 3) (fld w 24 2) (fld w 26 1))
  else
  if fld w 31 1 = 0#1 ∧ fld w 27 4 = 4#4 then check (fld w 20 4 == 0#4) .reserved <| check (okRounding (fld w 11 3)) .rounding <| .ok (.vsqrt (fld w 7 4) (fld w 16 4) (fld w 14 2) (fld w 11 3) (fld w 24 2) (fld w 26 1))
  else
  if fld w 31 1 = 0#1 ∧ fld w 27 4 = 5#4 then check (okRounding (fld w 11 3)) .rounding <| .ok (.vfma (fld w 7 4) (fld w 16 4) (fld w 20 4) (fld w 14 2) (fld w 11 3) (fld w 24 2) (fld w 26 1))
  else
  if fld w 31 1 = 0#1 ∧ fld w 27 4 = 6#4 then check (okRounding (fld w 11 3)) .rounding <| .ok (.vfms (fld w 7 4) (fld w 16 4) (fld w 20 4) (fld w 14 2) (fld w 11 3) (fld w 24 2) (fld w 26 1))
  else
  if fld w 31 1 = 0#1 ∧ fld w 27 4 = 7#4 then check (okRounding (fld w 11 3)) .rounding <| .ok (.vfnma (fld w 7 4) (fld w 16 4) (fld w 20 4) (fld w 14 2) (fld w 11 3) (fld w 24 2) (fld w 26 1))
  else
  if fld w 31 1 = 0#1 ∧ fld w 27 4 = 8#4 then check (fld w 11 3 == 0#3) .reserved <| .ok (.vmin (fld w 7 4) (fld w 16 4) (fld w 20 4) (fld w 14 2) (fld w 24 2) (fld w 26 1))
  else
  if fld w 31 1 = 0#1 ∧ fld w 27 4 = 9#4 then check (fld w 11 3 == 0#3) .reserved <| .ok (.vmax (fld w 7 4) (fld w 16 4) (fld w 20 4) (fld w 14 2) (fld w 24 2) (fld w 26 1))
  else
  if fld w 31 1 = 0#1 ∧ fld w 27 4 = 10#4 then check (fld w 20 4 == 0#4 && fld w 11 3 == 0#3) .reserved <| .ok (.vabs (fld w 7 4) (fld w 16 4) (fld w 14 2) (fld w 24 2) (fld w 26 1))
  else
  if fld w 31 1 = 0#1 ∧ fld w 27 4 = 11#4 then check (fld w 20 4 == 0#4 && fld w 11 3 == 0#3) .reserved <| .ok (.vneg (fld w 7 4) (fld w 16 4) (fld w 14 2) (fld w 24 2) (fld w 26 1))
  else
  if fld w 31 1 = 0#1 ∧ fld w 27 4 = 12#4 then check (okRounding (fld w 11 3)) .rounding <| check (okSource (fld w 20 4)) .sourceFormat <| .ok (.vcvt (fld w 7 4) (fld w 16 4) (fld w 20 4) (fld w 14 2) (fld w 11 3) (fld w 24 2) (fld w 26 1))
  else
  if fld w 31 1 = 0#1 ∧ fld w 27 4 = 13#4 then check (fld w 20 4 == 0#4) .reserved <| check (okRounding (fld w 11 3)) .rounding <| .ok (.vredsum (fld w 7 4) (fld w 16 4) (fld w 14 2) (fld w 11 3) (fld w 24 2) (fld w 26 1))
  else
  if fld w 31 1 = 0#1 ∧ fld w 27 4 = 14#4 then check (fld w 20 4 == 0#4 && fld w 11 3 == 0#3) .reserved <| .ok (.vredmin (fld w 7 4) (fld w 16 4) (fld w 14 2) (fld w 24 2) (fld w 26 1))
  else
  if fld w 31 1 = 0#1 ∧ fld w 27 4 = 15#4 then check (fld w 20 4 == 0#4 && fld w 11 3 == 0#3) .reserved <| .ok (.vredmax (fld w 7 4) (fld w 16 4) (fld w 14 2) (fld w 24 2) (fld w 26 1))
  else
  if fld w 31 1 = 1#1 ∧ fld w 26 5 = 0#5 then check (okInteger (fld w 12 3)) .elementType <| .ok (.viadd (fld w 7 4) (fld w 15 4) (fld w 19 4) (fld w 12 3) (fld w 23 3) (fld w 11 1))
  else
  if fld w 31 1 = 1#1 ∧ fld w 26 5 = 1#5 then check (okInteger (fld w 12 3)) .elementType <| .ok (.visub (fld w 7 4) (fld w 15 4) (fld w 19 4) (fld w 12 3) (fld w 23 3) (fld w 11 1))
  else
  if fld w 31 1 = 1#1 ∧ fld w 26 5 = 2#5 then check (okInteger (fld w 12 3)) .elementType <| .ok (.vimul (fld w 7 4) (fld w 15 4) (fld w 19 4) (fld w 12 3) (fld w 23 3) (fld w 11 1))
  else
  if fld w 31 1 = 1#1 ∧ fld w 26 5 = 3#5 then .ok (.vand (fld w 7 4) (fld w 15 4) (fld w 19 4) (fld w 12 3) (fld w 23 3) (fld w 11 1))
  else
  if fld w 31 1 = 1#1 ∧ fld w 26 5 = 4#5 then .ok (.vor (fld w 7 4) (fld w 15 4) (fld w 19 4) (fld w 12 3) (fld w 23 3) (fld w 11 1))
  else
  if fld w 31 1 = 1#1 ∧ fld w 26 5 = 5#5 then .ok (.vxor (fld w 7 4) (fld w 15 4) (fld w 19 4) (fld w 12 3) (fld w 23 3) (fld w 11 1))
  else
  if fld w 31 1 = 1#1 ∧ fld w 26 5 = 6#5 then check (okInteger (fld w 12 3)) .elementType <| .ok (.vsll (fld w 7 4) (fld w 15 4) (fld w 19 4) (fld w 12 3) (fld w 23 3) (fld w 11 1))
  else
  if fld w 31 1 = 1#1 ∧ fld w 26 5 = 7#5 then check (okInteger (fld w 12 3)) .elementType <| .ok (.vsrl (fld w 7 4) (fld w 15 4) (fld w 19 4) (fld w 12 3) (fld w 23 3) (fld w 11 1))
  else
  if fld w 31 1 = 1#1 ∧ fld w 26 5 = 8#5 then check (okInteger (fld w 12 3)) .elementType <| .ok (.vsra (fld w 7 4) (fld w 15 4) (fld w 19 4) (fld w 12 3) (fld w 23 3) (fld w 11 1))
  else
  if fld w 31 1 = 1#1 ∧ fld w 26 5 = 9#5 then check (fld w 10 1 == 0#1) .reserved <| .ok (.vcmpeq (fld w 7 3) (fld w 15 4) (fld w 19 4) (fld w 12 3) (fld w 23 3) (fld w 11 1))
  else
  if fld w 31 1 = 1#1 ∧ fld w 26 5 = 10#5 then check (fld w 10 1 == 0#1) .reserved <| .ok (.vcmpne (fld w 7 3) (fld w 15 4) (fld w 19 4) (fld w 12 3) (fld w 23 3) (fld w 11 1))
  else
  if fld w 31 1 = 1#1 ∧ fld w 26 5 = 11#5 then check (fld w 10 1 == 0#1) .reserved <| .ok (.vcmplt (fld w 7 3) (fld w 15 4) (fld w 19 4) (fld w 12 3) (fld w 23 3) (fld w 11 1))
  else
  if fld w 31 1 = 1#1 ∧ fld w 26 5 = 12#5 then check (fld w 10 1 == 0#1) .reserved <| .ok (.vcmple (fld w 7 3) (fld w 15 4) (fld w 19 4) (fld w 12 3) (fld w 23 3) (fld w 11 1))
  else
  if fld w 31 1 = 1#1 ∧ fld w 26 5 = 13#5 then check (fld w 10 1 == 0#1) .reserved <| .ok (.vcmpltn (fld w 7 3) (fld w 15 4) (fld w 19 4) (fld w 12 3) (fld w 23 3) (fld w 11 1))
  else
  if fld w 31 1 = 1#1 ∧ fld w 26 5 = 14#5 then .ok (.vperm (fld w 7 4) (fld w 15 4) (fld w 19 4) (fld w 12 3) (fld w 23 3) (fld w 11 1))
  else
  if fld w 31 1 = 1#1 ∧ fld w 26 5 = 15#5 then .ok (.vslide (fld w 7 4) (fld w 15 4) (fld w 19 4) (fld w 12 3) (fld w 23 3) (fld w 11 1))
  else
  if fld w 31 1 = 1#1 ∧ fld w 26 5 = 16#5 then .ok (.vzip (fld w 7 4) (fld w 15 4) (fld w 19 4) (fld w 12 3) (fld w 23 3) (fld w 11 1))
  else
  if fld w 31 1 = 1#1 ∧ fld w 26 5 = 17#5 then .ok (.vunzip (fld w 7 4) (fld w 15 4) (fld w 19 4) (fld w 12 3) (fld w 23 3) (fld w 11 1))
  else
  if fld w 31 1 = 1#1 ∧ fld w 26 5 = 18#5 then check (okChoice (fld w 23 3)) .mask <| .ok (.vmerge (fld w 7 4) (fld w 15 4) (fld w 19 4) (fld w 12 3) (fld w 23 3) (fld w 11 1))
  else
  if fld w 31 1 = 1#1 ∧ fld w 26 5 = 19#5 then check (fld w 19 4 == 0#4 && fld w 12 3 == 0#3) .reserved <| .ok (.vmv (fld w 7 4) (fld w 15 4) (fld w 23 3) (fld w 11 1))
  else
  if fld w 31 1 = 1#1 ∧ fld w 26 5 = 20#5 then check (fld w 23 3 == 0#3) .reserved <| .ok (.vins (fld w 7 4) (fld w 15 4) (fld w 19 4) (fld w 12 3) (fld w 11 1))
  else
  if fld w 31 1 = 1#1 ∧ fld w 26 5 = 21#5 then check (fld w 23 3 == 0#3) .reserved <| .ok (.vext (fld w 7 5) (fld w 19 4) (fld w 15 4) (fld w 12 3))
  else
  if fld w 31 1 = 1#1 ∧ fld w 26 5 = 22#5 then check (fld w 23 3 == 0#3 && fld w 22 1 == 0#1 && fld w 18 1 == 0#1 && fld w 12 3 == 0#3 && fld w 11 1 == 0#1 && fld w 10 1 == 0#1) .reserved <| .ok (.kand (fld w 7 3) (fld w 15 3) (fld w 19 3))
  else
  if fld w 31 1 = 1#1 ∧ fld w 26 5 = 23#5 then check (fld w 23 3 == 0#3 && fld w 22 1 == 0#1 && fld w 18 1 == 0#1 && fld w 12 3 == 0#3 && fld w 11 1 == 0#1 && fld w 10 1 == 0#1) .reserved <| .ok (.kor (fld w 7 3) (fld w 15 3) (fld w 19 3))
  else
  if fld w 31 1 = 1#1 ∧ fld w 26 5 = 24#5 then check (fld w 23 3 == 0#3 && fld w 22 1 == 0#1 && fld w 18 1 == 0#1 && fld w 12 3 == 0#3 && fld w 11 1 == 0#1 && fld w 10 1 == 0#1) .reserved <| .ok (.kxor (fld w 7 3) (fld w 15 3) (fld w 19 3))
  else
  if fld w 31 1 = 1#1 ∧ fld w 26 5 = 25#5 then check (fld w 23 3 == 0#3 && fld w 22 1 == 0#1 && fld w 19 3 == 0#3 && fld w 18 1 == 0#1 && fld w 12 3 == 0#3 && fld w 11 1 == 0#1 && fld w 10 1 == 0#1) .reserved <| .ok (.knot (fld w 7 3) (fld w 15 3))
  else
  if fld w 31 1 = 1#1 ∧ fld w 26 5 = 26#5 then check (fld w 23 3 == 0#3 && fld w 19 4 == 0#4 && fld w 18 1 == 0#1 && fld w 12 3 == 0#3) .reserved <| .ok (.kpop (fld w 7 5) (fld w 15 3))
  else
  if fld w 31 1 = 1#1 ∧ fld w 26 5 = 27#5 then check (fld w 23 3 == 0#3 && fld w 19 4 == 0#4 && fld w 18 1 == 0#1 && fld w 12 3 == 0#3) .reserved <| .ok (.kfirst (fld w 7 5) (fld w 15 3))
  else
  .error .selector

/-- Words with major opcode 0x7B. -/
def decodeMtx (w : IWord) : Except Reject Instr :=
  if fld w 25 2 = 0#2 ∧ fld w 12 3 = 0#3 then check (okPair (fld w 15 5)) .pair <| check (okPair (fld w 20 5)) .pair <| check (okPair (fld w 27 5)) .pair <| .ok (.mmBf16 (fld w 7 5) (fld w 15 5) (fld w 20 5) (fld w 27 5))
  else
  if fld w 25 2 = 0#2 ∧ fld w 12 3 = 1#3 then check (okPair (fld w 15 5)) .pair <| check (okPair (fld w 20 5)) .pair <| check (okPair (fld w 27 5)) .pair <| .ok (.mmFp16 (fld w 7 5) (fld w 15 5) (fld w 20 5) (fld w 27 5))
  else
  if fld w 25 2 = 0#2 ∧ fld w 12 3 = 2#3 then check (okPair (fld w 15 5)) .pair <| check (okPair (fld w 20 5)) .pair <| check (okPair (fld w 27 5)) .pair <| .ok (.mmE4e4 (fld w 7 5) (fld w 15 5) (fld w 20 5) (fld w 27 5))
  else
  if fld w 25 2 = 0#2 ∧ fld w 12 3 = 3#3 then check (okPair (fld w 15 5)) .pair <| check (okPair (fld w 20 5)) .pair <| check (okPair (fld w 27 5)) .pair <| .ok (.mmE5e5 (fld w 7 5) (fld w 15 5) (fld w 20 5) (fld w 27 5))
  else
  if fld w 25 2 = 0#2 ∧ fld w 12 3 = 4#3 then check (okPair (fld w 15 5)) .pair <| check (okPair (fld w 20 5)) .pair <| check (okPair (fld w 27 5)) .pair <| .ok (.mmE4e5 (fld w 7 5) (fld w 15 5) (fld w 20 5) (fld w 27 5))
  else
  if fld w 25 2 = 0#2 ∧ fld w 12 3 = 5#3 then check (okPair (fld w 15 5)) .pair <| check (okPair (fld w 20 5)) .pair <| check (okPair (fld w 27 5)) .pair <| .ok (.mmE5e4 (fld w 7 5) (fld w 15 5) (fld w 20 5) (fld w 27 5))
  else
  if fld w 25 2 = 0#2 ∧ fld w 12 3 = 6#3 then check (okPair (fld w 15 5)) .pair <| check (okPair (fld w 20 5)) .pair <| check (okPair (fld w 27 5)) .pair <| .ok (.mmQe4 (fld w 7 5) (fld w 15 5) (fld w 20 5) (fld w 27 5))
  else
  if fld w 25 2 = 0#2 ∧ fld w 12 3 = 7#3 then check (okPair (fld w 15 5)) .pair <| check (okPair (fld w 20 5)) .pair <| check (okPair (fld w 27 5)) .pair <| .ok (.mmQbf (fld w 7 5) (fld w 15 5) (fld w 20 5) (fld w 27 5))
  else
  if fld w 25 2 = 1#2 ∧ fld w 12 3 = 0#3 then check (okPair (fld w 15 5)) .pair <| check (okPair (fld w 20 5)) .pair <| check (okPair (fld w 27 5)) .pair <| .ok (.mmI8 (fld w 7 5) (fld w 15 5) (fld w 20 5) (fld w 27 5))
  else
  if fld w 25 2 = 1#2 ∧ fld w 12 3 = 1#3 then check (okPair (fld w 15 5)) .pair <| check (okPair (fld w 20 5)) .pair <| check (okPair (fld w 27 5)) .pair <| .ok (.mmFp32 (fld w 7 5) (fld w 15 5) (fld w 20 5) (fld w 27 5))
  else
  if fld w 25 2 = 2#2 ∧ fld w 12 3 = 0#3 then check (fld w 29 3 == 0#3 && fld w 20 5 == 0#5 && fld w 15 5 == 0#5) .reserved <| .ok (.maZero (fld w 7 5) (fld w 27 2))
  else
  if fld w 25 2 = 2#2 ∧ fld w 12 3 = 1#3 then check (fld w 29 3 == 0#3 && fld w 20 5 == 0#5) .reserved <| check (okPair (fld w 15 5)) .pair <| .ok (.maLd (fld w 7 5) (fld w 27 2) (fld w 15 5))
  else
  if fld w 25 2 = 2#2 ∧ fld w 12 3 = 2#3 then check (fld w 20 5 == 0#5) .reserved <| check (okRounding (fld w 29 3)) .rounding <| check (okPair (fld w 15 5)) .pair <| .ok (.maSt (fld w 7 5) (fld w 27 2) (fld w 15 5) (fld w 29 3))
  else
  if fld w 25 2 = 2#2 ∧ fld w 12 3 = 3#3 then check (fld w 31 1 == 0#1 && fld w 20 5 == 0#5 && fld w 15 5 == 0#5) .reserved <| .ok (.maMv (fld w 7 5) (fld w 27 2) (fld w 29 2))
  else
  if fld w 25 2 = 2#2 ∧ fld w 12 3 = 4#3 then check (fld w 27 5 == 0#5 && fld w 20 5 == 0#5) .reserved <| .ok (.laClr (fld w 7 5) (fld w 15 5))
  else
  if fld w 25 2 = 2#2 ∧ fld w 12 3 = 5#3 then check (fld w 31 1 == 0#1 && fld w 24 1 == 0#1) .reserved <| check (okPair (fld w 15 5)) .pair <| .ok (.laFma (fld w 7 5) (fld w 15 5) (fld w 20 4) (fld w 27 4))
  else
  if fld w 25 2 = 2#2 ∧ fld w 12 3 = 6#3 then check (fld w 31 1 == 0#1 && fld w 27 4 == 0#4 && fld w 24 1 == 0#1) .reserved <| check (okPair (fld w 15 5)) .pair <| .ok (.laAdd (fld w 7 5) (fld w 15 5) (fld w 20 4))
  else
  if fld w 25 2 = 2#2 ∧ fld w 12 3 = 7#3 then check (fld w 20 5 == 0#5) .reserved <| check (okRounding (fld w 27 3)) .rounding <| check (okPair (fld w 15 5)) .pair <| .ok (.laRnd (fld w 7 5) (fld w 15 5) (fld w 30 2) (fld w 27 3))
  else
  if fld w 25 2 = 3#2 ∧ fld w 12 3 = 0#3 then check (fld w 27 5 == 0#5) .reserved <| .ok (.laMrg (fld w 7 5) (fld w 15 5) (fld w 20 5))
  else
  if fld w 25 2 = 3#2 ∧ fld w 12 3 = 1#3 then check (fld w 29 3 == 0#3 && fld w 24 1 == 0#1) .reserved <| .ok (.hxBin (fld w 7 5) (fld w 15 5) (fld w 20 4) (fld w 27 2))
  else
  if fld w 25 2 = 3#2 ∧ fld w 12 3 = 2#3 then check (fld w 27 5 == 0#5 && fld w 20 5 == 0#5) .reserved <| .ok (.hxClr (fld w 7 5) (fld w 15 5))
  else
  if fld w 25 2 = 3#2 ∧ fld w 12 3 = 3#3 then check (fld w 27 5 == 0#5) .reserved <| .ok (.hxMrg (fld w 7 5) (fld w 15 5) (fld w 20 5))
  else
  .error .selector

/-- The instruction that a word encodes, or why it is illegal (03 R50, R51). -/
def decode (w : IWord) : Except Reject Instr :=
  if fld w 0 7 = 0x37#7 then decodeLui w else
  if fld w 0 7 = 0x17#7 then decodeAuipc w else
  if fld w 0 7 = 0x6F#7 then decodeJal w else
  if fld w 0 7 = 0x67#7 then decodeJalr w else
  if fld w 0 7 = 0x63#7 then decodeBranch w else
  if fld w 0 7 = 0x03#7 then decodeLoad w else
  if fld w 0 7 = 0x23#7 then decodeStore w else
  if fld w 0 7 = 0x13#7 then decodeOpImm w else
  if fld w 0 7 = 0x1B#7 then decodeOpImm32 w else
  if fld w 0 7 = 0x33#7 then decodeOp w else
  if fld w 0 7 = 0x3B#7 then decodeOp32 w else
  if fld w 0 7 = 0x0F#7 then decodeMiscMem w else
  if fld w 0 7 = 0x73#7 then decodeSystem w else
  if fld w 0 7 = 0x07#7 then decodeLoadFp w else
  if fld w 0 7 = 0x27#7 then decodeStoreFp w else
  if fld w 0 7 = 0x43#7 then decodeMadd w else
  if fld w 0 7 = 0x47#7 then decodeMsub w else
  if fld w 0 7 = 0x4B#7 then decodeNmsub w else
  if fld w 0 7 = 0x4F#7 then decodeNmadd w else
  if fld w 0 7 = 0x53#7 then decodeOpFp w else
  if fld w 0 7 = 0x0B#7 then decodeCtx w else
  if fld w 0 7 = 0x2B#7 then decodeMem w else
  if fld w 0 7 = 0x5B#7 then decodeVec w else
  if fld w 0 7 = 0x7B#7 then decodeMtx w else
  .error .opcode

/-- A word from its fields of 20, 5, 7 bits, the first at bit 31 (03 R46). -/
def pack20_5_7 (a0 : BitVec 20) (a1 : BitVec 5) (a2 : BitVec 7) : IWord :=
  a0 ++ a1 ++ a2

/-- A word from its fields of 12, 5, 3, 5, 7 bits, the first at bit 31 (03 R46). -/
def pack12_5_3_5_7 (a0 : BitVec 12) (a1 : BitVec 5) (a2 : BitVec 3) (a3 : BitVec 5) (a4 : BitVec 7) : IWord :=
  a0 ++ a1 ++ a2 ++ a3 ++ a4

/-- A word from its fields of 1, 10, 1, 8, 5, 7 bits, the first at bit 31 (03 R46). -/
def pack1_10_1_8_5_7 (a0 : BitVec 1) (a1 : BitVec 10) (a2 : BitVec 1) (a3 : BitVec 8) (a4 : BitVec 5) (a5 : BitVec 7) : IWord :=
  a0 ++ a1 ++ a2 ++ a3 ++ a4 ++ a5

/-- A word from its fields of 6, 6, 5, 3, 5, 7 bits, the first at bit 31 (03 R46). -/
def pack6_6_5_3_5_7 (a0 : BitVec 6) (a1 : BitVec 6) (a2 : BitVec 5) (a3 : BitVec 3) (a4 : BitVec 5) (a5 : BitVec 7) : IWord :=
  a0 ++ a1 ++ a2 ++ a3 ++ a4 ++ a5

/-- A word from its fields of 7, 5, 5, 3, 5, 7 bits, the first at bit 31 (03 R46). -/
def pack7_5_5_3_5_7 (a0 : BitVec 7) (a1 : BitVec 5) (a2 : BitVec 5) (a3 : BitVec 3) (a4 : BitVec 5) (a5 : BitVec 7) : IWord :=
  a0 ++ a1 ++ a2 ++ a3 ++ a4 ++ a5

/-- A word from its fields of 5, 2, 5, 5, 3, 5, 7 bits, the first at bit 31 (03 R46). -/
def pack5_2_5_5_3_5_7 (a0 : BitVec 5) (a1 : BitVec 2) (a2 : BitVec 5) (a3 : BitVec 5) (a4 : BitVec 3) (a5 : BitVec 5) (a6 : BitVec 7) : IWord :=
  a0 ++ a1 ++ a2 ++ a3 ++ a4 ++ a5 ++ a6

/-- A word from its fields of 7, 1, 4, 5, 3, 5, 7 bits, the first at bit 31 (03 R46). -/
def pack7_1_4_5_3_5_7 (a0 : BitVec 7) (a1 : BitVec 1) (a2 : BitVec 4) (a3 : BitVec 5) (a4 : BitVec 3) (a5 : BitVec 5) (a6 : BitVec 7) : IWord :=
  a0 ++ a1 ++ a2 ++ a3 ++ a4 ++ a5 ++ a6

/-- A word from its fields of 1, 5, 3, 4, 4, 3, 5, 7 bits, the first at bit 31 (03 R46). -/
def pack1_5_3_4_4_3_5_7 (a0 : BitVec 1) (a1 : BitVec 5) (a2 : BitVec 3) (a3 : BitVec 4) (a4 : BitVec 4) (a5 : BitVec 3) (a6 : BitVec 5) (a7 : BitVec 7) : IWord :=
  a0 ++ a1 ++ a2 ++ a3 ++ a4 ++ a5 ++ a6 ++ a7

/-- A word from its fields of 1, 6, 5, 5, 3, 4, 1, 7 bits, the first at bit 31 (03 R46). -/
def pack1_6_5_5_3_4_1_7 (a0 : BitVec 1) (a1 : BitVec 6) (a2 : BitVec 5) (a3 : BitVec 5) (a4 : BitVec 3) (a5 : BitVec 4) (a6 : BitVec 1) (a7 : BitVec 7) : IWord :=
  a0 ++ a1 ++ a2 ++ a3 ++ a4 ++ a5 ++ a6 ++ a7

/-- A word from its fields of 2, 3, 2, 5, 5, 3, 5, 7 bits, the first at bit 31 (03 R46). -/
def pack2_3_2_5_5_3_5_7 (a0 : BitVec 2) (a1 : BitVec 3) (a2 : BitVec 2) (a3 : BitVec 5) (a4 : BitVec 5) (a5 : BitVec 3) (a6 : BitVec 5) (a7 : BitVec 7) : IWord :=
  a0 ++ a1 ++ a2 ++ a3 ++ a4 ++ a5 ++ a6 ++ a7

/-- A word from its fields of 3, 2, 2, 5, 5, 3, 5, 7 bits, the first at bit 31 (03 R46). -/
def pack3_2_2_5_5_3_5_7 (a0 : BitVec 3) (a1 : BitVec 2) (a2 : BitVec 2) (a3 : BitVec 5) (a4 : BitVec 5) (a5 : BitVec 3) (a6 : BitVec 5) (a7 : BitVec 7) : IWord :=
  a0 ++ a1 ++ a2 ++ a3 ++ a4 ++ a5 ++ a6 ++ a7

/-- A word from its fields of 4, 1, 2, 5, 5, 3, 5, 7 bits, the first at bit 31 (03 R46). -/
def pack4_1_2_5_5_3_5_7 (a0 : BitVec 4) (a1 : BitVec 1) (a2 : BitVec 2) (a3 : BitVec 5) (a4 : BitVec 5) (a5 : BitVec 3) (a6 : BitVec 5) (a7 : BitVec 7) : IWord :=
  a0 ++ a1 ++ a2 ++ a3 ++ a4 ++ a5 ++ a6 ++ a7

/-- A word from its fields of 1, 2, 2, 2, 5, 5, 3, 5, 7 bits, the first at bit 31 (03 R46). -/
def pack1_2_2_2_5_5_3_5_7 (a0 : BitVec 1) (a1 : BitVec 2) (a2 : BitVec 2) (a3 : BitVec 2) (a4 : BitVec 5) (a5 : BitVec 5) (a6 : BitVec 3) (a7 : BitVec 5) (a8 : BitVec 7) : IWord :=
  a0 ++ a1 ++ a2 ++ a3 ++ a4 ++ a5 ++ a6 ++ a7 ++ a8

/-- A word from its fields of 1, 4, 2, 1, 4, 5, 3, 5, 7 bits, the first at bit 31 (03 R46). -/
def pack1_4_2_1_4_5_3_5_7 (a0 : BitVec 1) (a1 : BitVec 4) (a2 : BitVec 2) (a3 : BitVec 1) (a4 : BitVec 4) (a5 : BitVec 5) (a6 : BitVec 3) (a7 : BitVec 5) (a8 : BitVec 7) : IWord :=
  a0 ++ a1 ++ a2 ++ a3 ++ a4 ++ a5 ++ a6 ++ a7 ++ a8

/-- A word from its fields of 1, 5, 3, 4, 1, 3, 3, 5, 7 bits, the first at bit 31 (03 R46). -/
def pack1_5_3_4_1_3_3_5_7 (a0 : BitVec 1) (a1 : BitVec 5) (a2 : BitVec 3) (a3 : BitVec 4) (a4 : BitVec 1) (a5 : BitVec 3) (a6 : BitVec 3) (a7 : BitVec 5) (a8 : BitVec 7) : IWord :=
  a0 ++ a1 ++ a2 ++ a3 ++ a4 ++ a5 ++ a6 ++ a7 ++ a8

/-- A word from its fields of 1, 5, 3, 4, 4, 3, 1, 4, 7 bits, the first at bit 31 (03 R46). -/
def pack1_5_3_4_4_3_1_4_7 (a0 : BitVec 1) (a1 : BitVec 5) (a2 : BitVec 3) (a3 : BitVec 4) (a4 : BitVec 4) (a5 : BitVec 3) (a6 : BitVec 1) (a7 : BitVec 4) (a8 : BitVec 7) : IWord :=
  a0 ++ a1 ++ a2 ++ a3 ++ a4 ++ a5 ++ a6 ++ a7 ++ a8

/-- A word from its fields of 2, 2, 3, 5, 5, 3, 1, 4, 7 bits, the first at bit 31 (03 R46). -/
def pack2_2_3_5_5_3_1_4_7 (a0 : BitVec 2) (a1 : BitVec 2) (a2 : BitVec 3) (a3 : BitVec 5) (a4 : BitVec 5) (a5 : BitVec 3) (a6 : BitVec 1) (a7 : BitVec 4) (a8 : BitVec 7) : IWord :=
  a0 ++ a1 ++ a2 ++ a3 ++ a4 ++ a5 ++ a6 ++ a7 ++ a8

/-- A word from its fields of 3, 2, 2, 1, 4, 5, 3, 5, 7 bits, the first at bit 31 (03 R46). -/
def pack3_2_2_1_4_5_3_5_7 (a0 : BitVec 3) (a1 : BitVec 2) (a2 : BitVec 2) (a3 : BitVec 1) (a4 : BitVec 4) (a5 : BitVec 5) (a6 : BitVec 3) (a7 : BitVec 5) (a8 : BitVec 7) : IWord :=
  a0 ++ a1 ++ a2 ++ a3 ++ a4 ++ a5 ++ a6 ++ a7 ++ a8

/-- A word from its fields of 1, 4, 1, 2, 4, 4, 2, 3, 4, 7 bits, the first at bit 31 (03 R46). -/
def pack1_4_1_2_4_4_2_3_4_7 (a0 : BitVec 1) (a1 : BitVec 4) (a2 : BitVec 1) (a3 : BitVec 2) (a4 : BitVec 4) (a5 : BitVec 4) (a6 : BitVec 2) (a7 : BitVec 3) (a8 : BitVec 4) (a9 : BitVec 7) : IWord :=
  a0 ++ a1 ++ a2 ++ a3 ++ a4 ++ a5 ++ a6 ++ a7 ++ a8 ++ a9

/-- A word from its fields of 1, 5, 3, 4, 4, 3, 1, 1, 3, 7 bits, the first at bit 31 (03 R46). -/
def pack1_5_3_4_4_3_1_1_3_7 (a0 : BitVec 1) (a1 : BitVec 5) (a2 : BitVec 3) (a3 : BitVec 4) (a4 : BitVec 4) (a5 : BitVec 3) (a6 : BitVec 1) (a7 : BitVec 1) (a8 : BitVec 3) (a9 : BitVec 7) : IWord :=
  a0 ++ a1 ++ a2 ++ a3 ++ a4 ++ a5 ++ a6 ++ a7 ++ a8 ++ a9

/-- A word from its fields of 2, 2, 3, 1, 4, 5, 3, 1, 4, 7 bits, the first at bit 31 (03 R46). -/
def pack2_2_3_1_4_5_3_1_4_7 (a0 : BitVec 2) (a1 : BitVec 2) (a2 : BitVec 3) (a3 : BitVec 1) (a4 : BitVec 4) (a5 : BitVec 5) (a6 : BitVec 3) (a7 : BitVec 1) (a8 : BitVec 4) (a9 : BitVec 7) : IWord :=
  a0 ++ a1 ++ a2 ++ a3 ++ a4 ++ a5 ++ a6 ++ a7 ++ a8 ++ a9

/-- A word from its fields of 1, 5, 3, 1, 3, 1, 3, 3, 1, 1, 3, 7 bits, the first at bit 31 (03 R46). -/
def pack1_5_3_1_3_1_3_3_1_1_3_7 (a0 : BitVec 1) (a1 : BitVec 5) (a2 : BitVec 3) (a3 : BitVec 1) (a4 : BitVec 3) (a5 : BitVec 1) (a6 : BitVec 3) (a7 : BitVec 3) (a8 : BitVec 1) (a9 : BitVec 1) (a10 : BitVec 3) (a11 : BitVec 7) : IWord :=
  a0 ++ a1 ++ a2 ++ a3 ++ a4 ++ a5 ++ a6 ++ a7 ++ a8 ++ a9 ++ a10 ++ a11

/-- The word of an instruction; events, and the two firmware calls that share ECALL's word, have none. -/
def encode : Instr → Option IWord
  | .lui rd imm => some (pack20_5_7 imm rd 55#7)
  | .auipc rd imm => some (pack20_5_7 imm rd 23#7)
  | .jal rd off => some (pack1_10_1_8_5_7 (off.extractLsb' 19 1) (off.extractLsb' 0 10) (off.extractLsb' 10 1) (off.extractLsb' 11 8) rd 111#7)
  | .jalr rd rs1 imm => some (pack12_5_3_5_7 imm rs1 0#3 rd 103#7)
  | .beq rs1 rs2 off => some (pack1_6_5_5_3_4_1_7 (off.extractLsb' 11 1) (off.extractLsb' 4 6) rs2 rs1 0#3 (off.extractLsb' 0 4) (off.extractLsb' 10 1) 99#7)
  | .bne rs1 rs2 off => some (pack1_6_5_5_3_4_1_7 (off.extractLsb' 11 1) (off.extractLsb' 4 6) rs2 rs1 1#3 (off.extractLsb' 0 4) (off.extractLsb' 10 1) 99#7)
  | .blt rs1 rs2 off => some (pack1_6_5_5_3_4_1_7 (off.extractLsb' 11 1) (off.extractLsb' 4 6) rs2 rs1 4#3 (off.extractLsb' 0 4) (off.extractLsb' 10 1) 99#7)
  | .bge rs1 rs2 off => some (pack1_6_5_5_3_4_1_7 (off.extractLsb' 11 1) (off.extractLsb' 4 6) rs2 rs1 5#3 (off.extractLsb' 0 4) (off.extractLsb' 10 1) 99#7)
  | .bltu rs1 rs2 off => some (pack1_6_5_5_3_4_1_7 (off.extractLsb' 11 1) (off.extractLsb' 4 6) rs2 rs1 6#3 (off.extractLsb' 0 4) (off.extractLsb' 10 1) 99#7)
  | .bgeu rs1 rs2 off => some (pack1_6_5_5_3_4_1_7 (off.extractLsb' 11 1) (off.extractLsb' 4 6) rs2 rs1 7#3 (off.extractLsb' 0 4) (off.extractLsb' 10 1) 99#7)
  | .lb rd rs1 imm => some (pack12_5_3_5_7 imm rs1 0#3 rd 3#7)
  | .lh rd rs1 imm => some (pack12_5_3_5_7 imm rs1 1#3 rd 3#7)
  | .lw rd rs1 imm => some (pack12_5_3_5_7 imm rs1 2#3 rd 3#7)
  | .ld rd rs1 imm => some (pack12_5_3_5_7 imm rs1 3#3 rd 3#7)
  | .lbu rd rs1 imm => some (pack12_5_3_5_7 imm rs1 4#3 rd 3#7)
  | .lhu rd rs1 imm => some (pack12_5_3_5_7 imm rs1 5#3 rd 3#7)
  | .lwu rd rs1 imm => some (pack12_5_3_5_7 imm rs1 6#3 rd 3#7)
  | .sb rs2 rs1 imm => some (pack7_5_5_3_5_7 (imm.extractLsb' 5 7) rs2 rs1 0#3 (imm.extractLsb' 0 5) 35#7)
  | .sh rs2 rs1 imm => some (pack7_5_5_3_5_7 (imm.extractLsb' 5 7) rs2 rs1 1#3 (imm.extractLsb' 0 5) 35#7)
  | .sw rs2 rs1 imm => some (pack7_5_5_3_5_7 (imm.extractLsb' 5 7) rs2 rs1 2#3 (imm.extractLsb' 0 5) 35#7)
  | .sd rs2 rs1 imm => some (pack7_5_5_3_5_7 (imm.extractLsb' 5 7) rs2 rs1 3#3 (imm.extractLsb' 0 5) 35#7)
  | .addi rd rs1 imm => some (pack12_5_3_5_7 imm rs1 0#3 rd 19#7)
  | .slti rd rs1 imm => some (pack12_5_3_5_7 imm rs1 2#3 rd 19#7)
  | .sltiu rd rs1 imm => some (pack12_5_3_5_7 imm rs1 3#3 rd 19#7)
  | .xori rd rs1 imm => some (pack12_5_3_5_7 imm rs1 4#3 rd 19#7)
  | .ori rd rs1 imm => some (pack12_5_3_5_7 imm rs1 6#3 rd 19#7)
  | .andi rd rs1 imm => some (pack12_5_3_5_7 imm rs1 7#3 rd 19#7)
  | .slli rd rs1 sh => some (pack6_6_5_3_5_7 0#6 sh rs1 1#3 rd 19#7)
  | .srli rd rs1 sh => some (pack6_6_5_3_5_7 0#6 sh rs1 5#3 rd 19#7)
  | .srai rd rs1 sh => some (pack6_6_5_3_5_7 16#6 sh rs1 5#3 rd 19#7)
  | .addiw rd rs1 imm => some (pack12_5_3_5_7 imm rs1 0#3 rd 27#7)
  | .slliw rd rs1 sh => some (pack7_5_5_3_5_7 0#7 sh rs1 1#3 rd 27#7)
  | .srliw rd rs1 sh => some (pack7_5_5_3_5_7 0#7 sh rs1 5#3 rd 27#7)
  | .sraiw rd rs1 sh => some (pack7_5_5_3_5_7 32#7 sh rs1 5#3 rd 27#7)
  | .add rd rs1 rs2 => some (pack7_5_5_3_5_7 0#7 rs2 rs1 0#3 rd 51#7)
  | .sll rd rs1 rs2 => some (pack7_5_5_3_5_7 0#7 rs2 rs1 1#3 rd 51#7)
  | .slt rd rs1 rs2 => some (pack7_5_5_3_5_7 0#7 rs2 rs1 2#3 rd 51#7)
  | .sltu rd rs1 rs2 => some (pack7_5_5_3_5_7 0#7 rs2 rs1 3#3 rd 51#7)
  | .xor rd rs1 rs2 => some (pack7_5_5_3_5_7 0#7 rs2 rs1 4#3 rd 51#7)
  | .srl rd rs1 rs2 => some (pack7_5_5_3_5_7 0#7 rs2 rs1 5#3 rd 51#7)
  | .or rd rs1 rs2 => some (pack7_5_5_3_5_7 0#7 rs2 rs1 6#3 rd 51#7)
  | .and rd rs1 rs2 => some (pack7_5_5_3_5_7 0#7 rs2 rs1 7#3 rd 51#7)
  | .sub rd rs1 rs2 => some (pack7_5_5_3_5_7 32#7 rs2 rs1 0#3 rd 51#7)
  | .sra rd rs1 rs2 => some (pack7_5_5_3_5_7 32#7 rs2 rs1 5#3 rd 51#7)
  | .mul rd rs1 rs2 => some (pack7_5_5_3_5_7 1#7 rs2 rs1 0#3 rd 51#7)
  | .mulh rd rs1 rs2 => some (pack7_5_5_3_5_7 1#7 rs2 rs1 1#3 rd 51#7)
  | .mulhsu rd rs1 rs2 => some (pack7_5_5_3_5_7 1#7 rs2 rs1 2#3 rd 51#7)
  | .mulhu rd rs1 rs2 => some (pack7_5_5_3_5_7 1#7 rs2 rs1 3#3 rd 51#7)
  | .div rd rs1 rs2 => some (pack7_5_5_3_5_7 1#7 rs2 rs1 4#3 rd 51#7)
  | .divu rd rs1 rs2 => some (pack7_5_5_3_5_7 1#7 rs2 rs1 5#3 rd 51#7)
  | .rem rd rs1 rs2 => some (pack7_5_5_3_5_7 1#7 rs2 rs1 6#3 rd 51#7)
  | .remu rd rs1 rs2 => some (pack7_5_5_3_5_7 1#7 rs2 rs1 7#3 rd 51#7)
  | .addw rd rs1 rs2 => some (pack7_5_5_3_5_7 0#7 rs2 rs1 0#3 rd 59#7)
  | .sllw rd rs1 rs2 => some (pack7_5_5_3_5_7 0#7 rs2 rs1 1#3 rd 59#7)
  | .srlw rd rs1 rs2 => some (pack7_5_5_3_5_7 0#7 rs2 rs1 5#3 rd 59#7)
  | .subw rd rs1 rs2 => some (pack7_5_5_3_5_7 32#7 rs2 rs1 0#3 rd 59#7)
  | .sraw rd rs1 rs2 => some (pack7_5_5_3_5_7 32#7 rs2 rs1 5#3 rd 59#7)
  | .mulw rd rs1 rs2 => some (pack7_5_5_3_5_7 1#7 rs2 rs1 0#3 rd 59#7)
  | .divw rd rs1 rs2 => some (pack7_5_5_3_5_7 1#7 rs2 rs1 4#3 rd 59#7)
  | .divuw rd rs1 rs2 => some (pack7_5_5_3_5_7 1#7 rs2 rs1 5#3 rd 59#7)
  | .remw rd rs1 rs2 => some (pack7_5_5_3_5_7 1#7 rs2 rs1 6#3 rd 59#7)
  | .remuw rd rs1 rs2 => some (pack7_5_5_3_5_7 1#7 rs2 rs1 7#3 rd 59#7)
  | .fence rd rs1 imm => some (pack12_5_3_5_7 imm rs1 0#3 rd 15#7)
  | .fenceI rd rs1 imm => some (pack12_5_3_5_7 imm rs1 1#3 rd 15#7)
  | .csrrw rd rs1 csr => some (pack12_5_3_5_7 csr rs1 1#3 rd 115#7)
  | .csrrs rd rs1 csr => some (pack12_5_3_5_7 csr rs1 2#3 rd 115#7)
  | .csrrc rd rs1 csr => some (pack12_5_3_5_7 csr rs1 3#3 rd 115#7)
  | .csrrwi rd uimm csr => some (pack12_5_3_5_7 csr uimm 5#3 rd 115#7)
  | .csrrsi rd uimm csr => some (pack12_5_3_5_7 csr uimm 6#3 rd 115#7)
  | .csrrci rd uimm csr => some (pack12_5_3_5_7 csr uimm 7#3 rd 115#7)
  | .flw rd rs1 imm => some (pack12_5_3_5_7 imm rs1 2#3 rd 7#7)
  | .fsw rs2 rs1 imm => some (pack7_5_5_3_5_7 (imm.extractLsb' 5 7) rs2 rs1 2#3 (imm.extractLsb' 0 5) 39#7)
  | .fmaddS rd rs1 rs2 rs3 rm => some (pack5_2_5_5_3_5_7 rs3 0#2 rs2 rs1 rm rd 67#7)
  | .fmsubS rd rs1 rs2 rs3 rm => some (pack5_2_5_5_3_5_7 rs3 0#2 rs2 rs1 rm rd 71#7)
  | .fnmsubS rd rs1 rs2 rs3 rm => some (pack5_2_5_5_3_5_7 rs3 0#2 rs2 rs1 rm rd 75#7)
  | .fnmaddS rd rs1 rs2 rs3 rm => some (pack5_2_5_5_3_5_7 rs3 0#2 rs2 rs1 rm rd 79#7)
  | .faddS rd rs1 rs2 rm => some (pack7_5_5_3_5_7 0#7 rs2 rs1 rm rd 83#7)
  | .fsubS rd rs1 rs2 rm => some (pack7_5_5_3_5_7 4#7 rs2 rs1 rm rd 83#7)
  | .fmulS rd rs1 rs2 rm => some (pack7_5_5_3_5_7 8#7 rs2 rs1 rm rd 83#7)
  | .fdivS rd rs1 rs2 rm => some (pack7_5_5_3_5_7 12#7 rs2 rs1 rm rd 83#7)
  | .fsqrtS rd rs1 rm => some (pack7_5_5_3_5_7 44#7 0#5 rs1 rm rd 83#7)
  | .fsgnjS rd rs1 rs2 => some (pack7_5_5_3_5_7 16#7 rs2 rs1 0#3 rd 83#7)
  | .fsgnjnS rd rs1 rs2 => some (pack7_5_5_3_5_7 16#7 rs2 rs1 1#3 rd 83#7)
  | .fsgnjxS rd rs1 rs2 => some (pack7_5_5_3_5_7 16#7 rs2 rs1 2#3 rd 83#7)
  | .fminS rd rs1 rs2 => some (pack7_5_5_3_5_7 20#7 rs2 rs1 0#3 rd 83#7)
  | .fmaxS rd rs1 rs2 => some (pack7_5_5_3_5_7 20#7 rs2 rs1 1#3 rd 83#7)
  | .fleS rd rs1 rs2 => some (pack7_5_5_3_5_7 80#7 rs2 rs1 0#3 rd 83#7)
  | .fltS rd rs1 rs2 => some (pack7_5_5_3_5_7 80#7 rs2 rs1 1#3 rd 83#7)
  | .feqS rd rs1 rs2 => some (pack7_5_5_3_5_7 80#7 rs2 rs1 2#3 rd 83#7)
  | .fcvtWS rd rs1 rm => some (pack7_5_5_3_5_7 96#7 0#5 rs1 rm rd 83#7)
  | .fcvtWuS rd rs1 rm => some (pack7_5_5_3_5_7 96#7 1#5 rs1 rm rd 83#7)
  | .fcvtLS rd rs1 rm => some (pack7_5_5_3_5_7 96#7 2#5 rs1 rm rd 83#7)
  | .fcvtLuS rd rs1 rm => some (pack7_5_5_3_5_7 96#7 3#5 rs1 rm rd 83#7)
  | .fcvtSW rd rs1 rm => some (pack7_5_5_3_5_7 104#7 0#5 rs1 rm rd 83#7)
  | .fcvtSWu rd rs1 rm => some (pack7_5_5_3_5_7 104#7 1#5 rs1 rm rd 83#7)
  | .fcvtSL rd rs1 rm => some (pack7_5_5_3_5_7 104#7 2#5 rs1 rm rd 83#7)
  | .fcvtSLu rd rs1 rm => some (pack7_5_5_3_5_7 104#7 3#5 rs1 rm rd 83#7)
  | .fmvXW rd rs1 => some (pack7_5_5_3_5_7 112#7 0#5 rs1 0#3 rd 83#7)
  | .fclassS rd rs1 => some (pack7_5_5_3_5_7 112#7 0#5 rs1 1#3 rd 83#7)
  | .fmvWX rd rs1 => some (pack7_5_5_3_5_7 120#7 0#5 rs1 0#3 rd 83#7)
  | .illegalInstruction word => some word
  | .hstart rd rs1 rs2 => some (pack7_5_5_3_5_7 0#7 rs2 rs1 0#3 rd 11#7)
  | .hwait rs1 => some (pack7_5_5_3_5_7 2#7 0#5 rs1 0#3 0#5 11#7)
  | .hkill rs1 => some (pack7_5_5_3_5_7 3#7 0#5 rs1 0#3 0#5 11#7)
  | .pnext rd => some (pack7_5_5_3_5_7 5#7 0#5 0#5 0#3 rd 11#7)
  | .pclr kind reg => some (pack7_5_5_3_5_7 0#7 kind 0#5 1#3 reg 11#7)
  | .ptest rd kind reg => some (pack7_5_5_3_5_7 1#7 kind reg 1#3 rd 11#7)
  | .nput rs1 rs2 => some (pack7_5_5_3_5_7 2#7 rs2 rs1 1#3 0#5 11#7)
  | .ctxSave rd rs1 rs2 => some (pack7_5_5_3_5_7 3#7 rs2 rs1 1#3 rd 11#7)
  | .ctxLoad rd rs1 rs2 => some (pack7_5_5_3_5_7 4#7 rs2 rs1 1#3 rd 11#7)
  | .barInit rs1 => some (pack7_5_5_3_5_7 0#7 0#5 rs1 2#3 0#5 11#7)
  | .barArr rd => some (pack7_5_5_3_5_7 1#7 0#5 0#5 2#3 rd 11#7)
  | .barWait rs1 => some (pack7_5_5_3_5_7 2#7 0#5 rs1 2#3 0#5 11#7)
  | .barAwt rd => some (pack7_5_5_3_5_7 3#7 0#5 0#5 2#3 rd 11#7)
  | .barDrop rd => some (pack7_5_5_3_5_7 4#7 0#5 0#5 2#3 rd 11#7)
  | .domSet rd rs1 rs2 => some (pack7_5_5_3_5_7 5#7 rs2 rs1 2#3 rd 11#7)
  | .domGet rd rs1 => some (pack7_5_5_3_5_7 6#7 0#5 rs1 2#3 rd 11#7)
  | .xchBeg rs1 => some (pack7_5_5_3_5_7 0#7 0#5 rs1 3#3 0#5 11#7)
  | .xsend rs1 vs => some (pack7_1_4_5_3_5_7 2#7 0#1 vs rs1 3#3 0#5 11#7)
  | .xrecv rd rs1 => some (pack7_5_5_3_5_7 3#7 0#5 rs1 3#3 rd 11#7)
  | .qtrap rs1 code => some (pack12_5_3_5_7 code rs1 4#3 0#5 11#7)
  | .amAdd rd rs1 rs2 ord w sc => some (pack4_1_2_5_5_3_5_7 0#4 w sc rs2 rs1 ord rd 43#7)
  | .amAnd rd rs1 rs2 ord w sc => some (pack4_1_2_5_5_3_5_7 1#4 w sc rs2 rs1 ord rd 43#7)
  | .amOr rd rs1 rs2 ord w sc => some (pack4_1_2_5_5_3_5_7 2#4 w sc rs2 rs1 ord rd 43#7)
  | .amXor rd rs1 rs2 ord w sc => some (pack4_1_2_5_5_3_5_7 3#4 w sc rs2 rs1 ord rd 43#7)
  | .amMin rd rs1 rs2 ord w sc => some (pack4_1_2_5_5_3_5_7 4#4 w sc rs2 rs1 ord rd 43#7)
  | .amMax rd rs1 rs2 ord w sc => some (pack4_1_2_5_5_3_5_7 5#4 w sc rs2 rs1 ord rd 43#7)
  | .amMinn rd rs1 rs2 ord w sc => some (pack4_1_2_5_5_3_5_7 6#4 w sc rs2 rs1 ord rd 43#7)
  | .amMaxn rd rs1 rs2 ord w sc => some (pack4_1_2_5_5_3_5_7 7#4 w sc rs2 rs1 ord rd 43#7)
  | .amSwp rd rs1 rs2 ord w sc => some (pack4_1_2_5_5_3_5_7 8#4 w sc rs2 rs1 ord rd 43#7)
  | .amCas rd rs1 rs2 ord w sc => some (pack4_1_2_5_5_3_5_7 9#4 w sc rs2 rs1 ord rd 43#7)
  | .amFadd rd rs1 rs2 ord w sc => some (pack4_1_2_5_5_3_5_7 10#4 w sc rs2 rs1 ord rd 43#7)
  | .amCasQ rd rs1 rs2 ord sc => some (pack4_1_2_5_5_3_5_7 11#4 1#1 sc rs2 rs1 ord rd 43#7)
  | .vld v rs1 et km h => some (pack2_2_3_5_5_3_1_4_7 0#2 km et 0#5 rs1 3#3 h v 43#7)
  | .vlds v rs1 rs2 et km h => some (pack2_2_3_5_5_3_1_4_7 1#2 km et rs2 rs1 3#3 h v 43#7)
  | .vldx v rs1 vs et km h => some (pack2_2_3_1_4_5_3_1_4_7 2#2 km et 0#1 vs rs1 3#3 h v 43#7)
  | .vbc v rs1 et km h => some (pack2_2_3_5_5_3_1_4_7 3#2 km et 0#5 rs1 3#3 h v 43#7)
  | .vst v rs1 et km h => some (pack2_2_3_5_5_3_1_4_7 0#2 km et 0#5 rs1 4#3 h v 43#7)
  | .vsts v rs1 rs2 et km h => some (pack2_2_3_5_5_3_1_4_7 1#2 km et rs2 rs1 4#3 h v 43#7)
  | .vstx v rs1 vs et km h => some (pack2_2_3_1_4_5_3_1_4_7 2#2 km et 0#1 vs rs1 4#3 h v 43#7)
  | .gwait rd rs1 rs2 rs3 => some (pack5_2_5_5_3_5_7 rs3 0#2 rs2 rs1 6#3 rd 43#7)
  | .cpG2g rd rs1 rs2 rs3 => some (pack5_2_5_5_3_5_7 rs3 1#2 rs2 rs1 6#3 rd 43#7)
  | .cp2d rd rs1 rs2 rs3 => some (pack5_2_5_5_3_5_7 rs3 2#2 rs2 rs1 6#3 rd 43#7)
  | .cpG2s rd rs1 rs2 rs3 => some (pack5_2_5_5_3_5_7 rs3 0#2 rs2 rs1 7#3 rd 43#7)
  | .cpS2g rd rs1 rs2 rs3 => some (pack5_2_5_5_3_5_7 rs3 1#2 rs2 rs1 7#3 rd 43#7)
  | .cpS2s rd rs1 rs2 rs3 => some (pack5_2_5_5_3_5_7 rs3 2#2 rs2 rs1 7#3 rd 43#7)
  | .redAdd rs1 rs2 w => some (pack4_1_2_5_5_3_5_7 0#4 w 3#2 rs2 rs1 6#3 0#5 43#7)
  | .redMin rs1 rs2 w => some (pack4_1_2_5_5_3_5_7 1#4 w 3#2 rs2 rs1 6#3 0#5 43#7)
  | .redMax rs1 rs2 w => some (pack4_1_2_5_5_3_5_7 2#4 w 3#2 rs2 rs1 6#3 0#5 43#7)
  | .redFadd rs1 rs2 w => some (pack4_1_2_5_5_3_5_7 3#4 w 3#2 rs2 rs1 6#3 0#5 43#7)
  | .fncAcq scope => some (pack5_2_5_5_3_5_7 8#5 3#2 scope 0#5 6#3 0#5 43#7)
  | .fncRel scope => some (pack5_2_5_5_3_5_7 9#5 3#2 scope 0#5 6#3 0#5 43#7)
  | .fncFull scope => some (pack5_2_5_5_3_5_7 10#5 3#2 scope 0#5 6#3 0#5 43#7)
  | .gsig rs1 rs2 => some (pack5_2_5_5_3_5_7 11#5 3#2 rs2 rs1 6#3 0#5 43#7)
  | .tkGet rd rs1 => some (pack5_2_5_5_3_5_7 12#5 3#2 0#5 rs1 6#3 rd 43#7)
  | .tkWait rs1 rs2 => some (pack5_2_5_5_3_5_7 13#5 3#2 rs2 rs1 6#3 0#5 43#7)
  | .tkAdv rs1 => some (pack5_2_5_5_3_5_7 14#5 3#2 0#5 rs1 6#3 0#5 43#7)
  | .lkAcq rd rs1 rs2 => some (pack5_2_5_5_3_5_7 16#5 3#2 rs2 rs1 6#3 rd 43#7)
  | .lkTry rd rs1 => some (pack5_2_5_5_3_5_7 17#5 3#2 0#5 rs1 6#3 rd 43#7)
  | .lkRel rs1 => some (pack5_2_5_5_3_5_7 18#5 3#2 0#5 rs1 6#3 0#5 43#7)
  | .lkStat rd rs1 => some (pack5_2_5_5_3_5_7 19#5 3#2 0#5 rs1 6#3 rd 43#7)
  | .txBeg rd => some (pack5_2_5_5_3_5_7 20#5 3#2 0#5 0#5 6#3 rd 43#7)
  | .txAbt rs1 => some (pack5_2_5_5_3_5_7 22#5 3#2 0#5 rs1 6#3 0#5 43#7)
  | .txStat rd => some (pack5_2_5_5_3_5_7 23#5 3#2 0#5 0#5 6#3 rd 43#7)
  | .cpPub rd rs1 => some (pack5_2_5_5_3_5_7 0#5 3#2 0#5 rs1 7#3 rd 43#7)
  | .cpCancel rd => some (pack5_2_5_5_3_5_7 1#5 3#2 0#5 0#5 7#3 rd 43#7)
  | .gth rd rs1 rs2 => some (pack5_2_5_5_3_5_7 2#5 3#2 rs2 rs1 7#3 rd 43#7)
  | .sct rd rs1 rs2 => some (pack5_2_5_5_3_5_7 3#5 3#2 rs2 rs1 7#3 rd 43#7)
  | .clWb rs1 => some (pack5_2_5_5_3_5_7 4#5 3#2 0#5 rs1 7#3 0#5 43#7)
  | .clInv rs1 => some (pack5_2_5_5_3_5_7 5#5 3#2 0#5 rs1 7#3 0#5 43#7)
  | .clFlush rs1 => some (pack5_2_5_5_3_5_7 6#5 3#2 0#5 rs1 7#3 0#5 43#7)
  | .tlbInv rs1 rs2 => some (pack5_2_5_5_3_5_7 8#5 3#2 rs2 rs1 7#3 0#5 43#7)
  | .pgMig rd rs1 rs2 => some (pack5_2_5_5_3_5_7 9#5 3#2 rs2 rs1 7#3 rd 43#7)
  | .pgStat rd rs1 => some (pack5_2_5_5_3_5_7 10#5 3#2 0#5 rs1 7#3 rd 43#7)
  | .vadd vd vs1 vs2 ft rm km h => some (pack1_4_1_2_4_4_2_3_4_7 0#1 0#4 h km vs2 vs1 ft rm vd 91#7)
  | .vsub vd vs1 vs2 ft rm km h => some (pack1_4_1_2_4_4_2_3_4_7 0#1 1#4 h km vs2 vs1 ft rm vd 91#7)
  | .vmul vd vs1 vs2 ft rm km h => some (pack1_4_1_2_4_4_2_3_4_7 0#1 2#4 h km vs2 vs1 ft rm vd 91#7)
  | .vdiv vd vs1 vs2 ft rm km h => some (pack1_4_1_2_4_4_2_3_4_7 0#1 3#4 h km vs2 vs1 ft rm vd 91#7)
  | .vsqrt vd vs1 ft rm km h => some (pack1_4_1_2_4_4_2_3_4_7 0#1 4#4 h km 0#4 vs1 ft rm vd 91#7)
  | .vfma vd vs1 vs2 ft rm km h => some (pack1_4_1_2_4_4_2_3_4_7 0#1 5#4 h km vs2 vs1 ft rm vd 91#7)
  | .vfms vd vs1 vs2 ft rm km h => some (pack1_4_1_2_4_4_2_3_4_7 0#1 6#4 h km vs2 vs1 ft rm vd 91#7)
  | .vfnma vd vs1 vs2 ft rm km h => some (pack1_4_1_2_4_4_2_3_4_7 0#1 7#4 h km vs2 vs1 ft rm vd 91#7)
  | .vmin vd vs1 vs2 ft km h => some (pack1_4_1_2_4_4_2_3_4_7 0#1 8#4 h km vs2 vs1 ft 0#3 vd 91#7)
  | .vmax vd vs1 vs2 ft km h => some (pack1_4_1_2_4_4_2_3_4_7 0#1 9#4 h km vs2 vs1 ft 0#3 vd 91#7)
  | .vabs vd vs1 ft km h => some (pack1_4_1_2_4_4_2_3_4_7 0#1 10#4 h km 0#4 vs1 ft 0#3 vd 91#7)
  | .vneg vd vs1 ft km h => some (pack1_4_1_2_4_4_2_3_4_7 0#1 11#4 h km 0#4 vs1 ft 0#3 vd 91#7)
  | .vcvt vd vs1 sf ft rm km h => some (pack1_4_1_2_4_4_2_3_4_7 0#1 12#4 h km sf vs1 ft rm vd 91#7)
  | .vredsum vd vs1 ft rm km h => some (pack1_4_1_2_4_4_2_3_4_7 0#1 13#4 h km 0#4 vs1 ft rm vd 91#7)
  | .vredmin vd vs1 ft km h => some (pack1_4_1_2_4_4_2_3_4_7 0#1 14#4 h km 0#4 vs1 ft 0#3 vd 91#7)
  | .vredmax vd vs1 ft km h => some (pack1_4_1_2_4_4_2_3_4_7 0#1 15#4 h km 0#4 vs1 ft 0#3 vd 91#7)
  | .viadd vd vs1 vs2 et km h => some (pack1_5_3_4_4_3_1_4_7 1#1 0#5 km vs2 vs1 et h vd 91#7)
  | .visub vd vs1 vs2 et km h => some (pack1_5_3_4_4_3_1_4_7 1#1 1#5 km vs2 vs1 et h vd 91#7)
  | .vimul vd vs1 vs2 et km h => some (pack1_5_3_4_4_3_1_4_7 1#1 2#5 km vs2 vs1 et h vd 91#7)
  | .vand vd vs1 vs2 et km h => some (pack1_5_3_4_4_3_1_4_7 1#1 3#5 km vs2 vs1 et h vd 91#7)
  | .vor vd vs1 vs2 et km h => some (pack1_5_3_4_4_3_1_4_7 1#1 4#5 km vs2 vs1 et h vd 91#7)
  | .vxor vd vs1 vs2 et km h => some (pack1_5_3_4_4_3_1_4_7 1#1 5#5 km vs2 vs1 et h vd 91#7)
  | .vsll vd vs1 vs2 et km h => some (pack1_5_3_4_4_3_1_4_7 1#1 6#5 km vs2 vs1 et h vd 91#7)
  | .vsrl vd vs1 vs2 et km h => some (pack1_5_3_4_4_3_1_4_7 1#1 7#5 km vs2 vs1 et h vd 91#7)
  | .vsra vd vs1 vs2 et km h => some (pack1_5_3_4_4_3_1_4_7 1#1 8#5 km vs2 vs1 et h vd 91#7)
  | .vcmpeq kd vs1 vs2 et km h => some (pack1_5_3_4_4_3_1_1_3_7 1#1 9#5 km vs2 vs1 et h 0#1 kd 91#7)
  | .vcmpne kd vs1 vs2 et km h => some (pack1_5_3_4_4_3_1_1_3_7 1#1 10#5 km vs2 vs1 et h 0#1 kd 91#7)
  | .vcmplt kd vs1 vs2 et km h => some (pack1_5_3_4_4_3_1_1_3_7 1#1 11#5 km vs2 vs1 et h 0#1 kd 91#7)
  | .vcmple kd vs1 vs2 et km h => some (pack1_5_3_4_4_3_1_1_3_7 1#1 12#5 km vs2 vs1 et h 0#1 kd 91#7)
  | .vcmpltn kd vs1 vs2 et km h => some (pack1_5_3_4_4_3_1_1_3_7 1#1 13#5 km vs2 vs1 et h 0#1 kd 91#7)
  | .vperm vd vs1 vs2 et km h => some (pack1_5_3_4_4_3_1_4_7 1#1 14#5 km vs2 vs1 et h vd 91#7)
  | .vslide vd vs1 xs et km h => some (pack1_5_3_4_4_3_1_4_7 1#1 15#5 km xs vs1 et h vd 91#7)
  | .vzip vd vs1 vs2 et km h => some (pack1_5_3_4_4_3_1_4_7 1#1 16#5 km vs2 vs1 et h vd 91#7)
  | .vunzip vd vs1 vs2 et km h => some (pack1_5_3_4_4_3_1_4_7 1#1 17#5 km vs2 vs1 et h vd 91#7)
  | .vmerge vd vs1 vs2 et km h => some (pack1_5_3_4_4_3_1_4_7 1#1 18#5 km vs2 vs1 et h vd 91#7)
  | .vmv vd vs1 km h => some (pack1_5_3_4_4_3_1_4_7 1#1 19#5 km 0#4 vs1 0#3 h vd 91#7)
  | .vins vd xs xi et h => some (pack1_5_3_4_4_3_1_4_7 1#1 20#5 0#3 xi xs et h vd 91#7)
  | .vext rd vs xi et => some (pack1_5_3_4_4_3_5_7 1#1 21#5 0#3 vs xi et rd 91#7)
  | .kand kd ks1 ks2 => some (pack1_5_3_1_3_1_3_3_1_1_3_7 1#1 22#5 0#3 0#1 ks2 0#1 ks1 0#3 0#1 0#1 kd 91#7)
  | .kor kd ks1 ks2 => some (pack1_5_3_1_3_1_3_3_1_1_3_7 1#1 23#5 0#3 0#1 ks2 0#1 ks1 0#3 0#1 0#1 kd 91#7)
  | .kxor kd ks1 ks2 => some (pack1_5_3_1_3_1_3_3_1_1_3_7 1#1 24#5 0#3 0#1 ks2 0#1 ks1 0#3 0#1 0#1 kd 91#7)
  | .knot kd ks1 => some (pack1_5_3_1_3_1_3_3_1_1_3_7 1#1 25#5 0#3 0#1 0#3 0#1 ks1 0#3 0#1 0#1 kd 91#7)
  | .kpop rd ks1 => some (pack1_5_3_4_1_3_3_5_7 1#1 26#5 0#3 0#4 0#1 ks1 0#3 rd 91#7)
  | .kfirst rd ks1 => some (pack1_5_3_4_1_3_3_5_7 1#1 27#5 0#3 0#4 0#1 ks1 0#3 rd 91#7)
  | .mmBf16 rd rs1 rs2 fs => some (pack5_2_5_5_3_5_7 fs 0#2 rs2 rs1 0#3 rd 123#7)
  | .mmFp16 rd rs1 rs2 fs => some (pack5_2_5_5_3_5_7 fs 0#2 rs2 rs1 1#3 rd 123#7)
  | .mmE4e4 rd rs1 rs2 fs => some (pack5_2_5_5_3_5_7 fs 0#2 rs2 rs1 2#3 rd 123#7)
  | .mmE5e5 rd rs1 rs2 fs => some (pack5_2_5_5_3_5_7 fs 0#2 rs2 rs1 3#3 rd 123#7)
  | .mmE4e5 rd rs1 rs2 fs => some (pack5_2_5_5_3_5_7 fs 0#2 rs2 rs1 4#3 rd 123#7)
  | .mmE5e4 rd rs1 rs2 fs => some (pack5_2_5_5_3_5_7 fs 0#2 rs2 rs1 5#3 rd 123#7)
  | .mmQe4 rd rs1 rs2 fs => some (pack5_2_5_5_3_5_7 fs 0#2 rs2 rs1 6#3 rd 123#7)
  | .mmQbf rd rs1 rs2 fs => some (pack5_2_5_5_3_5_7 fs 0#2 rs2 rs1 7#3 rd 123#7)
  | .mmI8 rd rs1 rs2 fs => some (pack5_2_5_5_3_5_7 fs 1#2 rs2 rs1 0#3 rd 123#7)
  | .mmFp32 rd rs1 rs2 fs => some (pack5_2_5_5_3_5_7 fs 1#2 rs2 rs1 1#3 rd 123#7)
  | .maZero rd acc => some (pack3_2_2_5_5_3_5_7 0#3 acc 2#2 0#5 0#5 0#3 rd 123#7)
  | .maLd rd acc rs1 => some (pack3_2_2_5_5_3_5_7 0#3 acc 2#2 0#5 rs1 1#3 rd 123#7)
  | .maSt rd acc rs1 rm => some (pack3_2_2_5_5_3_5_7 rm acc 2#2 0#5 rs1 2#3 rd 123#7)
  | .maMv rd accD accS => some (pack1_2_2_2_5_5_3_5_7 0#1 accS accD 2#2 0#5 0#5 3#3 rd 123#7)
  | .laClr rd rs1 => some (pack5_2_5_5_3_5_7 0#5 2#2 0#5 rs1 4#3 rd 123#7)
  | .laFma rd rs1 va vb => some (pack1_4_2_1_4_5_3_5_7 0#1 vb 2#2 0#1 va rs1 5#3 rd 123#7)
  | .laAdd rd rs1 va => some (pack1_4_2_1_4_5_3_5_7 0#1 0#4 2#2 0#1 va rs1 6#3 rd 123#7)
  | .laRnd rd rs1 fmt rm => some (pack2_3_2_5_5_3_5_7 fmt rm 2#2 0#5 rs1 7#3 rd 123#7)
  | .laMrg rd rs1 rs2 => some (pack5_2_5_5_3_5_7 0#5 3#2 rs2 rs1 0#3 rd 123#7)
  | .hxBin rd rs1 va ft => some (pack3_2_2_1_4_5_3_5_7 0#3 ft 3#2 0#1 va rs1 1#3 rd 123#7)
  | .hxClr rd rs1 => some (pack5_2_5_5_3_5_7 0#5 3#2 0#5 rs1 2#3 rd 123#7)
  | .hxMrg rd rs1 rs2 => some (pack5_2_5_5_3_5_7 0#5 3#2 rs2 rs1 3#3 rd 123#7)
  | .ecall => some (pack12_5_3_5_7 0#12 0#5 0#3 0#5 115#7)
  | .ecallPassFault => none
  | .ecallRaiseInterrupt => none
  | .ebreak => some (pack12_5_3_5_7 1#12 0#5 0#3 0#5 115#7)
  | .sret => some (pack12_5_3_5_7 258#12 0#5 0#3 0#5 115#7)
  | .mret => some (pack12_5_3_5_7 770#12 0#5 0#3 0#5 115#7)
  | .wfi => some (pack12_5_3_5_7 261#12 0#5 0#3 0#5 115#7)
  | .hend => some (pack7_5_5_3_5_7 1#7 0#5 0#5 0#3 0#5 11#7)
  | .yield => some (pack7_5_5_3_5_7 4#7 0#5 0#5 0#3 0#5 11#7)
  | .upret => some (pack7_5_5_3_5_7 6#7 0#5 0#5 0#3 0#5 11#7)
  | .qhalt => some (pack7_5_5_3_5_7 7#7 0#5 0#5 0#3 0#5 11#7)
  | .xchEnd => some (pack7_5_5_3_5_7 1#7 0#5 0#5 3#3 0#5 11#7)
  | .txEnd => some (pack5_2_5_5_3_5_7 21#5 3#2 0#5 0#5 6#3 0#5 43#7)
  | .csrWrite _ _ => none
  | .qrgnWrite _ _ => none
  | .qrxcntWrite _ => none
  | .qcontWrite _ => none
  | .qsaveWrite _ => none
  | .reply _ => none
  | .vectorQueueExecute _ => none
  | .nputFill _ => none
  | .parcelEnd _ => none
  | .matrixGrant _ => none
  | .mtxCompletion _ => none
  | .operandsConsumed _ => none
  | .pairing _ => none
  | .pairtimeout _ => none
  | .copyEngineTurn _ => none
  | .copyCompletion _ => none
  | .publishFlip _ => none
  | .gatherEngineTurn _ => none
  | .barrierArrival _ => none
  | .barrierCompletion _ => none
  | .domSetCompletion _ => none
  | .exchangeSlot _ => none
  | .entryLanding _ => none
  | .ctxSaveCompletion _ _ => none
  | .ctxLoadCompletion _ _ => none
  | .gsigPerform _ => none
  | .gwaitTimeout _ _ => none
  | .watchValue _ _ => none
  | .homeRead _ _ => none
  | .homeWrite _ _ => none
  | .homeReduce _ _ => none
  | .homeEviction _ _ => none
  | .reductionAtL2 _ _ => none
  | .probe _ _ => none
  | .probeTimeout _ _ => none
  | .lockRequest _ => none
  | .successorLink _ => none
  | .lockReleaseHome _ => none
  | .lockHandoff _ => none
  | .lockTimeout _ _ => none
  | .deadlockSearch _ _ => none
  | .grantParkExpiry _ _ => none
  | .txAbortMessage _ _ => none
  | .txPrepare _ _ _ => none
  | .txPrepareAck _ _ => none
  | .txRelease _ _ _ => none
  | .upcallDelivery _ => none
  | .deferredTrap _ _ => none
  | .interruptTake _ => none
  | .watchdog _ => none
  | .yieldWindowEnd _ _ => none
  | .quarantine _ => none
  | .launch _ _ _ _ => none
  | .submit _ => none
  | .retire _ => none
  | .saved _ => none
  | .ctl _ => none
  | .part _ _ _ _ _ _ _ _ _ => none
  | .rankStart _ => none
  | .preempt _ => none
  | .restore _ => none
  | .coreReset _ => none
  | .partitionReset _ _ => none
  | .bringUp _ _ _ _ => none
  | .homeLost _ _ => none
  | .moduleDown _ _ => none
  | .memrd _ _ _ _ _ => none
  | .memwr _ _ _ _ _ => none
  | .doorbell _ _ _ _ => none
  | .evread _ _ _ _ => none
  | .keyagree _ _ _ _ => none
  | .keyset _ _ _ _ _ => none
  | .evring _ _ _ _ _ _ => none
  | .hwin _ _ _ _ _ _ _ => none
  | .attest _ _ _ => none
  | .hostReply _ _ => none
  | .proxyAtomic _ => none
  | .retransmit _ _ _ => none
  | .linkCodeword _ _ _ _ _ _ _ => none
  | .linkDown _ _ => none
  | .peerLostTimeout _ _ => none
  | .remoteRequest _ _ => none
  | .migrationPassEnd _ => none
  | .install _ => none
  | .installAck _ => none
  | .fwd _ _ => none
  | .redirect _ => none
  | .purge _ => none
  | .purgeAck _ => none
  | .migchain _ _ => none
  | .migstale _ _ => none
  | .tailIdleTimeout _ => none
  | .tailLifetimeExpiry _ => none
  | .staleMarkExpiry _ => none
  | .powerCheck _ _ _ _ => none
  | .throttle _ _ => none
  | .thermalShutdown _ _ => none
  | .powerGate _ _ => none
  | .fResultWritten _ _ _ => none
  | .scratchpadWindowRequest _ _ => none

/-- What the machine runs for a word: the decoded instruction, or ILLEGAL_INSTRUCTION with the word (00 R8). -/
def decodeOrIllegal (w : IWord) : Instr :=
  match decode w with
  | .ok i => i
  | .error _ => .illegalInstruction w

/-- The decoder on the host's numbering: instructions are one 32-bit word, bit 0 the least significant. -/
def decodeTableWord (nbits w : Nat) : Option Instr :=
  match decode (BitVec.ofNat 32 (w % 2 ^ nbits)) with
  | .ok i => some i
  | .error _ => none

end Sys2Proof
end

