-- ==== Sys2Proof/Config.lean ====
section
/-! DEFINITION. What the spec leaves to the part or leaves open: constants without a body, of which nothing can be
proved, and the sizes the spec states. -/
namespace Sys2Proof.Config

/-- A value the spec leaves open, drawn by the counter State.fresh (log entry 6). -/
opaque freeValue : Nat → Word
/-- Bytes of the DDR-5 module of channel c of package p at p * 12 + c (14 R288; log entry 7). -/
opaque ddrModuleBytes : Nat → Nat
/-- SHA-512 of a byte string (20 R392; log entry 8). -/
opaque sha512 : List Byte → BitVec 512
/-- The Ed25519 signature of a message by the device key of a package (20 R394). -/
opaque deviceSign : Nat → List Byte → BitVec 512
/-- Whether the fused operator key accepts a signature of a message (20 R386 KEYAGREE). -/
opaque operatorVerify : Nat → List Byte → BitVec 512 → Bool
/-- The device's ephemeral X25519 public value of exchange n (20 R386). -/
opaque devicePublic : Nat → Nat → BitVec 256
/-- The shared secret's HKDF-SHA-512 output for a peer value and an information string: "h2d" false, "d2h" true. -/
opaque managementKey : Nat → Nat → BitVec 256 → Bool → BitVec 256
/-- The device public key of a package (20 R394). -/
opaque deviceKey : Nat → BitVec 256
/-- SHA-512 of the firmware image of a package (20 R392). -/
opaque firmwareHash : Nat → BitVec 512
/-- How the value of a LOCKCYCLE event names the members of a cycle, cores and contexts (20 R391; log entry 44). -/
opaque cycleMembers : List (Nat × Nat) → Word
/-- The reason code of an ACCESS event for a lost home, to which 14 R303 gives none (17 R348; log entry 79). -/
opaque homelostReason : BitVec 16

/-- Cycles of the 1.9 GHz time base in a microsecond (00 R9). -/
def cyclesPerUs : Nat := 1900
/-- Entries of the queues of a core (02 R19, 05 R144, R151, 04 R107, 12 R259, 17 R344). -/
def vectorQueue : Nat := 16
def matrixQueue : Nat := 8
def copiesInFlight : Nat := 64
def scoreboardRanges : Nat := 64
def gatherQueue : Nat := 16
def sendBuffer : Nat := 64
def upcallQueue : Nat := 16
def ghostTable : Nat := 16

end Sys2Proof.Config
end

