-- ==== Sys2Proof/Machine/State.lean ====
section
/-! DEFINITION. The state of the pod as plain data: every piece of state that the spec names, and State.reset. -/
namespace Sys2Proof.Machine

/-- Finite data by key: the first entry of a key counts, an unlisted key has the default of its reader. -/
abbrev FMap (β : Type) := List (Nat × β)

/-- Privilege modes (00 R7, 02 R29). -/
inductive Mode where
  | u | s | m
  deriving DecidableEq, Repr

/-- The registers a transaction's checkpoint holds (05 R136): x, f, v and k with their presence and pending
masks, fcsr, qrm, qsrctr and the PC. -/
structure Regs where
  /-- x1..x31; an unlisted register is 0 (02 R23). -/
  x : FMap Word := []
  /-- presence bits of x (02 R24). -/
  xpres : BitVec 32 := BitVec.allOnes 32
  /-- pending marks of x (02 R24). -/
  xpend : BitVec 32 := 0
  /-- f0..f31 (02 R23). -/
  f : FMap (BitVec 32) := []
  /-- the interlock of f registers whose result is in flight (02 R27). -/
  fpend : BitVec 32 := 0
  /-- v0..v15 (02 R23). -/
  v : FMap VWord := []
  vpres : BitVec 16 := BitVec.allOnes 16
  vpend : BitVec 16 := 0
  /-- k0..k7 (02 R23). -/
  k : FMap Word := []
  /-- the v register that the reuse latch keeps; its value there is the register's own, as each write clears the latch
  (06 R178) -/
  latch : Option Nat := none
  fflags : BitVec 5 := 0
  frm : BitVec 3 := 0
  qrm : BitVec 3 := 0
  qsrctr : Word := 0
  pc : Word := 0
  deriving DecidableEq, Repr

/-- What a context that is not ready to issue waits for before its instruction issues again (02 R20, R25, R27). -/
inductive Cond where
  /-- register present (02 R25) -/
  | xPresent (r : Nat) | vPresent (r : Nat)
  /-- pending mark clear (02 R25, last sentence of the first paragraph) -/
  | xSettled (r : Nat) | vSettled (r : Nat)
  /-- f result written (02 R27) -/
  | fDone (r : Nat)
  /-- a free entry in the vector queue, the matrix queue, the copy path, the gather path (02 R20, R21; 05 R144, R151) -/
  | vqRoom | mqRoom (ranges : Nat) | copyRoom (ranges : Nat) | gatherRoom (ranges : Nat)
  /-- room for n requests to other packages (05 R116) -/
  | remoteRoom (n : Nat)
  /-- a free entry in the send buffer; the send buffer empty (04 R107, R110) -/
  | sendRoom | sendEmpty
  /-- every VEC instruction of the context has executed (02 R27) -/
  | vecDone
  /-- no pending marks (05 R136) -/
  | noPending
  /-- earlier accesses of the fence's kinds performed (05 R126); kind 0 acq, 1 rel, 2 full -/
  | fence (kind : Nat) (scope : Nat)
  /-- every load, store and remote request of the context has completed (01 R15) -/
  | accessesDone
  /-- every access of the cores in reach has been performed (05 R154) -/
  | reachQuiet (reach : Nat)
  /-- no access of the context to a line is open, and no committing transaction holds the line (05 R153, 17 R338) -/
  | lineDone (line : Nat)
  /-- a free entry of the ghost table (17 R344) -/
  | ghostRoom
  /-- fewer than four locks held and requested by the context (05 R135) -/
  | lockRoom
  /-- own scratchpad bytes that an instruction reads at issue: earlier writes of them are done (05 R145, R151) -/
  | spmReady (lo n : Nat)
  /-- the walk for an access to an address goes on: it met a page in handover or the commit of a transaction, and has not
  issued (02 R20; 17 R338, 19 R368); kind 0 fetch, 1 load, 2 store, 3 amo, 4 atomic -/
  | walk (va : Word) (kind : Nat)
  deriving DecidableEq, Repr

/-- What a context waits for at a word: where the word is now, the address that the watch first named (19 R363), its virtual
address, its place in program order (05 R145), whether its home has taken the watch (19 R364), and, until it has, the cycle
in which the request left for another package (19 R365). -/
structure Watch where
  loc : Nat
  named : Nat
  va : Nat
  order : Nat := 0
  taken : Bool := false
  since : Option Nat := none
  deriving DecidableEq, Repr

/-- Why a context waits at a barrier (04 R98, R106, R110). -/
inductive BarWhy where
  | awt | xchBeg (off cap : Nat) | xchEnd
  deriving DecidableEq, Repr

/-- A wait that its event ends, not a new issue (02 R22). -/
inductive Wait where
  /-- bar.awt, xch.beg, xch.end after their arrival; phase none until the unit has counted it (04 R98) -/
  | barrier (dom level : Nat) (phase : Option Nat) (rd : Nat) (why : BarWhy)
  /-- gwait; deadline 0 is none (05 R128) -/
  | word (w : Watch) (value deadline rd : Nat)
  /-- tk.wait (05 R129) -/
  | ticket (w : Watch) (t : Nat)
  /-- lk.acq or lk.try with rd = x0 (05 R130) -/
  | lock (line : Nat)
  /-- tx.end while the homes prepare (17 R338) -/
  | commit
  /-- yield: the contexts that have yet to issue, and the last cycle (04 R86); the PC is past the instruction -/
  | yield (deadline : Nat) (others : List Nat)
  /-- hwait for helper h; h = 0: every other helper (04 R83) -/
  | helper (h : Nat)
  /-- bar.wait for a phase of a domain (04 R101) -/
  | phase (dom phase : Nat)
  /-- xrecv until n entries have landed; rd receives COUNT (04 R109) -/
  | received (n rd : Nat)
  /-- wfi (00 R7) -/
  | wfi
  /-- a wait whose event came while an upcall was handled: its instruction is over (12 R258) -/
  | ended
  deriving DecidableEq, Repr

/-- The states of a context (02 R22); `reserved` is the target of a ctx.load in flight (04 R95), `held` a helper
whose page fault is with the upcall handler (12 R260). -/
inductive CtxState where
  | free
  | reserved
  | live
  | parked (cs : List Cond)
  | waiting (w : Wait)
  | held (addr : Word)
  deriving DecidableEq, Repr

/-- A copy command (05 R143): op 0 g2g, 1 2d, 2 g2s, 3 s2g, 4 s2s. Destination and source are virtual addresses
(g) or scratchpad offsets (s). -/
structure CopyCmd where
  id : Nat
  core : Nat
  ctx : Nat
  op : Nat
  /-- the three operand words as read at issue -/
  w1 : Word
  w2 : Word
  w3 : Word
  rd : Nat
  tag : Nat
  scope : Nat
  shadow : Bool
  dstS : Bool
  srcS : Bool
  dst : Nat
  src : Nat
  rows : Nat
  rowBytes : Nat
  spitch : Nat
  dpitch : Nat
  /-- bytes already written, row by row -/
  pos : Nat := 0
  mode : Mode
  /-- the region descriptors as they stood at issue (14 R298) -/
  rgn : FMap Word := []
  started : Bool := false
  cancel : Bool := false
  orphan : Bool := false
  retiredIssuer : Bool := false
  /-- the fault waits for a free hand-back slot (12 R261) -/
  failed : Bool := false
  /-- a host window access awaits its reply (20 R387); bytes read and not yet written -/
  hostWait : Bool := false
  hostData : List Byte := []
  /-- the selectors of the eight remap entries of each core read, when the reads began (05 R150) -/
  bound : FMap (List Bool) := []
  /-- the position at which the KiB being moved ends: a cancel stops there (05 R147, 11 R246) -/
  goal : Nat := 0
  /-- scoreboard ranges taken: a copy of a transaction takes them from its commit on (05 R146) -/
  ranged : Bool := true
  /-- position in program order against the other engine commands and held accesses -/
  order : Nat
  /-- accesses and lock requests that this command follows (05 R122, 16 R317) -/
  after : List Nat := []
  deriving DecidableEq, Repr

/-- Phases of an open transaction (17 R338). -/
inductive TxPhase where
  | running
  /-- the homes already marked -/
  | preparing (marked : List Nat)
  deriving DecidableEq, Repr

/-- An open transaction (05 R136 to R141, 17 R333 to R338). Tiles are physical addresses divided by 512. -/
structure Tx where
  depth : Nat
  /-- the registers at the tx.beg, with the PC after it -/
  saved : Regs
  /-- rd of the outermost tx.beg -/
  rd : Nat
  readSet : List Nat := []
  writeSet : List Nat := []
  redSet : List Nat := []
  /-- virtual base of each tile touched (tx.stat ADDR) -/
  tileVa : FMap Word := []
  /-- speculative bytes by physical address -/
  spec : FMap Byte := []
  /-- reductions in program order: address, tag, operand (at most 512) -/
  redLog : List (Nat × Nat × Word) := []
  /-- tiles in the versioned slice, each with the lent way that holds it: its lines are V there (17 R328, R333) -/
  spilled : FMap Nat := []
  /-- held copies in program order (05 R146) -/
  copies : List CopyCmd := []
  phase : TxPhase := .running
  deriving DecidableEq, Repr

/-- A deferred trap that awaits its context (12 R257). -/
structure Deferred where
  code : Nat
  value : Word
  deriving DecidableEq, Repr

/-- A lock request that awaits its status (05 R130, R135): line, register, deadline (0 none), time of issue. -/
structure LockWait where
  line : Nat
  rd : Nat
  deadline : Nat
  born : Nat
  /-- the physical address that the request first named, by which it is remote or not (19 R363) -/
  named : Nat
  /-- the physical address that it names now, after a redirect (19 R373) -/
  pa : Nat := named
  /-- position in program order: the grant is an acquire (16 R317) -/
  order : Nat
  /-- the virtual address, for the walk that resolves MIGCHAIN and MIGSTALE (19 R374) -/
  va : Nat := 0
  deriving DecidableEq, Repr

/-- One hardware context (02 R22, R23, R29, R33 to R35). -/
structure Context where
  regs : Regs := {}
  qsrseed : Word := 0
  qhbase : BitVec 8 := 0xE2
  mode : Mode := .u
  /-- sstatus is the view of this word (02 R29, the standard) -/
  mstatus : Word := 0
  mepc : Word := 0
  mcause : Word := 0
  mtval : Word := 0
  mscratch : Word := 0
  sepc : Word := 0
  scause : Word := 0
  stval : Word := 0
  sscratch : Word := 0
  st : CtxState := .free
  tx : Option Tx := none
  /-- cycle count of the age; the core number is the tiebreak (05 R136) -/
  age : Option Nat := none
  abortCause : BitVec 7 := 0
  abortAddr : Word := 0
  /-- an abort raised by a home that waits for the next instruction boundary (17 R337): cause, tile or address -/
  abortMsg : Option (Nat × Word) := none
  deferred : List Deferred := []
  /-- the record of a wait that an upcall interrupted (12 R258) -/
  keptWait : Option Wait := none
  /-- lines whose gecko lock the context holds (at most 4, 05 R135) -/
  locks : List Nat := []
  /-- the lk.acq that awaits its status (at most 1, 05 R135), and the lk.try requests that do -/
  lockWait : Option LockWait := none
  lockTries : List LockWait := []
  /-- accesses of other contexts that this one's next accesses follow: those of the starter before the hstart, those of
  a helper before the end that an hwait awaited (04 R85) -/
  after : List Nat := []
  /-- its stores that were pending at a fence at ctx scope: its later engine commands follow them (16 R312, R317) -/
  cmdAfter : List Nat := []
  deriving DecidableEq, Repr

/-- Cache line states (17 R328) and home states (17 R327). -/
inductive LineSt where
  | i | s | e | m | o | p
  deriving DecidableEq, Repr

/-- What a vector-queue entry does when it executes (06 R158, R159). -/
inductive VqWork where
  | done
  | fillX (rd : Nat) (value : Word)
  | memory (req : Nat)
  deriving DecidableEq, Repr

structure VqEntry where
  ctx : Nat
  work : VqWork
  orphan : Bool := false
  deriving DecidableEq, Repr

/-- A matrix command with every register value it read at issue (07 R181). -/
structure MtxCmd where
  id : Nat
  ctx : Nat
  /-- the mode of the issuer (14 R301) -/
  mode : Mode := .m
  /-- the code c of R64 -/
  code : Nat
  rd : Nat
  /-- the five bits of the m field -/
  m : Nat
  /-- x[rs1], x[rs1+1], x[rs2], x[rs2+1] -/
  a0 : Word
  a1 : Word
  b0 : Word
  b1 : Word
  /-- the two vector operands, or the 16 registers of a KIND 2 operand from its first one on -/
  va : List VWord
  vb : List VWord
  mask : Word
  sa : BitVec 32
  sb : BitVec 32
  /-- rounding mode, seed and count of stochastic rounding (09 R220) -/
  rm : Nat
  seed : Word
  count : Word
  qhbase : BitVec 8
  /-- grants received: K-steps done -/
  step : Nat := 0
  /-- the selectors of the eight remap entries of each core read, when the reads began (05 R150) -/
  bound : FMap (List Bool) := []
  consumed : Bool := false
  /-- the operands-consumed token has been filled -/
  told : Bool := false
  /-- pairing: the partner's core once paired (07 R196) -/
  pair : Option Nat := none
  waitingSince : Option Nat := none
  window : Nat
  /-- a finished command: the status its completion writes -/
  status : Option Int := none
  orphan : Bool := false
  retiredIssuer : Bool := false
  order : Nat
  /-- accesses and lock requests that this command follows (05 R122, 16 R317) -/
  after : List Nat := []
  deriving DecidableEq, Repr

/-- A gather or scatter command (05 R151). -/
structure GatherCmd where
  id : Nat
  ctx : Nat
  scatter : Bool
  table : Word
  descOff : Nat
  idx : Nat
  buf : Nat
  count : Nat
  esz : Nat
  stride : Nat
  rd : Nat
  dom : Nat
  /-- bytes moved -/
  pos : Nat := 0
  /-- an exchange phase of the domain began after the issue -/
  active : Bool := false
  status : Option Int := none
  /-- the fault waits for a free hand-back slot (12 R261) -/
  failed : Bool := false
  hostWait : Bool := false
  hostData : List Byte := []
  /-- the selectors of the eight remap entries of each core read, when the reads began (05 R150) -/
  bound : FMap (List Bool) := []
  mode : Mode
  rgn : FMap Word := []
  orphan : Bool := false
  retiredIssuer : Bool := false
  order : Nat
  /-- accesses and lock requests that this command follows (05 R122, 16 R317) -/
  after : List Nat := []
  deriving DecidableEq, Repr

/-- A cp.pub in progress (05 R150): op 0 publish, 1 define, 2 clear. -/
structure PubCmd where
  id : Nat
  ctx : Nat
  op : Nat
  entry : Nat
  log : Nat
  twin : Nat
  size : Nat
  rd : Nat
  flipped : Bool := false
  orphan : Bool := false
  order : Nat
  /-- accesses and lock requests that this command follows (05 R122, 16 R317) -/
  after : List Nat := []
  deriving DecidableEq, Repr

/-- A remap entry (05 R149), offsets in 64-byte units. -/
structure Remap where
  valid : Bool := false
  sel : Bool := false
  log : Nat := 0
  twin : Nat := 0
  size : Nat := 0
  deriving DecidableEq, Repr

/-- One line of the L1 data cache: set, way, line address (PA / 64), state, speculative marks per context (17 R327). -/
structure L1Line where
  set : Nat
  way : Nat
  line : Nat
  st : LineSt
  spec : List Nat := []
  deriving DecidableEq, Repr

/-- A TLB entry (14 R297): tags, the leaf entry as walked, and its page. -/
structure TlbEntry where
  part : Nat
  base : Nat
  pgsz : Bool
  root : Nat
  page : Nat
  seq : Nat
  pte : Word
  deriving DecidableEq, Repr

/-- A core's view of one domain level (04 R97). -/
structure Level where
  dom : Nat
  rank : Nat
  size : Nat
  arrived : Bool := false
  dropped : Bool := false
  last : BitVec 32 := BitVec.allOnes 32
  deriving DecidableEq, Repr

/-- An exchange phase of a core (04 R106, R107). -/
structure Exchange where
  dom : Nat
  level : Nat
  off : Nat
  cap : Nat
  /-- xch.beg has arrived but its phase has not completed -/
  opening : Bool := true
  closing : Bool := false
  buffer : List (Nat × VWord) := []
  deriving DecidableEq, Repr

/-- An upcall that waits for delivery (12 R258, R259). -/
structure UpcallRec where
  code : Nat
  value : Word
  tag : Nat := 0
  vreg : Bool := false
  reg : Nat := 0
  ctx : Nat := 0
  /-- hand-back slot of an engine fault (12 R261) -/
  slot : Option Nat := none
  deriving DecidableEq, Repr

/-- A ctx.save or ctx.load in flight (04 R94, R95). -/
structure CtxOp where
  load : Bool
  issuer : Nat
  target : Nat
  va : Word
  rd : Nat
  orphan : Bool := false
  id : Nat := 0
  /-- the issuer's mode -/
  mode : Mode := .s
  /-- lines of the image done; bytes of it read -/
  pos : Nat := 0
  data : List Byte := []
  /-- an access of a host window awaits its reply -/
  hostWait : Bool := false
  /-- the line from which a save goes on after that reply, where a fill has reached a register of a line already sent (04 R89) -/
  redo : Option Nat := none
  /-- accesses and lock requests that it follows (05 R122, 16 R317) -/
  after : List Nat := []
  deriving DecidableEq, Repr

/-- A ghost of a lock queue (17 R344): line, the context that left, the time of issue of its request. -/
structure Ghost where
  line : Nat
  ctx : Nat
  born : Nat
  deriving DecidableEq, Repr

/-- A saved rank of a core (12 R266): launch, rank, parcel, save area, its grant, a pending interrupt, its levels.
Its requests, locks and contexts carry the number 16 * num + n. -/
structure SavedRank where
  launch : Nat
  rank : Nat
  parcel : Nat
  base : Nat
  spmBytes : Nat
  /-- 1, or more where the core holds other ranks saved -/
  num : Nat := 1
  /-- it is stopped for containment, and retires once its issued accesses have been performed and answered (12 R265) -/
  ending : Bool := false
  halted : Bool := false
  seip : Bool := false
  slots : List Nat := []
  actSlot : Option Nat := none
  levels : List Level := []
  /-- qsave, which is saved with the core and has no place in the header (02 R32, 12 R268) -/
  qsave : Word := 0
  deriving DecidableEq, Repr

/-- A grant of a gecko lock parked for a saved context (17 R345). -/
structure ParkedGrant where
  ctx : Nat
  line : Nat
  deadline : Nat
  poisoned : Bool
  /-- the request that the grant answers, and its time of issue when it is an lk.try -/
  wait : LockWait
  once : Option Nat := none
  /-- the grant carried the line, which the save agent buffers -/
  carried : Bool := false
  deriving DecidableEq, Repr

/-- One core (02 R19, R29, R32 to R45). -/
structure Core where
  /-- contexts 0 to 10; key 16 * num + n keeps what the save area does not hold of context n of a saved rank -/
  ctxs : FMap Context := []
  /-- the context that issued last (02 R20) -/
  last : Nat := 10
  vq : List VqEntry := []
  mq : List MtxCmd := []
  cq : List CopyCmd := []
  /-- those of a saved rank stay posted, with context number 16 * num + n (12 R266) -/
  gq : List GatherCmd := []
  pubs : List PubCmd := []
  /-- scratchpad bytes by offset, 0 where unlisted -/
  spm : List Host.Cell := []
  spmBytes : Nat := 0
  remap : FMap Remap := []
  /-- acc0..acc3: element (i, j) of accN at key 4096 N + 64 i + j -/
  acc : FMap (BitVec 32) := []
  l1 : List L1Line := []
  l1ptr : FMap Nat := []
  /-- instruction-cache lines: PA / 64 and the 64 bytes -/
  icache : List (Nat × List Byte) := []
  itlb : List TlbEntry := []
  dtlb : List TlbEntry := []
  mtvec : Word := 0
  stvec : Word := 0
  medeleg : Word := 0
  mideleg : Word := 0
  mie : Word := 0
  mip : Word := 0
  domLevel : BitVec 2 := 0
  domDepth : BitVec 2 := 0
  qrxcnt : BitVec 32 := 0
  qupv : Word := 0
  qupcause : Word := 0
  qupval : Word := 0
  qupctx : Word := 0
  qupepc : Word := 0
  /-- word n of the sixteen region words: A of region n/2 when even, B when odd (02 R40) -/
  qrgn : FMap Word := []
  qmaxout : BitVec 9 := 256
  qmxw : BitVec 4 := 1
  qpair : BitVec 32 := 65536
  qlkto : BitVec 32 := 1900000
  qlkpark : BitVec 32 := 19000
  qtaillife : BitVec 32 := 10000
  qcont : Word := 0
  qsave : Word := 0
  qtxcfg : Word := 0x00C00071
  qpwin : FMap Word := []
  qtenant : Word := 0
  qlaunch : Word := 0
  /-- number of the launch the core runs, its rank and current parcel -/
  launch : Option Nat := none
  rank : Nat := 0
  parcel : Nat := 0
  /-- the rank has ended its last parcel; RETIRE waits for commands (12 R262) -/
  retiring : Bool := false
  /-- the rank is stopped for containment: its tokens are not written, and it retires once its running copies, its flips
  and its issued accesses have ended (12 R265) -/
  stopping : Bool := false
  levels : List Level := []
  /-- a dom.set in progress: issuing context, rd, push with colour or pop, key -/
  domset : Option (Nat × Nat × Option Nat × Nat) := none
  xch : Option Exchange := none
  upq : List UpcallRec := []
  /-- hand-back slots in use, and the slot of the upcall being handled -/
  slots : List Nat := []
  actSlot : Option Nat := none
  initSp : Word := 0
  ctxops : List CtxOp := []
  ghosts : List Ghost := []
  /-- successor links of this core's holders and waiters: line, context, successor (core, context) -/
  succs : List (Nat × Nat × Nat × Nat) := []
  halted : Bool := false
  quarantined : Bool := false
  /-- the rank saved last, and those saved before it, the latest first (11 R239; log entry 47) -/
  saved : Option SavedRank := none
  below : List SavedRank := []
  parkedGrants : List ParkedGrant := []
  /-- the launch and rank of the core that a new launch pre-empts (11 R240) -/
  victimFor : Option (Nat × Nat) := none
  /-- those that later launches pre-empt before that save has ended, in order (11 R239, R240) -/
  victimNext : List (Nat × Nat) := []
  /-- issue has stopped for a pre-emption (12 R266 step 2) -/
  preempting : Bool := false
  lastIssue : Nat := 0
  wdogs : Nat := 0
  deriving DecidableEq, Repr

/-- Kinds of outstanding request (02 R19, 05 R119 to R129, 19 R363). -/
inductive ReqKind where
  | load | store
  | atomic (op : Nat)
  | reduce (tag : Nat)
  | signal
  | ticketGet | ticketAdv
  /-- a result computed at issue whose reply comes later (div, rem, F divide and square root) -/
  | compute
  /-- pg.stat -/
  | pageState
  /-- lk.stat -/
  | lockState
  deriving DecidableEq, Repr

/-- Where a reply is written. For x: bytes of the result and whether it is sign-extended. -/
inductive Dst where
  | none
  | x (r bytes : Nat) (signed : Bool)
  | pair (r : Nat)
  | f (r : Nat)
  | v (r bytes : Nat)
  /-- vbc: the one value goes to these lanes -/
  | vb (r bytes : Nat) (dests : List Nat)
  deriving DecidableEq, Repr

/-- One access of a request: lanes and lines are separate parts. -/
structure Part where
  pa : Nat
  va : Nat
  n : Nat
  lane : Nat := 0
  /-- store data or the atomic's operand, and the compare value -/
  data : Nat := 0
  cmp : Nat := 0
  done : Bool := false
  /-- the value read -/
  res : Nat := 0
  sent : Bool := false
  /-- scratchpad access of the own core held by the scoreboard -/
  own : Bool := false
  /-- a remote request: its address named another package at issue (19 R363) -/
  far : Bool := false
  /-- times forwarded, and the address that the request first named (19 R371) -/
  fwd : Nat := 0
  named : Option Nat := none
  resent : Bool := false
  answer : Option Nat := none
  /-- the cycle in which the gateway sent it to another package (19 R365) -/
  since : Option Nat := none
  deriving DecidableEq, Repr

structure Req where
  id : Nat
  core : Nat
  ctx : Nat
  kind : ReqKind
  parts : List Part
  dst : Dst
  acq : Option Nat := none
  rel : Option Nat := none
  tx : Bool := false
  mode : Mode := .u
  /-- a reply of failure: the cause and the value of the deferred trap -/
  fail : Option (Nat × Word) := none
  /-- the context ended: the reply is discarded -/
  orphan : Bool := false
  /-- still behind the vector queue -/
  queued : Bool := false
  /-- cycle of issue -/
  born : Nat := 0
  order : Nat
  /-- accesses of other contexts that this one follows (04 R85) -/
  after : List Nat := []
  /-- the selectors of the eight remap entries of each core read, when the reads began (16 R322) -/
  bound : FMap (List Bool) := []
  deriving DecidableEq, Repr

/-- Messages in flight that one event of the table consumes. -/
inductive MsgKind where
  /-- to a barrier unit: domain, drop, register to fill (04 R98) -/
  | arrive (dom level : Nat) (drop : Bool) (rd : Nat) (why : Option BarWhy)
  /-- from a barrier unit to a member core: domain, phase completed; or the counter is broken; bar.init set a count
  (04 R99, R103) -/
  | completion (dom phase mcore : Nat) (broken reinit : Bool)
  /-- nput: descriptor and value (04 R89) -/
  | nput (desc value : Word)
  /-- exchange entry: domain, sender's launch rank, destination core (04 R107) -/
  | entry (dom src dst : Nat) (value : VWord)
  /-- lock request: line, deadline (0 none), lk.try, time of issue (17 R342) -/
  | lockReq (line deadline : Nat) (once : Bool) (born : Nat)
  /-- successor link to a predecessor: line, predecessor core and context, successor core and context -/
  | succLink (line pcore pctx score sctx : Nat)
  /-- release at the home: line, poisoned -/
  | lockRel (line : Nat) (poisoned : Bool)
  /-- handoff to a waiter -/
  | handoff (line tcore tctx : Nat) (poisoned : Bool)
  /-- redirect to a cluster: old frame, new frame, 2 MiB page -/
  | redirect (cluster old new : Nat) (big : Bool)
  /-- release of a committed transaction to a home: its tiles (17 R338) -/
  | txRelease (home : Nat) (tiles : List Nat)
  | purge (frame pkg : Nat) (last : Bool)
  | purgeAck (frame pkg : Nat)
  deriving DecidableEq, Repr

structure Msg where
  id : Nat
  core : Nat
  ctx : Nat
  kind : MsgKind
  deriving DecidableEq, Repr

/-- Directory entry of a line at its home (17 R327). -/
structure DirLine where
  st : LineSt := .i
  own : Nat := 0
  tag : Nat := 0
  ph : BitVec 16 := 0
  lock : Bool := false
  /-- the core that wrote the line last, plus 1 (20 R390) -/
  writer : Nat := 0
  deriving DecidableEq, Repr

/-- A cluster's partial of a line in P (17 R330): elements by byte offset. -/
structure Partial where
  tag : Nat
  elems : FMap Nat := []
  deriving DecidableEq, Repr

/-- A gecko lock entry (17 R341); the queue holds (core, context, time of issue, deadline). -/
structure Lock where
  line : Nat
  held : Bool
  hcore : Nat := 0
  hctx : Nat := 0
  queue : List (Nat × Nat × Nat × Nat) := []
  /-- TAIL, and behind it the predecessors that each waiter was told of (17 R342) -/
  tail : List (Nat × Nat × Nat × Nat) := []
  poison : Bool := false
  deriving DecidableEq, Repr

/-- States of a page at its old home (19 R368). -/
inductive PageSt where
  | eft | eftHold | handover | tail | stale
  deriving DecidableEq, Repr

/-- A page in migration, a tail or a stale mark (19 R367 to R375). Frames are PA / 1024. -/
structure Page where
  frame : Nat
  new : Nat
  big : Bool
  st : PageSt
  pass : Nat := 0
  /-- 1 KiB blocks still to copy, and blocks written since -/
  todo : List Nat := []
  marked : List Nat := []
  life : Nat := 0
  since : Nat := 0
  lastFwd : Nat := 0
  /-- requesting packages, with the cycle of the last forward for each -/
  requesters : FMap Nat := []
  acked : List Nat := []
  purging : Bool := false
  core : Nat := 0
  ctx : Nat := 0
  rd : Nat := 0
  /-- the mode that issued it: M mode takes no window check (14 R301) -/
  mode : Mode := .s
  orphan : Bool := false
  installed : Bool := false
  /-- accesses that wait at the home, as request and part, in the order of their arrival (19 R368, R370) -/
  waiters : List (Nat × Nat) := []
  /-- accesses and lock requests that the migration follows (16 R317) -/
  after : List Nat := []
  deriving DecidableEq, Repr

/-- An owner-cache entry of a cluster (19 R372). -/
structure Owner where
  cluster : Nat
  old : Nat
  new : Nat
  big : Bool
  deriving DecidableEq, Repr

/-- A barrier counter with its domain (04 R97, 11 R243). -/
structure Dom where
  id : Nat
  launch : Nat
  parent : Option Nat := none
  /-- member cores in rank order -/
  members : List Nat
  ph : BitVec 32 := 0
  e : Nat
  a : Nat := 0
  drops : Nat := 0
  pend : Option Nat := none
  /-- cores whose arrival is counted in the current phase -/
  counted : List Nat := []
  broken : Bool := false
  /-- an exchange phase is open: cycle of slot 0, entries in flight -/
  t0 : Option Nat := none
  slot : Nat := 0
  deriving DecidableEq, Repr

/-- The fault that a completion record names (01 R16). -/
structure RecFault where
  code : Nat
  addr : Word := 0
  pc : Word := 0
  core : BitVec 32 := BitVec.allOnes 32
  ctx : BitVec 32 := BitVec.allOnes 32
  deriving DecidableEq, Repr

/-- A launch (11 R234 to R242). -/
structure Launch where
  id : Nat
  pkg : Nat
  part : Nat
  tenant : Nat
  queue : Nat
  entry : Word
  args : Word
  cores : Nat
  parcels : Nat
  spm : Nat
  hstack : Nat
  prio : Nat
  mtx : Bool
  policy : Word
  record : Nat
  tag : Word
  slotsPa : Nat
  regions : Nat
  submit : Nat := 0
  seq : Nat := 0
  started : Bool := false
  /-- core of each rank, in rank order -/
  place : List Nat := []
  reserved : List Nat := []
  /-- ranks that have not started yet -/
  unstarted : List Nat := []
  retired : List Nat := []
  done : Nat := 0
  failed : Option RecFault := none
  finished : Bool := false
  period : Nat := 0
  /-- (slot, sender rank, receiver rank) -/
  slots : List (Nat × Nat × Nat) := []
  dom : Nat := 0
  deriving DecidableEq, Repr

/-- Scheduling events (11 R237). -/
inductive Sched where
  | submit (launch : Nat)
  | retire (core launch : Nat)
  | saved (core : Nat) (ok : Bool)
  | ctl (core : Nat) (saveV nopre : Bool)
  deriving DecidableEq, Repr

/-- One core's row of the occupancy map (11 R238). -/
structure Occ where
  occ : Option (Nat × Nat) := none
  /-- the rank saved last, and those saved before it, the latest first (log entry 47) -/
  saved : Option (Nat × Nat) := none
  below : List (Nat × Nat) := []
  reserved : Option Nat := none
  saveV : Bool := false
  nopre : Bool := false
  qcont : Word := 0
  absent : Bool := false
  deriving DecidableEq, Repr

/-- A row of the partition table (20 R389). -/
structure Partn where
  tenant : Nat
  quads : BitVec 128
  windows : List Word
  /-- the 24 bits of each cluster of the package -/
  l2mask : List (BitVec 24)
  llcWays : Nat
  bwHbm : Nat
  bwDdr : Nat
  deriving DecidableEq, Repr

/-- An event entry (20 R391). -/
structure EventRec where
  pkg : Nat
  tenant : Nat
  type : Nat
  code : Nat := 0
  part : Nat := 0
  time : Nat := 0
  addr : Word := 0
  core : BitVec 32 := BitVec.allOnes 32
  ctx : BitVec 32 := BitVec.allOnes 32
  value : Word := 0
  value2 : Word := 0
  seq : BitVec 32 := 0
  lost : BitVec 32 := 0
  deriving DecidableEq, Repr

/-- An event ring (20 R391). -/
structure Ring where
  log2n : Nat
  window : Nat
  offset : Nat
  written : Nat := 0
  read : Nat := 0
  lost : Nat := 0
  deriving DecidableEq, Repr

/-- A request of the memory endpoint that is accepted and not yet performed (20 R384): SEQ, REQID, address, length, and the
data of a write. -/
structure HostReq where
  seq : Nat
  reqId : Nat
  pa : Nat
  len : Nat
  data : Option (List Byte) := none
  deriving DecidableEq, Repr

/-- A reply of the device, kept for retransmission (20 R383, R386): the SEQ of the request it answers, its own SEQ, REQID,
STATUS, body, and the cycle in which it was sent last. -/
structure HostReply where
  asked : Nat
  seq : Nat
  reqId : Nat
  status : Nat
  body : List Byte := []
  sentAt : Nat := 0
  deriving DecidableEq, Repr

/-- A tenant's transport session (20 R383, R386). -/
structure Session where
  known : Bool := false
  h2d : BitVec 256 := 0
  d2h : BitVec 256 := 0
  highest : Nat := 0
  seen : List Nat := []
  sent : Nat := 0
  replies : List HostReply := []
  /-- accepted requests of the memory endpoint, by SEQ -/
  pend : List HostReq := []
  deriving DecidableEq, Repr

/-- A host window (20 R387). -/
structure HostWin where
  pkg : Nat
  tenant : Nat
  window : Nat
  wr : Bool
  base : Nat
  size : Nat
  deriving DecidableEq, Repr

/-- A message from the device to the host that awaits its reply (20 R386): type 0x10 HRD, 0x11 HWR, 0x12 HATOMIC. -/
structure HostMsg where
  id : Nat
  pkg : Nat
  tenant : Nat
  type : Nat
  window : Nat
  offset : Nat
  len : Nat
  data : List Byte := []
  cmp : List Byte := []
  op : Nat := 0
  /-- the request and part that the reply completes -/
  req : Option (Nat × Nat) := none
  /-- the engine command that the reply completes: core and command -/
  cmd : Option (Nat × Nat) := none
  /-- the context whose wait the reply retests -/
  watch : Option (Nat × Nat) := none
  /-- the table that the device reads -/
  table : Option Nat := none
  /-- writes to the same window that leave once this one is acknowledged: offset and data (01 R17, 20 R391) -/
  follow : List (Nat × List Byte) := []
  /-- SEQ of the message, and the cycle in which it was sent last (20 R383) -/
  seq : Nat
  sentAt : Nat := 0
  deriving DecidableEq, Repr

/-- What the device reads the tables of launches for (11 R235, R241): the check of a packet, the regions of a rank, the slots of
a launch's first rank. -/
inductive TableUse where
  | check (queue msgSeq reqId : Nat) (packet : BitVec 1024)
  | regions (core launch : Nat)
  | slots (launch : Nat)
  deriving DecidableEq, Repr

/-- A launch packet whose checks are not done, or a table in a host window that the device reads by HRD messages (20 R387; log
entry 76): its address and the bytes that have come; a refused read leaves the rest unread. -/
structure HostTable where
  id : Nat
  pkg : Nat
  tenant : Nat
  use : TableUse
  pa : Nat
  got : List Byte := []
  asked : Bool := false
  refused : Bool := false
  deriving DecidableEq, Repr

/-- One direction pair of a Triern Link, or of a UCIe module (19 R356 to R359, 20 R382). ACKSEQ, the SEQ of the last cell
that came in order, is 0 at reset (19 R356), so the first cell is number 1 (log entry 90). -/
structure Link where
  up : Bool := true
  txSeq : Nat := 1
  acked : Nat := 0
  /-- cells not acknowledged, as (SEQ, VC, DPKG), and how many of them are sent: fewer after a NAK -/
  unacked : List (Nat × Nat × Nat) := []
  pos : Nat := 0
  rxNext : Nat := 1
  /-- receive buffers in use, per virtual channel (19 R358) -/
  bufs : List Nat := [0, 0, 0, 0]
  /-- cells discarded and logged because they were for another package (19 R362) -/
  strays : List (Nat × Nat × Nat) := []
  credits : List Nat := [128, 128, 128, 128]
  naks : Nat := 0
  nakSeq : Nat := 0
  nakOut : Bool := false
  lastGood : Nat := 0
  deriving DecidableEq, Repr

/-- A voltage and frequency island (20 R395). -/
structure Island where
  mhz : Nat := 1900
  floorSince : Option Nat := none
  throttled : Bool := false
  gated : Bool := false
  /-- the power manager has given notice, and the home slices that have acknowledged it; of a gated island these mark its
  agents as sleeping (17 R332) -/
  notice : Bool := false
  acked : List Nat := []
  /-- cycles that the island has fallen behind the package time base, times 1,900 (20 R396) -/
  lag : Nat := 0
  deriving DecidableEq, Repr

/-- Bring-up of a package (20 R392, R393). -/
structure Boot where
  stage : Nat := 6
  stopped : Bool := false
  withheld : BitVec 23 := 0
  /-- sockets without a die (20 R394), and DDR-5 channels that failed to train (20 R392, R393) -/
  absent : BitVec 23 := 0
  channels : BitVec 12 := 0
  degrade : BitVec 4 := 0
  strap : Nat := 0
  /-- order in which islands were lowered, last first -/
  lowered : List Nat := []
  deriving DecidableEq, Repr

/-- The matrix arbiter of an octet (11 R244). -/
structure Arb where
  ptr : Nat := 0
  credit : List Nat := [1, 1, 1, 1, 1, 1, 1, 1]
  deriving DecidableEq, Repr

/-- The whole machine: a pod of packages. -/
structure State where
  /-- THE MODEL'S OWN: core and context whose instruction runs, environment events to come, the counter of free
  values and of identifiers (log entry 1) -/
  turn : Nat := 0
  cur : Nat := 0
  agenda : List Sys2Proof.Instr := []
  fresh : Nat := 0
  nextId : Nat := 0
  /-- package time base in cycles (05 R136) -/
  cycle : Nat := 0
  /-- numbers of the packages of the pod (14 R287) -/
  pkgs : List Nat := [0]
  /-- cores by package * 4096 + logical core -/
  cores : FMap Core := []
  /-- main memory of every package by global physical address (00 R9, 14 R287) -/
  mem : List Host.Cell := []
  reqs : List Req := []
  msgs : List Msg := []
  dir : FMap DirLine := []
  /-- CV of a tile (17 R327) -/
  dirCv : FMap (BitVec 16) := []
  /-- L2 line states by line * 16 + cluster -/
  l2 : FMap LineSt := []
  /-- L2 way of each line that a cluster holds, by line * 16 + cluster (14 R283, R285) -/
  l2way : FMap Nat := []
  part : FMap Partial := []
  /-- tiles whose overlay has OVR set (17 R335) -/
  ovr : List Nat := []
  l2tlb : FMap (List TlbEntry) := []
  locks : List Lock := []
  pages : List Page := []
  owners : List Owner := []
  poison : List Nat := []
  /-- probes that have timed out once, as line * 16 + cluster (17 R332) -/
  probeMiss : List Nat := []
  /-- lost home slices as package * 16 + slice -/
  lostHomes : List Nat := []
  doms : List Dom := []
  arb : FMap Arb := []
  copyLast : FMap Nat := []
  gatherLast : FMap Nat := []
  launches : List Launch := []
  seq : FMap Nat := []
  events : FMap (List Sched) := []
  occ : FMap Occ := []
  parts : FMap Partn := []
  hwins : List HostWin := []
  rings : FMap Ring := []
  evlog : List EventRec := []
  sessions : FMap Session := []
  hostq : List HostMsg := []
  /-- launch packets in their checks and tables in host windows that are being read (11 R235, R241) -/
  tables : List HostTable := []
  /-- links by package * 64 + link: Triern Links 0 to 23 (19 R356 to R359) and, at 24 + socket, the UCIe module of each die
  (20 R382) -/
  links : FMap Link := []
  lostPkgs : List Nat := []
  /-- clusters whose spare column is in use (00 R5, 12 R273) -/
  spares : List Nat := []
  islands : FMap Island := []
  boots : FMap Boot := []
  deriving DecidableEq, Repr

/-- Why a run stops. -/
inductive Fault where
  /-- Raised by `step` alone: the package of the turn has stopped its boot (20 R392 step 2, R393); nothing runs
  until power-on. Safe: the model stops where the package stops. -/
  | packageStopped
  deriving DecidableEq, Repr

/-- Why an instruction has no meaning here. -/
inductive Refusal where
  /-- An arm of exec that has no meaning yet. Safe. -/
  | notModelled (mnemonic : String)
  deriving DecidableEq, Repr

/-- A core after a core reset (02 R28): context 0 live in M mode at the firmware entry (log entry 2). -/
def Core.reset : Core := { ctxs := [(0, { mode := .m, st := .live })] }

/-- The machine right after reset: every core of package 0 as R28 leaves it. -/
def State.reset : State := {}

end Sys2Proof.Machine
end

