-- ==== Sys2Proof/Machine/Map.lean ====
section
/-! DEFINITION. Finite maps and byte memories: reading, writing, the canonical form, byte order (00 R9). -/
namespace Sys2Proof.Machine

/-- Put an element into a sorted list, before the elements that it may precede. -/
def insertBy {α : Type} (le : α → α → Bool) (x : α) : List α → List α
  | [] => [x]
  | y :: ys => if le x y then x :: y :: ys else y :: insertBy le x ys

/-- Sort a list; elements that an order does not tell apart keep their places. -/
def sortBy {α : Type} (le : α → α → Bool) : List α → List α
  | [] => []
  | x :: xs => insertBy le x (sortBy le xs)

/-- The value at a key, or the default. -/
def fget {β : Type} (d : β) : FMap β → Nat → β
  | [], _ => d
  | (a, b) :: m, k => if a = k then b else fget d m k

/-- Whether a key is listed. -/
def fhas {β : Type} : FMap β → Nat → Bool
  | [], _ => false
  | (a, _) :: m, k => a == k || fhas m k

/-- The entries with keys below k, and above k. -/
def below {β : Type} (k : Nat) (m : FMap β) : FMap β := m.filter fun e => decide (e.1 < k)
def above {β : Type} (k : Nat) (m : FMap β) : FMap β := m.filter fun e => decide (k < e.1)

/-- List a value at a key. -/
def fset {β : Type} (m : FMap β) (k : Nat) (v : β) : FMap β := below k m ++ (k, v) :: above k m

/-- Unlist a key. -/
def fdel {β : Type} (m : FMap β) (k : Nat) : FMap β := m.filter fun e => decide (e.1 ≠ k)

/-- Put a value at a key of a map in canonical form: the default is not listed. -/
def fput {β : Type} [DecidableEq β] (d : β) (m : FMap β) (k : Nat) (v : β) : FMap β :=
  below k m ++ (if v = d then [] else [(k, v)]) ++ above k m

/-- A byte of a memory; an unlisted address reads 0 (log entry 4). -/
def byteAt (m : List Host.Cell) (a : Nat) : Byte := fget 0 m a

/-- The listed cells of consecutive bytes from an address: bytes equal to 0 are not listed. -/
def cellsOf : Nat → List Byte → List Host.Cell
  | _, [] => []
  | a, b :: bs => if b = 0 then cellsOf (a + 1) bs else (a, b) :: cellsOf (a + 1) bs

/-- Write consecutive bytes from an address. -/
def putBytes (m : List Host.Cell) (a : Nat) (bs : List Byte) : List Host.Cell :=
  if bs.length = 0 then m
  else below a m ++ cellsOf a bs ++ above (a + bs.length - 1) m

/-- n bytes from an address, the lowest first. -/
def getBytes (m : List Host.Cell) : Nat → Nat → List Byte
  | _, 0 => []
  | a, n + 1 => byteAt m a :: getBytes m (a + 1) n

/-- The little-endian value of bytes (00 R9). -/
def leNat : List Byte → Nat
  | [] => 0
  | b :: bs => b.toNat + 256 * leNat bs

/-- The n bytes of a value, little-endian (00 R9). -/
def leBytes : Nat → Nat → List Byte
  | 0, _ => []
  | n + 1, v => BitVec.ofNat 8 (v % 256) :: leBytes n (v / 256)

/-- The little-endian value of n bytes at an address. -/
def readLE (m : List Host.Cell) (a n : Nat) : Nat := leNat (getBytes m a n)

/-- Write the n bytes of a value. -/
def writeLE (m : List Host.Cell) (a n v : Nat) : List Host.Cell := putBytes m a (leBytes n v)

/-- Keys strictly rising from a bound. -/
def risingFrom {β : Type} : Nat → FMap β → Bool
  | _, [] => true
  | lo, (a, _) :: m => decide (lo ≤ a) && risingFrom (a + 1) m

/-- The canonical form of a memory: addresses strictly rising, and no listed byte is what an unlisted one reads. -/
def Memory.wf (m : List Host.Cell) : Bool := risingFrom 0 m && m.all fun e => e.2 != 0

end Sys2Proof.Machine
end

