-- ==== Sys2Proof/Machine/Ops.lean ====
section
/-! DEFINITION. Named operations over cores, contexts and registers; parking and retiring; taking an exception, the
return from one, upcalls and the abort of a transaction; events of the tenant's queue. -/
namespace Sys2Proof.Machine

/-- What an instruction or event answers. -/
abbrev Out := Host.Outcome State Fault Refusal

/-! ### bits -/

/-- Set or clear one bit. -/
def putBit {w : Nat} (m : BitVec w) (i : Nat) (b : Bool) : BitVec w :=
  if b then m ||| BitVec.ofNat w (2 ^ i) else m &&& ~~~(BitVec.ofNat w (2 ^ i))

/-- Bits hi down to lo of a word as a number. -/
def bitsOf (w : Word) (hi lo : Nat) : Nat := (w.toNat / 2 ^ lo) % 2 ^ (hi + 1 - lo)

/-- Replace bits lo + n - 1 down to lo by the number v. -/
def putBits (w : Word) (lo n v : Nat) : Word :=
  BitVec.ofNat 64 ((w.toNat / 2 ^ (lo + n)) * 2 ^ (lo + n) + (v % 2 ^ n) * 2 ^ lo + w.toNat % 2 ^ lo)

/-- A number of w bits as a signed integer. -/
def signedOf (w v : Nat) : Int := if v % 2 ^ w < 2 ^ (w - 1) then (v % 2 ^ w : Int) else (v % 2 ^ w : Int) - (2 ^ w : Int)

/-- The low w bits of an integer. -/
def wrapTo (w : Nat) (i : Int) : Nat := (i % (2 ^ w : Int)).toNat

/-- A 64-bit word from an integer, modulo 2^64. -/
def wordOf (i : Int) : Word := BitVec.ofInt 64 i

/-- A number of n bytes sign-extended to a word (00 R12). -/
def signExtendBytes (n v : Nat) : Word := wordOf (signedOf (8 * n) v)

/-! ### cores and contexts -/

def pkgOf (k : Nat) : Nat := k / 4096
def lidOf (k : Nat) : Nat := k % 4096
/-- Cluster of a core, in the pod and in its package (00 R4). -/
def clusterOf (k : Nat) : Nat := k / 256
def clusterIn (k : Nat) : Nat := k / 256 % 16
def octetOf (k : Nat) : Nat := k / 8
def dieOf (k : Nat) : Nat := k / 1024

/-- The core with key package * 4096 + logical core; an unlisted core is as reset leaves it. -/
def getCore (s : State) (k : Nat) : Core := fget Core.reset s.cores k
def setCore (s : State) (k : Nat) (c : Core) : State := { s with cores := fset s.cores k c }
def modCore (s : State) (k : Nat) (f : Core → Core) : State := setCore s k (f (getCore s k))

/-- Context n of a core; an unlisted context is free. -/
def Core.ctx (c : Core) (n : Nat) : Context := fget {} c.ctxs n
def Core.setCtx (c : Core) (n : Nat) (x : Context) : Core := { c with ctxs := fset c.ctxs n x }

/-- The ranks that a core holds saved, the latest first. -/
def savedRanks (c : Core) : List SavedRank := c.saved.toList ++ c.below

/-- The saved rank of a core whose contexts carry the number n. -/
def rankSaved (c : Core) (n : Nat) : Option SavedRank := (savedRanks c).find? fun r => r.num == n / 16

/-- Change the saved rank of a core whose contexts carry the number n. -/
def Core.modSaved (c : Core) (n : Nat) (f : SavedRank → SavedRank) : Core :=
  let g := fun (r : SavedRank) => if r.num = n / 16 then f r else r
  { c with saved := c.saved.map g, below := c.below.map g }

/-- A rank is saved after those that the core holds; the rank with the number num is gone. -/
def Core.pushSaved (c : Core) (r : SavedRank) : Core := { c with saved := some r, below := savedRanks c }
def Core.dropSaved (c : Core) (num : Nat) : Core :=
  let rest := (savedRanks c).filter fun r => r.num != num
  { c with saved := rest.head?, below := rest.tail }

/-- The numbers of the contexts of a saved rank. -/
def savedCtxs (num : Nat) : List Nat := (List.range 11).map (16 * num + ·)

/-- A number that no saved rank of the core has. -/
def freshNum (c : Core) : Nat := ((savedRanks c).map (·.num)).foldl max 0 + 1

def getCtx (s : State) (k n : Nat) : Context := (getCore s k).ctx n
def setCtx (s : State) (k n : Nat) (x : Context) : State := setCore s k ((getCore s k).setCtx n x)
def modCtx (s : State) (k n : Nat) (f : Context → Context) : State := setCtx s k n (f (getCtx s k n))

/-- The executing core and context. -/
def myCore (s : State) : Core := getCore s s.turn
def me (s : State) : Context := getCtx s s.turn s.cur
def setMe (s : State) (x : Context) : State := setCtx s s.turn s.cur x
def modMe (s : State) (f : Context → Context) : State := setMe s (f (me s))
def modMyCore (s : State) (f : Core → Core) : State := modCore s s.turn f

/-! ### registers (02 R23, R24; 00 R12) -/

def readX (g : Regs) (r : Nat) : Word := if r = 0 then 0 else fget 0 g.x r
/-- Write x[r] and set its presence; a write of x0 has no effect (00 R12). -/
def writeX (g : Regs) (r : Nat) (v : Word) : Regs :=
  if r = 0 then g else { g with x := fset g.x r v, xpres := putBit g.xpres r true }
/-- Issue of an asynchronous writer: empty and pending; x0 stays present (02 R24). -/
def emptyX (g : Regs) (r : Nat) : Regs :=
  if r = 0 then g else { g with xpres := putBit g.xpres r false, xpend := putBit g.xpend r true }
/-- A reply: written, present, no longer pending (02 R24). -/
def replyX (g : Regs) (r : Nat) (v : Word) : Regs :=
  if r = 0 then g
  else { g with x := fset g.x r v, xpres := putBit g.xpres r true, xpend := putBit g.xpend r false }
/-- A failed request: empty, no longer pending (12 R257). -/
def failX (g : Regs) (r : Nat) : Regs := if r = 0 then g else { g with xpend := putBit g.xpend r false }

def readF (g : Regs) (r : Nat) : BitVec 32 := fget 0 g.f r
def writeF (g : Regs) (r : Nat) (v : BitVec 32) : Regs := { g with f := fset g.f r v }
def readV (g : Regs) (r : Nat) : VWord := fget 0 g.v r
/-- The reuse latch after a write of v[r], which clears it where it keeps that register (06 R178). -/
def latchAfter (g : Regs) (r : Nat) : Option Nat := if g.latch = some r then none else g.latch
/-- Write v[r] and set its presence (00 R12, 06 R158). -/
def writeV (g : Regs) (r : Nat) (v : VWord) : Regs :=
  { g with v := fset g.v r v, vpres := putBit g.vpres r true, latch := latchAfter g r }
def emptyV (g : Regs) (r : Nat) : Regs :=
  { g with vpres := putBit g.vpres r false, vpend := putBit g.vpend r true }
def replyV (g : Regs) (r : Nat) (v : VWord) : Regs :=
  { g with v := fset g.v r v, vpres := putBit g.vpres r true, vpend := putBit g.vpend r false, latch := latchAfter g r }
def failV (g : Regs) (r : Nat) : Regs := { g with vpend := putBit g.vpend r false }
def readK (g : Regs) (r : Nat) : Word := fget 0 g.k r
def writeK (g : Regs) (r : Nat) (v : Word) : Regs := { g with k := fset g.k r v }

def modRegs (s : State) (f : Regs → Regs) : State := modMe s fun c => { c with regs := f c.regs }
def regs (s : State) : Regs := (me s).regs

/-- x[r] of the executing context. -/
def xr (s : State) (r : BitVec 5) : Word := readX (regs s) r.toNat
def xn (s : State) (r : BitVec 5) : Nat := (xr s r).toNat

/-! ### completing an instruction -/

/-- The instruction is done: the PC goes to the next word and the context stays ready. -/
def retire (s : State) : State :=
  modMe s fun c => { c with st := .live, regs := { c.regs with pc := c.regs.pc + 4 } }

/-- Write rd in the cycle of issue and retire. -/
def retireX (s : State) (rd : BitVec 5) (v : Word) : State := retire (modRegs s fun g => writeX g rd.toNat v)

/-- Jump: the PC goes to the target. -/
def jumpTo (s : State) (target : Word) : State :=
  modMe s fun c => { c with st := .live, regs := { c.regs with pc := target } }

/-- The instruction has no effect and its context is not ready until the conditions hold (02 R20, R25). -/
def park (s : State) (cs : List Cond) : State := modMe s fun c => { c with st := .parked cs }

/-- The context waits for an event, its PC still at the instruction (02 R22). -/
def await (s : State) (w : Wait) : State := modMe s fun c => { c with st := .waiting w }

/-- Unique identifiers. -/
def freshId (s : State) : Nat × State := (s.nextId, { s with nextId := s.nextId + 1 })
/-- A fresh free value (log entry 6). -/
def freshValue (s : State) : Word × State := (Config.freeValue s.fresh, { s with fresh := s.fresh + 1 })

def send (s : State) (core ctx : Nat) (kind : MsgKind) : State :=
  { s with msgs := s.msgs ++ [{ id := s.nextId, core := core, ctx := ctx, kind := kind }], nextId := s.nextId + 1 }

/-! ### events of the tenant's queue (20 R391) -/

def tenantOf (c : Core) : Nat := bitsOf c.qtenant 15 0
def partOf (c : Core) : Nat := bitsOf c.qtenant 22 16
def ringKey (pkg tenant : Nat) : Nat := pkg * 65536 + tenant

/-- The 64 bytes of an event entry. -/
def eventBytes (e : EventRec) : List Byte :=
  leBytes 2 e.type ++ leBytes 2 e.code ++ leBytes 4 e.part ++ leBytes 8 e.time ++ leBytes 8 e.addr.toNat ++
  leBytes 4 e.core.toNat ++ leBytes 4 e.ctx.toNat ++ leBytes 8 e.value.toNat ++ leBytes 8 e.value2.toNat ++
  leBytes 4 e.seq.toNat ++ leBytes 4 e.lost.toNat ++ leBytes 8 0

/-- The next SEQ of a tenant's messages from the device (20 R386). -/
def nextSeq (s : State) (pkg tenant : Nat) : Nat × State :=
  let key := ringKey pkg tenant
  let x := fget {} s.sessions key
  (x.sent + 1, { s with sessions := fset s.sessions key { x with sent := x.sent + 1 } })

/-- A message from the device to the host (20 R386). -/
def toHost (s : State) (m : HostMsg) : State :=
  let r := nextSeq s m.pkg m.tenant
  let m := { m with id := s.nextId, seq := r.1, sentAt := s.cycle }
  { r.2 with hostq := s.hostq ++ [m], nextId := s.nextId + 1 }

/-- Post an event: bytes 0x00 to 0x2F and 0x34 to 0x3F, then SEQ, which as a release at host scope leaves once the host has
acknowledged them (16 R326, 20 R387); a full ring drops and counts it (20 R391). Without a ring the event is numbered and kept
in the device's log. -/
def post (s : State) (e : EventRec) : State :=
  let key := ringKey e.pkg e.tenant
  let r := fget { log2n := 0, window := 64, offset := 0 } s.rings key
  if fhas s.rings key && decide (2 ^ r.log2n ≤ r.written - r.read) then
    { s with rings := fset s.rings key { r with lost := r.lost + 1 } }
  else
    let n := (s.evlog.filter fun o => o.pkg == e.pkg && o.tenant == e.tenant).length + 1
    let e := { e with seq := BitVec.ofNat 32 n, time := s.cycle, lost := BitVec.ofNat 32 r.lost }
    let s := { s with evlog := s.evlog ++ [e] }
    if fhas s.rings key then
      let off := r.offset + 64 * (r.written % 2 ^ r.log2n)
      let b := eventBytes e
      let m : HostMsg :=
        { id := 0, pkg := e.pkg, tenant := e.tenant, type := 0x11, window := r.window, offset := off, len := 48, data := b.take 48,
          follow := [(off + 52, b.drop 52), (off + 48, (b.drop 48).take 4)], seq := 0 }
      let s := toHost s m
      { s with rings := fset s.rings key { r with written := r.written + 1, lost := 0 } }
    else s

/-- An agent that is no context: an event of it names none (20 R391). -/
def agentCtx : Nat := 2 ^ 32 - 1

/-- The number of a context in an event: that of a context of a saved rank is its own (14 R303). -/
def eventCtx (n : Nat) : Nat := if n = agentCtx then n else n % 16

/-- An event of package p that names a core and context. -/
def postAt (s : State) (p k n type code : Nat) (addr value value2 : Word) : State :=
  let c := getCore s k
  post s { pkg := p, tenant := tenantOf c, type := type, code := code, part := partOf c, addr := addr,
           core := BitVec.ofNat 32 (lidOf k), ctx := BitVec.ofNat 32 (eventCtx n), value := value, value2 := value2 }

def postFor (s : State) (k n type code : Nat) (addr value value2 : Word) : State := postAt s (pkgOf k) k n type code addr value value2

/-! ### the copies and reductions of an abort; locks -/

/-- Abort causes (05 R141). -/
def Abort.conflict : Nat := 1
def Abort.capacity : Nat := 2
def Abort.locked : Nat := 3
def Abort.xpkg : Nat := 4
def Abort.explicit : Nat := 5
def Abort.nest : Nat := 6
def Abort.disabled : Nat := 7
def Abort.fault : Nat := 8
def Abort.preempt : Nat := 9
def Abort.unsupp : Nat := 10
def Abort.nontx : Nat := 11
def Abort.iospace : Nat := 12

/-- RETRY is 1 for CONFLICT, NONTX, CAPACITY and PREEMPT (05 R140). -/
def abortRetry (cause : Nat) : Bool := cause == 1 || cause == 11 || cause == 2 || cause == 9

/-- The cause word of an abort (05 R140). -/
def causeWord (cause depth user : Nat) : Word :=
  BitVec.ofNat 64 (user % 256 * 2 ^ 16 + depth % 256 * 2 ^ 8 + (if abortRetry cause then 128 else 0) + cause)

/-- A part in a scratchpad, the own one or another's window. -/
def partInSpm (p : Part) : Bool := p.own || p.pa / 2 ^ 44 % 16 == 2

/-- What an abort leaves of a request of the transaction: writes to scratchpads are not undone (05 R137), all else is
discarded with its reply (05 R140). -/
def afterAbort (k n : Nat) (r : Req) : Option Req :=
  if r.core == k && r.ctx == n && r.tx then
    let kept := r.parts.filter fun p => partInSpm p && !p.done
    if r.kind != .load && !kept.isEmpty then some { r with tx := false, dst := .none, parts := kept } else none
  else some r

/-- The vector-queue entries of an aborted transaction do nothing any more (05 R140). -/
def vqAfterAbort (reqs : List Req) (n : Nat) (e : VqEntry) : VqEntry :=
  if e.ctx == n then
    match e.work with
    | .fillX _ _ => { e with orphan := true }
    | .memory id => { e with orphan := e.orphan || !reqs.any fun r => r.id == id }
    | .done => e
  else e

/-- The speculative lines of a context leave the L1 (05 R140). -/
def dropSpec (n : Nat) (ls : List L1Line) : List L1Line := ls.filter fun l => !l.spec.contains n

/-- What an abort records: the first cause to reach the core, which a waiting message is (17 R337). -/
def firstCause (c : Context) (cause user : Nat) (addr : Word) : Nat × Nat × Word :=
  match c.abortMsg with
  | some m => (m.1, 0, m.2)
  | none => (cause, user, addr)

/-- Abort the transaction of a context (05 R140): its sets, speculative bytes and held copies are discarded, replies
still due are discarded, the checkpoint is restored and rd of the outermost tx.beg receives the cause word. The age
stays. Without a transaction nothing happens. -/
def abortCtx (s : State) (k n cause user : Nat) (addr : Word) : State :=
  let c := getCtx s k n
  match c.tx with
  | none => s
  | some t =>
    let first := firstCause c cause user addr
    let reqs := s.reqs.filterMap (afterAbort k n)
    let s := modCore { s with reqs := reqs } k fun co => { co with
      l1 := dropSpec n co.l1, vq := co.vq.map (vqAfterAbort reqs n) }
    modCtx s k n fun c => { c with
      tx := none, st := .live, abortMsg := none,
      abortCause := BitVec.ofNat 7 first.1, abortAddr := first.2.2,
      regs := { writeX t.saved t.rd (causeWord first.1 t.depth first.2.1) with latch := none } }

/-- Abort of the executing context. -/
def abortMe (s : State) (cause user : Nat) (addr : Word) : State := abortCtx s s.turn s.cur cause user addr

def inTx (s : State) : Bool := (me s).tx.isSome

/-! ### exceptions (02 R29, R30; 12 R253, R254) -/

/-- Standard causes and Quistad causes (12 R255). -/
def Cause.pcMisaligned : Nat := 0
def Cause.fetchAccess : Nat := 1
def Cause.illegal : Nat := 2
def Cause.breakpoint : Nat := 3
def Cause.loadMisaligned : Nat := 4
def Cause.loadAccess : Nat := 5
def Cause.storeMisaligned : Nat := 6
def Cause.storeAccess : Nat := 7
def Cause.ecallU : Nat := 8
def Cause.ecallS : Nat := 9
def Cause.ecallM : Nat := 11
def Cause.fetchPage : Nat := 12
def Cause.loadPage : Nat := 13
def Cause.storePage : Nat := 15
def Cause.badctx : Nat := 0x100
def Cause.hendbusy : Nat := 0x101
def Cause.nputrange : Nat := 0x102
def Cause.nputlost : Nat := 0x103
def Cause.barrepeat : Nat := 0x104
def Cause.bardropped : Nat := 0x105
def Cause.barcount : Nat := 0x106
def Cause.barbroken : Nat := 0x107
def Cause.domarg : Nat := 0x108
def Cause.domdepth : Nat := 0x109
def Cause.dombusy : Nat := 0x10A
def Cause.xphase : Nat := 0x10B
def Cause.xarea : Nat := 0x10C
def Cause.xslot : Nat := 0x10D
def Cause.xrxovf : Nat := 0x10E
def Cause.swfault : Nat := 0x10F
def Cause.misalignedAtomic : Nat := 0x110
def Cause.lkstate : Nat := 0x111
def Cause.txstate : Nat := 0x112
def Cause.cparg : Nat := 0x113
def Cause.gtharg : Nat := 0x114
def Cause.mxarg : Nat := 0x115
def Cause.mxdenied : Nat := 0x116
def Cause.engfault : Nat := 0x120
def Cause.asyncorphan : Nat := 0x121
def Cause.faultdone : Nat := 0x122
def Cause.accesserr : Nat := 0x130
def Cause.homelost : Nat := 0x131
def Cause.watchdog : Nat := 0x132
def Cause.quarantine : Nat := 0x133
def Cause.savefault : Nat := 0x134
def Cause.quiesce : Nat := 0x135

/-- Token statuses (12 R256). -/
def Status.prevdied : Int := 1
def Status.timeout : Int := -1
def Status.busy : Int := -2
def Status.skipped : Int := -3
def Status.deadlock : Int := -4
def Status.homelost : Int := -5
def Status.cancelled : Int := -6
def Status.engfault : Int := -7
def Status.accesserr : Int := -8
def Status.ctxbusy : Int := -9
def Status.domfull : Int := -10
def Status.qe8token : Int := -11
def Status.qe8overrun : Int := -12
def Status.grparg : Int := -13
def Status.pairfail : Int := -14
def Status.paircancel : Int := -15
def Status.pairtimeout : Int := -16
def Status.migarg : Int := -17
def Status.migbusy : Int := -18
def Status.migchain : Int := -19
def Status.migstale : Int := -20
/-- A token that reports a trap cause (12 R256). -/
def Status.ofCause (c : Nat) : Int := -(0x1000 + (c : Int))

def Mode.code : Mode → Nat
  | .u => 0
  | .s => 1
  | .m => 3

def Mode.ofCode (n : Nat) : Mode := if n = 0 then .u else if n = 1 then .s else .m

/-- Entry of S mode: sepc, scause, stval; SPIE from SIE, SIE cleared, SPP the mode left (02 R29, the standard). -/
def enterS (co : Core) (c : Context) (interrupt : Bool) (code : Nat) (tval : Word) : Context :=
  let st := putBit (putBit (putBit c.mstatus 5 (c.mstatus.getLsbD 1)) 1 false) 8 (c.mode == .s)
  let base := BitVec.ofNat 64 (co.stvec.toNat / 4 * 4)
  let pc := if interrupt && co.stvec.getLsbD 0 then base + BitVec.ofNat 64 (4 * code) else base
  { c with sepc := c.regs.pc, scause := putBit (BitVec.ofNat 64 code) 63 interrupt, stval := tval, mstatus := st,
           mode := .s, st := .live, regs := { c.regs with pc := pc } }

/-- Entry of M mode: mepc, mcause, mtval; MPIE from MIE, MIE cleared, MPP the mode left. -/
def enterM (co : Core) (c : Context) (code : Nat) (tval : Word) : Context :=
  let st := putBits (putBit (putBit c.mstatus 7 (c.mstatus.getLsbD 3)) 3 false) 11 2 c.mode.code
  { c with mepc := c.regs.pc, mcause := BitVec.ofNat 64 code, mtval := tval, mstatus := st,
           mode := .m, st := .live,
           regs := { c.regs with pc := BitVec.ofNat 64 (co.mtvec.toNat / 4 * 4) } }

/-- Take an exception on a context outside a transaction: from U mode to S mode, from S or M mode to M mode
(02 R30, 12 R254). -/
def enterTrap (s : State) (k n code : Nat) (tval : Word) : State :=
  modCtx s k n fun c =>
    if c.mode = .u then enterS (getCore s k) c false code tval else enterM (getCore s k) c code tval

/-- Causes whose value is an address (12 R255); of them tx.stat keeps the address (05 R142). -/
def addressCause (code : Nat) : Bool :=
  [0, 1, 4, 5, 6, 7, 12, 13, 15, Cause.misalignedAtomic, Cause.lkstate, Cause.accesserr, Cause.homelost].contains code

def faultAddr (code : Nat) (v : Word) : Word := if addressCause code then v else 0

/-- TAKING AN EXCEPTION: a precise trap of the executing context. Inside a transaction it aborts with FAULT and is
not delivered (05 R141). -/
def takeTrap (s : State) (code : Nat) (tval : Word) : State :=
  if inTx s then abortMe s Abort.fault 0 (faultAddr code tval) else enterTrap s s.turn s.cur code tval

def trap (s : State) (code : Nat) (tval : Word) : Out := .next (takeTrap s code tval)

/-- Return from a trap taken in S mode (the standard): mode from SPP, SIE from SPIE, SPIE set, SPP U. The hand-back
slots of a cause that context 0 took as a trap are freed (12 R261). -/
def returnS (s : State) : State :=
  let s := if s.cur = 0 then modMyCore s fun c => { c with slots := c.upq.filterMap (·.slot) ++ c.actSlot.toList } else s
  modMe s fun c =>
    let st := putBit (putBit (putBit c.mstatus 1 (c.mstatus.getLsbD 5)) 5 true) 8 false
    { c with mode := if c.mstatus.getLsbD 8 then .s else .u, mstatus := st, st := .live,
             regs := { c.regs with pc := BitVec.ofNat 64 (c.sepc.toNat / 4 * 4) } }

/-- Return from a trap taken in M mode (the standard): mode from MPP, MIE from MPIE, MPIE set, MPP U. -/
def returnM (s : State) : State :=
  modMe s fun c =>
    let st := putBits (putBit (putBit c.mstatus 3 (c.mstatus.getLsbD 7)) 7 true) 11 2 0
    { c with mode := Mode.ofCode (bitsOf c.mstatus 12 11), mstatus := st, st := .live,
             regs := { c.regs with pc := BitVec.ofNat 64 (c.mepc.toNat / 4 * 4) } }

/-! ### upcalls (12 R258 to R260) -/

def upcallsOn (c : Core) : Bool := c.qupv.getLsbD 0 && !c.qcont.getLsbD 4
def upcallActive (c : Core) : Bool := c.qupcause.getLsbD 63

/-- The qupctx word of an upcall (02 R38). -/
def upctxWord (u : UpcallRec) : Word :=
  BitVec.ofNat 64 (u.tag % 2 ^ 32 * 2 ^ 32 + (if u.vreg then 2 ^ 13 else 0) + u.reg % 32 * 2 ^ 8 + u.ctx % 16)

/-- Fill the upcall registers and enter the handler on context 0; the interrupted wait is kept (12 R258). -/
def enterUpcall (s : State) (k : Nat) (u : UpcallRec) (resume : Word) : State :=
  let s := modCore s k fun c => { c with
    qupepc := BitVec.ofNat 64 (resume.toNat / 4 * 4), qupcause := BitVec.ofNat 64 (2 ^ 63 + u.code), qupval := u.value,
    qupctx := upctxWord u, actSlot := u.slot }
  modCtx s k 0 fun c => { c with
    keptWait := (match c.st with | .waiting w => some w | _ => c.keptWait), st := .live,
    regs := { c.regs with pc := BitVec.ofNat 64 ((getCore s k).qupv.toNat / 4 * 4) } }

/-- An upcall cause arises on a core: it joins the queue (12 R259); an NPUTLOST that finds 16 waiting is discarded
and logged. -/
def raiseUpcall (s : State) (k : Nat) (u : UpcallRec) : State :=
  if u.code = Cause.nputlost ∧ Config.upcallQueue ≤ (getCore s k).upq.length then
    postFor s k u.ctx 5 0 0 u.value 0
  else modCore s k fun c => { c with upq := c.upq ++ [u] }

/-- A page fault of the executing context (12 R255, R260; 14 R300): from U mode an upcall, else a precise trap. A
helper is held; context 0 enters the handler itself, or traps to S mode when it already runs the handler. -/
def takePageFault (s : State) (code : Nat) (va : Word) : State :=
  if inTx s then abortMe s Abort.fault 0 va
  else if (me s).mode = .u ∧ upcallsOn (myCore s) then
    if s.cur = 0 then
      if upcallActive (myCore s) then takeTrap s code va
      else enterUpcall s s.turn { code := code, value := va, ctx := 0 } (regs s).pc
    else
      let s := modMe s fun c => { c with st := .held va }
      raiseUpcall s s.turn { code := code, value := va, ctx := s.cur }
  else takeTrap s code va

/-- A fault of translation: page faults and the rest. -/
def takeFault (s : State) (code : Nat) (va : Word) : State :=
  if code = Cause.fetchPage ∨ code = Cause.loadPage ∨ code = Cause.storePage then takePageFault s code va
  else takeTrap s code va

end Sys2Proof.Machine
end

