-- ==== Sys2Proof/Machine/Flags.lean ====
section
/-! DEFINITION. The five accrued floating-point flags (02 R27, 06 R162) and how instructions add to them. -/
namespace Sys2Proof.Machine

/-- The flags of `fcsr.fflags`, from the top bit down NV, DZ, OF, UF, NX (the standard). -/
def Flag.nv : Nat := 16
def Flag.dz : Nat := 8
def Flag.of : Nat := 4
def Flag.uf : Nat := 2
def Flag.nx : Nat := 1

/-- Two sets of flags together. -/
def orFlags (a b : Nat) : Nat := a ||| b

/-- Flags accumulate in the context's fflags (02 R27). -/
def accrue (s : State) (fl : Nat) : State :=
  modRegs s fun g => { g with fflags := g.fflags ||| BitVec.ofNat 5 fl }

/-- The OR of the flags of a list of results (06 R162). -/
def allFlags : List (Nat × Nat) → Nat
  | [] => 0
  | (_, f) :: rs => orFlags f (allFlags rs)

end Sys2Proof.Machine
end

