-- ==== Sys2Proof/Machine/Float.lean ====
section
/-! DEFINITION. Number formats and exact arithmetic (09 R212 to R221): values, RoundTo, stochastic-rounding bits, and
the exact operations that round once. -/
namespace Sys2Proof.Machine

/-- A value of a format: NaN (signalling or quiet), infinity, or sign * m * 2^e. -/
inductive FVal where
  | nan (signalling : Bool)
  | inf (neg : Bool)
  | fin (neg : Bool) (m : Nat) (e : Int)
  deriving DecidableEq, Repr

/-- A floating-point format (09 R212). -/
structure Fmt where
  width : Nat
  p : Nat
  emin : Int
  emax : Int
  /-- E4M3: no infinities, one NaN per sign, largest finite 448 -/
  e4m3 : Bool := false
  /-- FP8: every NaN is quiet -/
  quiet : Bool := false
  deriving DecidableEq, Repr

def fp64 : Fmt := { width := 64, p := 53, emin := -1022, emax := 1023 }
def fp32 : Fmt := { width := 32, p := 24, emin := -126, emax := 127 }
def fp16 : Fmt := { width := 16, p := 11, emin := -14, emax := 15 }
def bf16 : Fmt := { width := 16, p := 8, emin := -126, emax := 127 }
def e4m3 : Fmt := { width := 8, p := 4, emin := -6, emax := 8, e4m3 := true, quiet := true }
def e5m2 : Fmt := { width := 8, p := 3, emin := -14, emax := 15, quiet := true }

/-- The value of an encoding (09 R212, R213; signalling NaNs 06 R162). -/
def decodeF (f : Fmt) (bits : Nat) : FVal :=
  let b := bits % 2 ^ f.width
  let neg := decide (2 ^ (f.width - 1) ≤ b)
  let mb := f.p - 1
  let mag := b % 2 ^ (f.width - 1)
  let ex := mag / 2 ^ mb
  let fr := mag % 2 ^ mb
  let top := 2 ^ (f.width - f.p) - 1
  if f.e4m3 && mag == 0x7F then .nan false
  else if !f.e4m3 && ex == top then
    if fr = 0 then .inf neg else .nan (!f.quiet && decide (fr < 2 ^ (mb - 1)))
  else if ex = 0 then .fin neg fr (f.emin - (mb : Int))
  else .fin neg (fr + 2 ^ mb) ((ex : Int) - 1 + f.emin - (mb : Int))

/-- The canonical NaN (09 R213). -/
def canonicalNaN (f : Fmt) : Nat :=
  if f.e4m3 then 0x7F
  else (2 ^ (f.width - f.p) - 1) * 2 ^ (f.p - 1) + 2 ^ (f.p - 2)

def signBit (f : Fmt) (neg : Bool) : Nat := if neg then 2 ^ (f.width - 1) else 0
def zeroOf (f : Fmt) (neg : Bool) : Nat := signBit f neg
/-- The largest finite magnitude and infinity; E4M3 has 448 for both (09 R217). -/
def maxOf (f : Fmt) (neg : Bool) : Nat :=
  signBit f neg + (if f.e4m3 then 0x7E else (2 ^ (f.width - f.p) - 1) * 2 ^ (f.p - 1) - 1)
def infOf (f : Fmt) (neg : Bool) : Nat :=
  signBit f neg + (if f.e4m3 then 0x7E else (2 ^ (f.width - f.p) - 1) * 2 ^ (f.p - 1))

/-- Rounding modes (03 R67). -/
def Rm.rne : Nat := 0
def Rm.rtz : Nat := 1
def Rm.rdn : Nat := 2
def Rm.rup : Nat := 3
def Rm.rmm : Nat := 4
def Rm.sr : Nat := 5

/-- Whether a magnitude lo + f is rounded up to the next quantum; f = rem / 2^shift, `sticky` for a nonzero rest
below it, r the stochastic draw (09 R216). -/
def roundsUp (rm r : Nat) (neg : Bool) (lo rem shift : Nat) (sticky : Bool) : Bool :=
  if rem = 0 ∧ sticky = false then false
  else if rm = Rm.rne then decide (2 ^ shift < 2 * rem) || (2 * rem == 2 ^ shift && (sticky || lo % 2 == 1))
  else if rm = Rm.rmm then decide (2 ^ shift ≤ 2 * rem)
  else if rm = Rm.rdn then neg
  else if rm = Rm.rup then !neg
  else if rm = Rm.sr then decide (2 ^ 32 ≤ rem * 2 ^ 32 / 2 ^ shift + r % 2 ^ 32)
  else false

/-- m * 2^e in units of 2^q, rounded: the units and whether it was inexact. -/
def quantise (rm r : Nat) (neg : Bool) (m : Nat) (e q : Int) (sticky : Bool) : Nat × Bool :=
  let shift := (q - e).toNat
  let scaled := m * 2 ^ (e - q).toNat
  let lo := scaled / 2 ^ shift
  let rem := scaled % 2 ^ shift
  (lo + (if roundsUp rm r neg lo rem shift sticky then 1 else 0), rem != 0 || sticky)

/-- RoundTo (09 R216 to R218) of a nonzero finite magnitude m * 2^e (and a rest below one unit where `sticky`):
the encoding and the flags. -/
def roundTo (f : Fmt) (rm r : Nat) (neg : Bool) (m : Nat) (e : Int) (sticky : Bool) : Nat × Nat :=
  if m = 0 ∧ sticky = false then (zeroOf f neg, 0)
  else
    let top : Int := (Nat.log2 m : Int) + e
    let q := max top f.emin - (f.p : Int) + 1
    let (u, inexact) := quantise rm r neg m e q sticky
    let qmax := f.emax - (f.p : Int) + 1
    let maxUnits := if f.e4m3 then 14 else 2 ^ f.p - 1
    if qmax < q ∨ (q = qmax ∧ maxUnits < u) then
      let sat := f.e4m3 || rm == Rm.rtz || (rm == Rm.rdn && !neg) || (rm == Rm.rup && neg)
      (if sat then maxOf f neg else infOf f neg, Flag.of ||| Flag.nx)
    else
      let tiny := decide (top < f.emin) &&
        decide ((quantise rm r neg m e (top - (f.p : Int) + 1) sticky).1 < 2 ^ f.p ∨ top + 1 < f.emin)
      let bits := (q + (f.p : Int) - 1 - f.emin).toNat * 2 ^ (f.p - 1) + u
      (signBit f neg + bits, if inexact then (if tiny then Flag.uf ||| Flag.nx else Flag.nx) else 0)

/-- RoundTo of a value: infinities stay (E4M3: 448), a NaN becomes canonical with NV for a signalling one. -/
def roundVal (f : Fmt) (rm r : Nat) : FVal → Nat × Nat
  | .nan sig => (canonicalNaN f, if sig then Flag.nv else 0)
  | .inf neg => (infOf f neg, 0)
  | .fin neg m e => roundTo f rm r neg m e false

/-- Mix and SrBits (09 R219). -/
def mix (z : Word) : Word :=
  let z := z ^^^ (z >>> 31)
  let z := z * 0xC2B63D198E47A5F3#64
  let z := z ^^^ (z >>> 29)
  let z := z * 0x94E37A51D06B2C8F#64
  z ^^^ (z >>> 32)

def srBits (seed : Word) (core ctx : Nat) (c d : Word) : Word :=
  let id : Word := BitVec.ofNat 64 (core % 4096 * 16 + ctx % 16)
  let h := mix (seed ^^^ (id * 0xE38D260B7F4C91A5#64))
  let h := mix (h ^^^ (c * 0xD1A54F873B29E6C1#64))
  mix (h ^^^ (d * 0xA7F1C46E95B30D2B#64))

/-- The 32 bits that RoundTo uses. -/
def srDraw (seed : Word) (core ctx : Nat) (c : Word) (d : Nat) : Nat :=
  (srBits seed core ctx c (BitVec.ofNat 64 d)).toNat % 2 ^ 32

/-! ### exact values -/

def FVal.isNaN : FVal → Bool
  | .nan _ => true
  | _ => false
def FVal.isSignalling : FVal → Bool
  | .nan s => s
  | _ => false
def FVal.isInf : FVal → Bool
  | .inf _ => true
  | _ => false
def FVal.isZero : FVal → Bool
  | .fin _ m _ => m == 0
  | _ => false
def FVal.neg : FVal → FVal
  | .nan s => .nan s
  | .inf n => .inf (!n)
  | .fin n m e => .fin (!n) m e
def FVal.negative : FVal → Bool
  | .nan _ => false
  | .inf n => n
  | .fin n _ _ => n

/-- sign * m * 2^e as an integer in units of 2^q, for q ≤ e. -/
def unitsOf (neg : Bool) (m : Nat) (e q : Int) : Int :=
  let u : Int := (m * 2 ^ (e - q).toNat : Nat)
  if neg then -u else u

/-- The exact sum of two finite values; `rdn` gives the sign of a zero sum of opposite signs (06 R162). -/
def addFin (rdn : Bool) (n1 : Bool) (m1 : Nat) (e1 : Int) (n2 : Bool) (m2 : Nat) (e2 : Int) : FVal :=
  let q := min e1 e2
  let t := unitsOf n1 m1 e1 q + unitsOf n2 m2 e2 q
  if t = 0 then .fin (if m1 = 0 ∧ m2 = 0 ∧ n1 = n2 then n1 else rdn) 0 q
  else .fin (decide (t < 0)) t.natAbs q

/-- Exact a + b; the second component is NV. -/
def addExact (rdn : Bool) : FVal → FVal → FVal × Bool
  | .nan s, b => (.nan false, s || b.isSignalling)
  | a, .nan s => (.nan false, s || a.isSignalling)
  | .inf x, .inf y => if x = y then (.inf x, false) else (.nan false, true)
  | .inf x, _ => (.inf x, false)
  | _, .inf y => (.inf y, false)
  | .fin n1 m1 e1, .fin n2 m2 e2 => (addFin rdn n1 m1 e1 n2 m2 e2, false)

/-- Exact a * b. -/
def mulExact : FVal → FVal → FVal × Bool
  | .nan s, b => (.nan false, s || b.isSignalling)
  | a, .nan s => (.nan false, s || a.isSignalling)
  | .inf x, .inf y => (.inf (x != y), false)
  | .inf x, .fin n m _ => if m = 0 then (.nan false, true) else (.inf (x != n), false)
  | .fin n m _, .inf y => if m = 0 then (.nan false, true) else (.inf (n != y), false)
  | .fin n1 m1 e1, .fin n2 m2 e2 => (.fin (n1 != n2) (m1 * m2) (e1 + e2), false)

def flagNV (b : Bool) : Nat := if b then Flag.nv else 0

/-- a + b, rounded once (06 R164; the standard). -/
def fAdd (f : Fmt) (rm r : Nat) (a b : FVal) : Nat × Nat :=
  let (v, nv) := addExact (rm == Rm.rdn) a b
  let (x, fl) := roundVal f rm r v
  (x, flagNV nv ||| fl)

def fSub (f : Fmt) (rm r : Nat) (a b : FVal) : Nat × Nat := fAdd f rm r a b.neg

def fMul (f : Fmt) (rm r : Nat) (a b : FVal) : Nat × Nat :=
  let (v, nv) := mulExact a b
  let (x, fl) := roundVal f rm r v
  (x, flagNV nv ||| fl)

/-- a * b + c with one rounding; 0 * ∞ is invalid whatever c is (06 R164). -/
def fMulAdd (f : Fmt) (rm r : Nat) (a b c : FVal) : Nat × Nat :=
  let (pr, nv1) := mulExact a b
  let (v, nv2) := addExact (rm == Rm.rdn) pr c
  let (x, fl) := roundVal f rm r v
  (x, flagNV (nv1 || nv2) ||| fl)

/-- a / b: quotient to well beyond the precision, the rest as a sticky bit. -/
def fDiv (f : Fmt) (rm r : Nat) (a b : FVal) : Nat × Nat :=
  match a, b with
  | .nan s, b => (canonicalNaN f, flagNV (s || b.isSignalling))
  | _, .nan s => (canonicalNaN f, flagNV s)
  | .inf _, .inf _ => (canonicalNaN f, Flag.nv)
  | .inf x, .fin n _ _ => (infOf f (x != n), 0)
  | .fin n _ _, .inf y => (zeroOf f (n != y), 0)
  | .fin n1 m1 e1, .fin n2 m2 e2 =>
    if m2 = 0 then
      if m1 = 0 then (canonicalNaN f, Flag.nv) else (infOf f (n1 != n2), Flag.dz)
    else if m1 = 0 then (zeroOf f (n1 != n2), 0)
    else
      let k := f.p + 40 + Nat.log2 m2
      roundTo f rm r (n1 != n2) (m1 * 2 ^ k / m2) (e1 - e2 - (k : Int)) (m1 * 2 ^ k % m2 != 0)

/-- The integer square root, bit by bit from 2^b down. -/
def isqrtFrom : Nat → Nat → Nat → Nat
  | 0, _, acc => acc
  | b + 1, n, acc => isqrtFrom b n (if (acc + 2 ^ b) * (acc + 2 ^ b) ≤ n then acc + 2 ^ b else acc)

def fSqrt (f : Fmt) (rm r : Nat) (a : FVal) : Nat × Nat :=
  match a with
  | .nan s => (canonicalNaN f, flagNV s)
  | .inf n => if n then (canonicalNaN f, Flag.nv) else (infOf f false, 0)
  | .fin n m e =>
    if m = 0 then (zeroOf f n, 0)
    else if n then (canonicalNaN f, Flag.nv)
    else
      let k := f.p + 40
      let odd := decide (e % 2 ≠ 0)
      let big := m * 2 ^ (2 * k + if odd then 1 else 0)
      let e' := (e - (if odd then 1 else 0)) / 2 - (k : Int)
      let root := isqrtFrom (Nat.log2 big / 2 + 1) big 0
      roundTo f rm r false root e' (root * root != big)

/-- Compare two non-NaN values: a < b, with -0 equal to +0. -/
def ltVal : FVal → FVal → Bool
  | .nan _, _ => false
  | _, .nan _ => false
  | .inf x, .inf y => x && !y
  | .inf x, .fin _ _ _ => x
  | .fin _ _ _, .inf y => !y
  | .fin n1 m1 e1, .fin n2 m2 e2 =>
    let q := min e1 e2
    decide (unitsOf n1 m1 e1 q < unitsOf n2 m2 e2 q)

def eqVal : FVal → FVal → Bool
  | .nan _, _ => false
  | _, .nan _ => false
  | .inf x, .inf y => x == y
  | .inf _, .fin _ _ _ => false
  | .fin _ _ _, .inf _ => false
  | .fin n1 m1 e1, .fin n2 m2 e2 =>
    let q := min e1 e2
    unitsOf n1 m1 e1 q == unitsOf n2 m2 e2 q

/-- a before b for min and max: -0 counts as smaller than +0 (06 R165; the standard). -/
def minLt (a b : FVal) : Bool := ltVal a b || (eqVal a b && a.negative && !b.negative)

/-- The smaller (or larger) of two encodings; one NaN gives the other operand, two the canonical NaN; a signalling
NaN raises NV (06 R165). -/
def fMinMax (f : Fmt) (isMax : Bool) (x y : Nat) : Nat × Nat :=
  let a := decodeF f x
  let b := decodeF f y
  let fl := flagNV (a.isSignalling || b.isSignalling)
  if a.isNaN && b.isNaN then (canonicalNaN f, fl)
  else if a.isNaN then (y, fl)
  else if b.isNaN then (x, fl)
  else if (if isMax then minLt a b else minLt b a) then (y, fl) else (x, fl)

/-- The largest integer not above, and the rounding of, a finite value to an integer: the integer and NX. -/
def toInt (rm : Nat) (neg : Bool) (m : Nat) (e : Int) : Int × Bool :=
  let (u, nx) := quantise rm 0 neg m e 0 false
  (if neg then -(u : Int) else u, nx)

/-- Conversion to an integer type of w bits (the standard): out of range and NaN give the nearest bound with NV. -/
def fToInt (rm w : Nat) (signed : Bool) (v : FVal) : Int × Nat :=
  let lo : Int := if signed then -(2 ^ (w - 1) : Int) else 0
  let hi : Int := if signed then 2 ^ (w - 1) - 1 else 2 ^ w - 1
  match v with
  | .nan _ => (hi, Flag.nv)
  | .inf n => (if n then lo else hi, Flag.nv)
  | .fin n m e =>
    let (i, nx) := toInt rm n m e
    if i < lo then (lo, Flag.nv) else if hi < i then (hi, Flag.nv) else (i, if nx then Flag.nx else 0)

/-- An integer as a value. -/
def ofInt (i : Int) : FVal := .fin (decide (i < 0)) i.natAbs 0

/-- The class mask of fclass.s (the standard). -/
def fClass (f : Fmt) (x : Nat) : Nat :=
  match decodeF f x with
  | .nan true => 2 ^ 8
  | .nan false => 2 ^ 9
  | .inf n => if n then 2 ^ 0 else 2 ^ 7
  | .fin n m _ =>
    if m = 0 then (if n then 2 ^ 3 else 2 ^ 4)
    else if m < 2 ^ (f.p - 1) then (if n then 2 ^ 2 else 2 ^ 5)
    else (if n then 2 ^ 1 else 2 ^ 6)

/-- FP32 or FP64 addition in memory (05 R120, R123): RNE, flags discarded. -/
def memFadd (bytes x y : Nat) : Nat :=
  let f := if bytes = 4 then fp32 else fp64
  (fAdd f Rm.rne 0 (decodeF f x) (decodeF f y)).1

/-- The combination of a reduction with op tag t (05 R123, 17 R330): op t / 2, width by t mod 2. -/
def combine (t m s : Nat) : Nat :=
  let n := if t % 2 = 0 then 4 else 8
  let m := m % 2 ^ (8 * n)
  let s := s % 2 ^ (8 * n)
  match t / 2 with
  | 0 => (m + s) % 2 ^ (8 * n)
  | 1 => if signedOf (8 * n) s < signedOf (8 * n) m then s else m
  | 2 => if signedOf (8 * n) m < signedOf (8 * n) s then s else m
  | _ => memFadd n m s

/-- Op(OP, old, s, c) of an atomic of n bytes (05 R120). -/
def atomicOp (op n old s c : Nat) : Nat :=
  let w := 8 * n
  match op with
  | 0 => (old + s) % 2 ^ w
  | 1 => old &&& s
  | 2 => old ||| s
  | 3 => old ^^^ s
  | 4 => if signedOf w s < signedOf w old then s else old
  | 5 => if signedOf w old < signedOf w s then s else old
  | 6 => if s < old then s else old
  | 7 => if old < s then s else old
  | 8 => s
  | 10 => memFadd n old s
  | _ => if old = c then s else old

end Sys2Proof.Machine
end

