-- ==== Sys2Proof/Machine/Phys.lean ====
section
/-! DEFINITION. Physical addresses: which exist, the windows, the error response and its log (14 R286 to R289, R301 to
R303; 19 R361, R366; 20 R387, R393), and the remap of scratchpad offsets (05 R149). -/
namespace Sys2Proof.Machine

def paSpace (pa : Nat) : Nat := pa / 2 ^ 44 % 16
def paPkg (pa : Nat) : Nat := pa / 2 ^ 48 % 256
def paOff (pa : Nat) : Nat := pa % 2 ^ 44
def lineOf (pa : Nat) : Nat := pa / 64
def tileOf (pa : Nat) : Nat := pa / 512
def frameOf (pa : Nat) : Nat := pa / 1024
/-- HBM or DDR-5 (14 R287). -/
def isMain (pa : Nat) : Bool := decide (pa < 2 ^ 56) && decide (paSpace pa < 2)
def isSpm (pa : Nat) : Bool := paSpace pa == 2
def isHost (pa : Nat) : Bool := paSpace pa == 8
def isDevice (pa : Nat) : Bool := paSpace pa == 15

/-- The home slice of an address: the XOR of nine nibbles of pa[44:9] (14 R286). -/
def homeOf (pa : Nat) : Nat :=
  let t := pa / 512 % 2 ^ 36
  (t % 16) ^^^ (t / 2 ^ 4 % 16) ^^^ (t / 2 ^ 8 % 16) ^^^ (t / 2 ^ 12 % 16) ^^^ (t / 2 ^ 16 % 16) ^^^ (t / 2 ^ 20 % 16)
    ^^^ (t / 2 ^ 24 % 16) ^^^ (t / 2 ^ 28 % 16) ^^^ (t / 2 ^ 32 % 16)

/-- The core and byte of a scratchpad window address (14 R289). -/
def windowCore (pa : Nat) : Nat := paPkg pa * 4096 + pa / 2 ^ 18 % 4096
def windowByte (pa : Nat) : Nat := pa % 2 ^ 18
/-- The window address of a scratchpad offset of a core. -/
def windowOf (k off : Nat) : Nat := k / 4096 * 2 ^ 48 + 2 * 2 ^ 44 + k % 4096 * 2 ^ 18 + off

/-- Lane of an address (16 R324). -/
def laneOf (pa : Nat) : Nat :=
  (pa / 2 ^ 6 % 8) ^^^ (pa / 2 ^ 9 % 8) ^^^ (pa / 2 ^ 12 % 8) ^^^ (pa / 2 ^ 15 % 2)

/-- Reasons of an error response (14 R303, 19 R377); 12 stands for a lost home, delivered as HOMELOST (17 R348), and 13 for
NOWINDOW found by the fabric gateway of the destination (19 R362). -/
def Reason.nowindow : Nat := 1
def Reason.readonly : Nat := 2
def Reason.reserved : Nat := 3
def Reason.absent : Nat := 4
def Reason.withheld : Nat := 5
def Reason.notlaunch : Nat := 6
def Reason.poison : Nat := 7
def Reason.migchain : Nat := 8
def Reason.migstale : Nat := 9
def Reason.linklost : Nat := 10
def Reason.walkspace : Nat := 11
def Reason.homelost : Nat := 12
def Reason.farwindow : Nat := 13

def bootOf (s : State) (pkg : Nat) : Boot := fget {} s.boots pkg

/-- Whether window word w holds bytes pa to pa + n - 1 (02 R45). -/
def windowHolds (w : Word) (pa n : Nat) : Bool :=
  let lg := bitsOf w 61 56
  let base := bitsOf w 55 21 * 2 ^ 21
  w.getLsbD 63 && decide (21 ≤ lg) && decide (lg ≤ 44) && base % 2 ^ lg == 0 &&
    decide (base ≤ pa) && decide (pa + n ≤ base + 2 ^ lg)

/-- The compute die of the core whose scratchpad an address names is withheld (20 R393). -/
def spmWithheld (s : State) (pa : Nat) : Bool := (bootOf s (paPkg pa)).withheld.getLsbD (windowCore pa % 4096 / 1024)

/-- The check of a list of windows: none, NOWINDOW or READONLY (14 R301). -/
def windowCheck (ws : List Word) (pa n : Nat) (write : Bool) : Option Nat :=
  let hold := ws.filter fun w => windowHolds w pa n
  if hold.isEmpty then some Reason.nowindow
  else if write && !hold.any (fun w => w.getLsbD 62) then some Reason.readonly
  else none

def windowsOf (c : Core) : List Word := (List.range 16).map fun i => fget 0x1500000000000000 c.qpwin i

/-- The windows that the fabric manager of a package recorded for a tenant (19 R362, 20 R389). -/
def tenantWindows (s : State) (pkg tenant : Nat) : List Word :=
  (s.parts.filter fun p => p.1 / 128 == pkg && p.2.tenant == tenant).flatMap fun p => p.2.windows

def hostWindow (s : State) (pkg tenant window : Nat) : Option HostWin :=
  s.hwins.find? fun h => h.pkg == pkg && h.tenant == tenant && h.window == window

/-- The launches of the ranks that a core runs or holds saved, with their grants (14 R289). -/
def rankOn (s : State) (k : Nat) : List (Nat × Nat) :=
  let c := getCore s k
  (match c.launch with | some l => [(l, c.spmBytes)] | none => []) ++
    ((savedRanks c).filter fun r => !r.ending).map fun r => (r.launch, r.spmBytes)

/-- Whether main-memory bytes exist, are not withheld, lost or poisoned (14 R288, 20 R393, 17 R348, 12 R273). -/
def mainError (s : State) (pa n : Nat) (whole : Bool) : Option Nat :=
  let p := paPkg pa
  let b := bootOf s p
  let off := paOff pa
  let exists? : Bool × Bool :=
    if paSpace pa = 0 then (decide (off + n ≤ 0x6000000000), b.withheld.getLsbD (12 + off / 0xC00000000))
    else
      let c := off / 0x4000000000
      (decide (c < 12) && decide (off % 0x4000000000 + n ≤ Config.ddrModuleBytes (p * 12 + c)),
        b.withheld.getLsbD (if c < 6 then 20 else 21) || b.channels.getLsbD c)
  if !exists?.1 then some Reason.absent
  else if exists?.2 || b.withheld.getLsbD (4 + homeOf pa / 2) then some Reason.withheld
  else if s.lostHomes.contains (p * 16 + homeOf pa) then some Reason.homelost
  else if !whole && (s.poison.contains (lineOf pa) || s.poison.contains (lineOf (pa + n - 1))) then some Reason.poison
  else none

/-- The link of package a towards package b for a lane mod 3 (19 R361). -/
def linkTo (a b j : Nat) : Nat :=
  if a / 8 = b / 8 then 3 * ((b % 8 + 8 - a % 8 + 7) % 8) + j else 21 + j

/-- The key of a link of a package: Triern Links 0 to 23, and the UCIe module of a socket at 24 + socket (20 R382). -/
def linkKey (pkg link : Nat) : Nat := pkg * 64 + link

/-- A Triern Link is up: its own ends are, and the I/O die that carries it works (20 R381). -/
def linkUp (s : State) (pkg link : Nat) : Bool := (fget {} s.links (linkKey pkg link)).up && !(bootOf s pkg).withheld.getLsbD 21

/-- The planes of links over which two packages still reach each other: those with both ends up. -/
def planesUp (s : State) (a b : Nat) : List Nat :=
  (List.range 3).filter fun j => linkUp s a (linkTo a b j) && linkUp s b (linkTo b a j)

/-- The link that a request of a lane takes from package a towards package b: plane LANE mod 3 while all three are up, else
LANE modulo the number of planes that are left (19 R361, R366). -/
def pathOf (s : State) (a b lane : Nat) : Option Nat :=
  let up := planesUp s a b
  (up[lane % up.length]?).map (linkTo a b)

/-- No path leads from package a to package b: it is lost, or no plane is up at both ends (19 R366). -/
def unreachable (s : State) (a b : Nat) : Bool := s.lostPkgs.contains b || (pathOf s a b 0).isNone

/-- The first failing check of a physical access of n bytes by core k, context in a mode: the form of the address and
the windows at the gateway, then the target (14 R301 to R303). `whole` marks a write of a whole line. Space 0xF holds no
offset: chapter 20, to which 14 R287 leaves its registers, gives it none (log entry 66). -/
def accessError (s : State) (k : Nat) (mode : Mode) (pa n : Nat) (write whole : Bool) : Option Nat :=
  let sp := paSpace pa
  if 2 ^ 56 ≤ pa ∨ ¬ (sp = 0 ∨ sp = 1 ∨ sp = 2 ∨ sp = 8 ∨ sp = 15) then some Reason.reserved
  else if !s.pkgs.contains (paPkg pa) then some Reason.absent
  else
    match (if mode = .m then none else windowCheck (windowsOf (getCore s k)) pa n write) with
    | some r => some r
    | none =>
      if paPkg pa != pkgOf k && unreachable s (pkgOf k) (paPkg pa) then some Reason.linklost
      else if paPkg pa ≠ pkgOf k ∧ mode ≠ .m ∧
          (windowCheck (tenantWindows s (paPkg pa) (tenantOf (getCore s k))) pa n write).isSome then
        some Reason.farwindow
      else if sp < 2 then mainError s pa n whole
      else if sp = 2 then
        if 2 ^ 30 ≤ paOff pa then some Reason.absent
        else if spmWithheld s pa then some Reason.withheld
        else
          let mine := (getCore s k).launch
          if mine.isSome && (rankOn s (windowCore pa)).any
              (fun r => some r.1 == mine && decide (windowByte pa + n ≤ r.2)) then none
          else some Reason.notlaunch
      else if sp = 8 then
        match hostWindow s (pkgOf k) (tenantOf (getCore s k)) (paOff pa / 2 ^ 38) with
        | none => some Reason.absent
        | some h => if h.size < paOff pa % 2 ^ 38 + n then some Reason.absent
                    else if write = true ∧ h.wr = false then some Reason.readonly else none
      else some Reason.absent

/-- The check at the destination of a forwarded access of core k (19 R362). -/
def destinationError (s : State) (k : Nat) (mode : Mode) (pa n : Nat) (write whole : Bool) : Option Nat :=
  if paPkg pa != pkgOf k && unreachable s (pkgOf k) (paPkg pa) then some Reason.linklost
  else if paPkg pa ≠ pkgOf k ∧ mode ≠ .m ∧
      (windowCheck (tenantWindows s (paPkg pa) (tenantOf (getCore s k))) pa n write).isSome then some Reason.farwindow
  else mainError s pa n whole

/-- The launch of the rank that a context of a core belongs to: the running rank, or from 16 on the saved one. -/
def launchAs (s : State) (k n : Nat) : Option Nat :=
  if n < 16 then (getCore s k).launch else (rankSaved (getCore s k) n).map fun r => r.launch

/-- The machine as the checks of an access of a context see it: a saved rank's requests keep their launch. -/
def viewFor (s : State) (k n : Nat) : State :=
  if n < 16 then s else modCore s k fun c => { c with launch := launchAs s k n }

/-- The package that logs the error response of an access from a package (14 R303, 19 R362): the requester's, where its gateway
or its walker refused the access or a host window did, else that of the target. -/
def loggedAt (s : State) (from_ pa reason : Nat) : Nat :=
  if reason = Reason.reserved ∨ reason = Reason.readonly ∨ reason = Reason.nowindow ∨ reason = Reason.walkspace ∨
      reason = Reason.linklost ∨ isHost pa = true ∨ s.pkgs.contains (paPkg pa) = false then from_
  else paPkg pa

def loggingPkg (s : State) (k pa reason : Nat) : Nat := loggedAt s (pkgOf k) pa reason

/-- The code of a reason in events and replies; that of a lost home is open (14 R303; log entry 79). -/
def reasonCode (reason : Nat) : Nat :=
  if reason = Reason.homelost then Config.homelostReason.toNat
  else if reason = Reason.farwindow then Reason.nowindow
  else reason

/-- Log an error response: an ACCESS event of a kind (0 fetch, 1 load, 2 store, 3 atomic, 4 engine, 5 walk) with the
address; the reason code for a lost home is open (14 R303, 17 R348, 20 R391; log entry 79). -/
def logAccess (s : State) (k n pa kind reason : Nat) : State :=
  let c := getCore s k
  post s { pkg := loggingPkg s k pa reason, tenant := tenantOf c, type := 1,
           code := reasonCode reason, part := partOf c,
           addr := BitVec.ofNat 64 pa, core := BitVec.ofNat 32 (lidOf k), ctx := BitVec.ofNat 32 (eventCtx n),
           value := BitVec.ofNat 64 kind }

/-- The deferred-trap cause of an error response (14 R302, 17 R348). -/
def reasonCause (reason : Nat) : Nat := if reason = Reason.homelost then Cause.homelost else Cause.accesserr

/-- The token status of an error response (12 R256, 17 R348, 19 R377). -/
def reasonStatus (reason : Nat) : Int :=
  if reason = Reason.homelost then Status.homelost
  else if reason = Reason.migchain then Status.migchain
  else if reason = Reason.migstale then Status.migstale
  else Status.accesserr

/-- A gated island wakes, and the homes no longer mark its agents as sleeping; a notice that is out is withdrawn (17 R332,
20 R397). -/
def wakeIsland (s : State) (pkg island : Nat) : State :=
  let i := fget {} s.islands (pkg * 64 + island)
  if i.gated || i.notice then
    { s with islands := fset s.islands (pkg * 64 + island) { i with gated := false, notice := false, acked := [] } }
  else s

/-- The island of a core: its cluster's lower or upper 16 octets (20 R395). -/
def islandOf (k : Nat) : Nat := 2 * clusterIn k + k % 256 / 128

/-- A fill, an nput, a probe or a start wakes the island of a core. -/
def wakeCore (s : State) (k : Nat) : State := wakeIsland s (pkgOf k) (islandOf k)

/-- The island of a cluster's L2, barrier unit and gather engine, which is that of its octets 0 to 15, wakes (20 R395). -/
def wakeCluster (s : State) (pkg cl : Nat) : State := wakeIsland s pkg (2 * cl)

/-- The cycles of a core's own island, which a cycle-counted bound counts (20 R396). An island that runs slower than 1,900 MHz
falls behind the package time base (log entry 88). -/
def ownCycle (s : State) (k : Nat) : Nat := s.cycle - (fget {} s.islands (pkgOf k * 64 + islandOf k)).lag / 1900

/-! ### scratchpad -/

/-- The remap entry that covers an offset (05 R149). -/
def remapAt (c : Core) (o : Nat) : Option Remap :=
  ((List.range 8).map fun i => fget {} c.remap i).find? fun e =>
    e.valid && decide (e.log * 64 ≤ o) && decide (o < e.log * 64 + e.size * 64)

/-- The core as a reader sees it that bound to these selectors when its reads began (05 R150). -/
def boundCore (c : Core) (sels : List Bool) : Core :=
  { c with remap := (List.range 8).map fun i => let e := fget {} c.remap i; (i, { e with sel := sels.getD i e.sel }) }

def selectors (c : Core) : List Bool := (List.range 8).map fun i => (fget {} c.remap i).sel

/-- Bind a reader to the selectors of a core, once (16 R322). -/
def bindTo (bound : FMap (List Bool)) (k : Nat) (c : Core) : FMap (List Bool) :=
  if fhas bound k then bound else fset bound k (selectors c)

/-- A core's scratchpad as a bound reader sees it. -/
def viewOf (bound : FMap (List Bool)) (k : Nat) (c : Core) : Core := boundCore c (fget [] bound k)

/-- The stored offset of a byte: the selected version, or the unselected one for a shadow copy (05 R149). -/
def remapOff (c : Core) (shadow : Bool) (o : Nat) : Nat :=
  match remapAt c o with
  | none => o
  | some e => if e.sel != shadow then o - e.log * 64 + e.twin * 64 else o

def spmByte (c : Core) (o : Nat) : Byte := byteAt c.spm (remapOff c false o)

def spmRead (c : Core) : Nat → Nat → List Byte
  | _, 0 => []
  | o, n + 1 => spmByte c o :: spmRead c (o + 1) n

def spmWrite (c : Core) (shadow : Bool) : Nat → List Byte → Core
  | _, [] => c
  | o, b :: bs => spmWrite { c with spm := putBytes c.spm (remapOff c shadow o) [b] } shadow (o + 1) bs

end Sys2Proof.Machine
end

