-- ==== Sys2Proof/Machine/Coherence.lean ====
section
/-! DEFINITION. The home's transitions (17 R329 to R331), transactional conflicts (05 R138, 17 R335, R336), the tags of
the L1 (13 R276) and plain reads and writes of main memory through them. -/
namespace Sys2Proof.Machine

def dirOf (s : State) (line : Nat) : DirLine := fget {} s.dir line
def setDir (s : State) (line : Nat) (d : DirLine) : State := { s with dir := fset s.dir line d }
def cvOf (s : State) (tile : Nat) : BitVec 16 := fget 0 s.dirCv tile
def addCv (s : State) (line cl : Nat) : State :=
  { s with dirCv := fset s.dirCv (line / 8) (putBit (cvOf s (line / 8)) cl true) }
def l2Of (s : State) (line cl : Nat) : LineSt := fget .i s.l2 (line * 16 + cl)
def setL2 (s : State) (line cl : Nat) (st : LineSt) : State :=
  { s with
    l2 := (if st = .i then fdel s.l2 (line * 16 + cl) else fset s.l2 (line * 16 + cl) st),
    l2way := if st = .i then fdel s.l2way (line * 16 + cl) else s.l2way }
def partOf? (s : State) (line cl : Nat) : Option Partial :=
  if fhas s.part (line * 16 + cl) then some (fget { tag := 0 } s.part (line * 16 + cl)) else none
def setPart (s : State) (line cl : Nat) (p : Partial) : State := { s with part := fset s.part (line * 16 + cl) p }
def delPart (s : State) (line cl : Nat) : State := { s with part := fdel s.part (line * 16 + cl) }

/-- Clusters whose bit is set, ascending. -/
def clustersIn (m : BitVec 16) : List Nat := (List.range 16).filter fun i => m.getLsbD i

/-- An L1 holds the line, and its copy is no speculative one. -/
def plainCopy (line : Nat) (l : L1Line) : Bool := l.line == line && l.spec.isEmpty && l.st != .i

/-- The cores of a line's package whose L1 holds a copy of it and that are not kept. -/
def copyHolders (s : State) (line : Nat) (keep : Nat → Bool) : List Nat :=
  (s.cores.filter fun e => e.1 / 4096 == paPkg (line * 64) && !keep e.1 && e.2.l1.any (plainCopy line)).map (·.1)

/-- Apply a change to every L1 copy of a line in the cores of its package that are not kept: the probe wakes their islands (17
R332, 20 R397). Entries that still wait for their line stay. -/
def mapL1 (s : State) (line : Nat) (keep : Nat → Bool) (f : L1Line → List L1Line) : State :=
  let s := (copyHolders s line keep).foldl wakeCore s
  { s with cores := s.cores.map fun e =>
      if e.1 / 4096 == paPkg (line * 64) && !keep e.1 then
        (e.1, { e.2 with l1 := e.2.l1.flatMap fun l => if plainCopy line l then f l else [l] })
      else e }

/-- The presence filter of a cluster's L2 for a line: the cores whose L1 holds it, by their number in the cluster (17
R327). -/
def presence (s : State) (line cl : Nat) : List Nat :=
  (s.cores.filter fun e => clusterOf e.1 == paPkg (line * 64) * 16 + cl && e.2.l1.any (plainCopy line)).map fun e => e.1 % 256

/-- A probe of a cluster wakes the island of its L2 and those of the cores that the filter names (17 R332, 20 R395). -/
def wakeAgents (s : State) (line cl : Nat) : State :=
  let pkg := paPkg (line * 64)
  let s := wakeIsland s pkg (2 * cl)
  if (presence s line cl).any fun i => decide (128 ≤ i) then wakeIsland s pkg (2 * cl + 1) else s

/-- The home probes the clusters that hold a line and pass a test. -/
def probeHolders (s : State) (line : Nat) (skip : Nat → Bool) : State :=
  (List.range 16).foldl (fun s cl => if skip cl || l2Of s line cl == .i then s else wakeAgents s line cl) s

/-- Drop every L1 copy of a line but those of the kept clusters, and the L2 states. -/
def dropCopies (s : State) (line : Nat) (keep : Nat → Bool) : State :=
  let s := mapL1 (probeHolders s line keep) line (fun k => keep (clusterIn k)) fun _ => []
  (List.range 16).foldl (fun s cl => if keep cl then s else setL2 s line cl .i) s

/-- A copy that another reader shares: E becomes S, M becomes O (17 R328). -/
def sharedSt : LineSt → LineSt
  | .e => .s
  | .m => .o
  | x => x

/-- Copies become shared (17 R329, read by another cluster). -/
def shareCopies (s : State) (line : Nat) : State :=
  let s := mapL1 (probeHolders s line fun _ => false) line (fun _ => false) fun l => [{ l with st := sharedSt l.st }]
  (List.range 16).foldl (fun s cl => setL2 s line cl (sharedSt (l2Of s line cl))) s

/-! ### transactions that hold a tile -/

/-- Every open transaction of a package: core, context, transaction. -/
def openTxs (s : State) (pkg : Nat) : List (Nat × Nat × Tx) :=
  (s.cores.filter fun e => e.1 / 4096 == pkg).flatMap fun e =>
    e.2.ctxs.filterMap fun c => c.2.tx.map fun t => (e.1, c.1, t)

/-- The home marked the transaction's tiles: it has its commit in hand (17 R338). -/
def committingAt (t : Tx) (home : Nat) : Bool :=
  match t.phase with
  | .running => false
  | .preparing marked => marked.contains home

/-- Abort by message: the context takes it at its next instruction boundary; the first cause counts (17 R337). -/
def messageAbort (s : State) (k n cause : Nat) (addr : Word) : State :=
  modCtx s k n fun c => match c.abortMsg with
    | none => { c with abortMsg := some (cause, addr) }
    | some _ => c

/-- The speculative lines of a context leave the L1 of its core (05 R140, 17 R336). -/
def dropSpecLines (s : State) (k n : Nat) : State := modCore s k fun c => { c with l1 := dropSpec n c.l1 }

/-- Discard a holder's speculative copies of a tile before a winning access completes (17 R336), and leave the abort
message. The whole speculative state is gone, with its lines in the L1: no later read of the context may see a part of it. -/
def loseTile (s : State) (k n tile cause : Nat) : State :=
  let addr := match (getCtx s k n).tx with
    | some t => fget 0 t.tileVa tile
    | none => 0
  let s := modCtx (dropSpecLines s k n) k n fun c => { c with tx := c.tx.map fun t =>
    { t with readSet := [], writeSet := [], redSet := [], spec := [], redLog := [], spilled := [] } }
  messageAbort s k n cause addr

/-- Kinds of access for R138. -/
inductive AccKind where
  | read | write | reduce
  deriving DecidableEq, Repr

/-- Whether an access conflicts with a holder (05 R138): `isTx` marks a transactional access. -/
def conflictsWith (isTx : Bool) (a : AccKind) (t : Tx) (tile : Nat) : Bool :=
  let r := t.readSet.contains tile
  let w := t.writeSet.contains tile
  let d := t.redSet.contains tile
  match isTx, a with
  | true, .read => w || d
  | true, .write => r || w || d
  | true, .reduce => false
  | false, .read => w
  | false, .write => r || w || d
  | false, .reduce => w

/-- The home has not yet received the release of a committed transaction that holds a tile (17 R338). -/
def releaseDue (s : State) (tile : Nat) : Bool :=
  s.msgs.any fun m => match m.kind with
    | .txRelease home tiles => home == homeOf (tile * 512) && tiles.contains tile
    | _ => false

/-- What the home answers to an access of a tile (05 R138, 17 R336, R338). -/
inductive Verdict where
  /-- held until the release of a committing transaction -/
  | hold
  /-- the accessing transaction aborts itself with CONFLICT -/
  | selfAbort
  /-- the access proceeds after these holders abort with a cause -/
  | go (losers : List (Nat × Nat)) (cause : Nat)
  deriving DecidableEq, Repr

/-- The smaller pair of cycle and core number is older (05 R136). -/
def olderAge (a : Nat × Nat) (b : Nat × Nat) : Bool := decide (a.1 < b.1) || (a.1 == b.1 && decide (a.2 < b.2))

def ageOf (s : State) (k n : Nat) : Nat × Nat := ((getCtx s k n).age.getD 0, k)

/-- The transactional overlay of a tile at its home (17 R335), computed from the transactions that hold the tile: WR, the
readers and reducers with their ages and kinds, of which the home keeps four, OVR, and OLD. -/
structure Overlay where
  wr : Option (Nat × Nat × Nat × Nat)
  /-- core, context, age, core number as tiebreak, reducer -/
  readers : List (Nat × Nat × (Nat × Nat) × Bool)
  ovr : Bool
  old : Option (Nat × Nat)
  deriving DecidableEq, Repr

/-- Transactions that hold a tile in their read or reduction set, and not as its writer. -/
def readersAt (hs : List (Nat × Nat × Tx)) (tile : Nat) : List (Nat × Nat × Tx) :=
  hs.filter fun h => !h.2.2.writeSet.contains tile && (h.2.2.readSet.contains tile || h.2.2.redSet.contains tile)

/-- The oldest of some ages. -/
def oldest : List (Nat × Nat) → Option (Nat × Nat)
  | [] => none
  | a :: as => match oldest as with
    | none => some a
    | some b => some (if olderAge a b then a else b)

def overlayOf (s : State) (tile : Nat) : Overlay :=
  let hs := openTxs s (paPkg (tile * 512))
  let rs := readersAt hs tile
  { wr := (hs.find? fun h => h.2.2.writeSet.contains tile).map fun h => (h.1, h.2.1, ageOf s h.1 h.2.1),
    readers := (rs.take 4).map fun h => (h.1, h.2.1, ageOf s h.1 h.2.1, h.2.2.redSet.contains tile),
    ovr := !rs.isEmpty && s.ovr.contains tile,
    old := oldest (rs.map fun h => ageOf s h.1 h.2.1) }

/-- The holders that a conflicting access meets: those in conflict, and once OVR is set every reader and reducer of the
tile as well (17 R335, R336). -/
def foesAt (s : State) (isTx : Bool) (a : AccKind) (tile : Nat) (touching : List (Nat × Nat × Tx)) : List (Nat × Nat) :=
  let foes := touching.filter fun h => conflictsWith isTx a h.2.2 tile
  let all := if !foes.isEmpty && (overlayOf s tile).ovr then touching.filter fun h =>
      conflictsWith isTx a h.2.2 tile || !h.2.2.writeSet.contains tile else foes
  all.map fun h => (h.1, h.2.1)

/-- Decide an access by core k, context n. A transactional access is compared with other transactions only. -/
def judge (s : State) (k n : Nat) (isTx : Bool) (a : AccKind) (pa : Nat) : Verdict :=
  let tile := tileOf pa
  let others := (openTxs s (paPkg pa)).filter fun h => !(isTx && h.1 == k && h.2.1 == n)
  let touching := others.filter fun h => h.2.2.readSet.contains tile || h.2.2.writeSet.contains tile || h.2.2.redSet.contains tile
  if touching.any (fun h => committingAt h.2.2 (homeOf pa)) || releaseDue s tile then .hold
  else
    let names := foesAt s isTx a tile touching
    if isTx then
      if names.all (fun h => olderAge (ageOf s k n) (ageOf s h.1 h.2)) then .go names Abort.conflict else .selfAbort
    else .go names Abort.nontx

def abortLosers (s : State) (tile cause : Nat) : List (Nat × Nat) → State
  | [] => s
  | (k, n) :: hs => abortLosers (loseTile s k n tile cause) tile cause hs

/-! ### merges -/

def applyElems (m : List Host.Cell) (line tag : Nat) : FMap Nat → List Host.Cell
  | [] => m
  | (o, v) :: es =>
    let n := if tag % 2 = 0 then 4 else 8
    applyElems (writeLE m (line * 64 + o) n (combine tag (readLE m (line * 64 + o) n) v)) line tag es

/-- Fold the partials of a set of clusters, ascending, into memory (17 R331); the merge aborts with NONTX every
transaction that holds the tile in its read or write set (05 R138). -/
def mergeHolders (s : State) (line : Nat) : List Nat → State
  | [] => s
  | cl :: cls =>
    let s := match partOf? s line cl with
      | none => s
      | some p => { s with mem := applyElems s.mem line p.tag p.elems }
    mergeHolders (setL2 (delPart (wakeAgents s line cl) line cl) line cl .i) line cls

def mergeAborts (s : State) (line : Nat) : State :=
  let tile := line / 8
  let hs := (openTxs s (paPkg (line * 64))).filter fun h => h.2.2.readSet.contains tile || h.2.2.writeSet.contains tile
  abortLosers s tile Abort.nontx (hs.map fun h => (h.1, h.2.1))

/-- Merge every holder of a line in P; the line is then U (17 R329, R331). -/
def mergeLine (s : State) (line : Nat) : State :=
  let d := dirOf s line
  if d.st = .p then
    let s := mergeAborts (mergeHolders s line (clustersIn d.ph)) line
    setDir s line { d with st := .i, ph := 0 }
  else s

/-- A read of cluster cl, or of an agent that is no cluster (17 R329). -/
def homeRead (s : State) (line : Nat) (cl : Option Nat) : State :=
  let s := mergeLine s line
  let d := dirOf s line
  match cl with
  | none => if d.st = .e ∨ d.st = .m then setDir (shareCopies s line) line { d with st := if d.st = .m then .o else .s } else s
  | some c =>
    let s := addCv s line c
    match d.st with
    | .e => if d.own = c then s else setL2 (setDir (shareCopies s line) line { d with st := .s }) line c .s
    | .m => if d.own = c then s else setL2 (setDir (shareCopies s line) line { d with st := .o }) line c .s
    | .s => setL2 s line c .s
    | .o => if d.own = c then s else setL2 s line c .s
    | _ => setL2 (setDir s line { d with st := .e, own := c }) line c .e

/-- A write or atomic: every other copy goes; the line is M at the cluster, or U for an agent that is no cluster. -/
def homeWrite (s : State) (line : Nat) (cl : Option Nat) : State :=
  let s := mergeLine s line
  let d := dirOf s line
  match cl with
  | none => setDir (dropCopies s line fun _ => false) line { d with st := .i }
  | some c =>
    let s := addCv (dropCopies s line fun x => x == c) line c
    setL2 (setDir s line { d with st := .m, own := c }) line c .m

/-- reduce(t) of cluster cl: copies go, the line is P with the tag and the cluster among its holders. -/
def homeReduce (s : State) (line cl tag : Nat) : State :=
  let d := dirOf s line
  let s := if d.st = .p ∧ d.tag ≠ tag then mergeLine s line else s
  let d := dirOf s line
  if d.st = .p then setL2 (setDir (addCv s line cl) line { d with ph := putBit d.ph cl true }) line cl .p
  else
    let s := addCv (dropCopies s line fun _ => false) line cl
    setL2 (setDir s line { d with st := .p, tag := tag, ph := putBit 0 cl true }) line cl .p

/-- A reduction joins the partial of its cluster's L2 (17 R330). -/
def partialAdd (s : State) (pa cl tag v : Nat) : State :=
  let line := lineOf pa
  let p := (partOf? s line cl).getD { tag := tag }
  let o := pa % 64
  let n := if tag % 2 = 0 then 4 else 8
  let v' := if fhas p.elems o then combine tag (fget 0 p.elems o) v else v % 2 ^ (8 * n)
  setPart s line cl { tag := tag, elems := fset p.elems o v' }

/-! ### the L1 of a core (13 R275, R276) -/

/-- Ways of the data cache: 20 less the granted segments. -/
def l1Ways (c : Core) : Nat := 20 - c.spmBytes / 16384
def l1Set (pa : Nat) : Nat := pa / 64 % 256

def l1Find (c : Core) (line : Nat) : Option L1Line := c.l1.find? fun l => l.line == line && l.st != .i

/-! ### the versioned slice and the ways of the L2 (14 R283, R285; 17 R333, R334) -/

def txTiles (t : Tx) : List Nat := (t.readSet ++ t.writeSet ++ t.redSet).eraseDups

/-- Tiles of a core outside the versioned slice. -/
def tilesInTable (c : Core) : Nat :=
  (c.ctxs.map fun e => match e.2.tx with
    | some t => ((txTiles t).filter fun x => !fhas t.spilled x).length
    | none => 0).sum

def tilesSpilled (c : Core) : Nat :=
  (c.ctxs.map fun e => match e.2.tx with | some t => t.spilled.length | none => 0).sum

/-- The lent way of every version in a cluster's slice. -/
def versionWays (s : State) (cluster : Nat) : List Nat :=
  (s.cores.filter fun e => clusterOf e.1 == cluster).flatMap fun e => e.2.ctxs.flatMap fun c => match c.2.tx with
    | some t => t.spilled.map (·.2)
    | none => []

/-- The owner of the V line of an address in a cluster's slice: core and context (17 R327, R328). -/
def versionOwner (s : State) (cluster line : Nat) : Option (Nat × Nat) :=
  (s.cores.filter fun e => clusterOf e.1 == cluster).findSome? fun e => e.2.ctxs.findSome? fun c => match c.2.tx with
    | some t => if fhas t.spilled (line / 8) && t.spec.any (fun b => lineOf b.1 == line) then some (e.1, c.1) else none
    | none => none

/-- The ways in which ordinary lines of a core's partition may be allocated: its mask without the lent ways. -/
def wayMask (s : State) (k : Nat) : List Nat :=
  let mask : BitVec 24 := match s.parts.find? fun e => e.1 == pkgOf k * 128 + partOf (getCore s k) with
    | some e => e.2.l2mask.getD (clusterIn k) 0
    | none => BitVec.allOnes 24
  (List.range 24).filter fun w => mask.getLsbD w && !(versionWays s (clusterOf k)).contains w

/-- Another line of the same set is in a way of a cluster's L2. The set is PA[20:6] (log entry 77). -/
def wayTaken (s : State) (line cl w : Nat) : Bool :=
  s.l2way.any fun e => e.2 == w && e.1 % 16 == cl && e.1 / 16 % 32768 == line % 32768 && paPkg (e.1 / 16 * 64) == paPkg (line * 64)

/-- The way that a line of core k's cluster takes: the lowest free one. -/
def freeL2Way (s : State) (k line : Nat) : Option Nat := (wayMask s k).find? fun w => !wayTaken s line (clusterIn k) w

/-- The L2 of core k's cluster holds the line or has a way for it; else the line waits for an eviction. -/
def l2Room (s : State) (k line : Nat) : Bool := fhas s.l2way (line * 16 + clusterIn k) || (freeL2Way s k line).isSome

/-- The L2 of core k's cluster takes a way for a line. -/
def l2Take (s : State) (k line : Nat) : State :=
  if fhas s.l2way (line * 16 + clusterIn k) then s
  else match freeL2Way s k line with
    | some w => { s with l2way := fset s.l2way (line * 16 + clusterIn k) w }
    | none => s

/-- The L2 has ways for all of some lines. -/
def l2Rooms (s : State) (k : Nat) : List Nat → Bool
  | [] => true
  | line :: ls => l2Room s k line && l2Rooms (l2Take s k line) k ls

/-- The core's budget of the versioned slice takes one more tile (17 R333). -/
def budgetFits (s : State) (k : Nat) : Bool :=
  let c := getCore s k
  decide (tilesSpilled c < bitsOf c.qtxcfg 31 16 * 128)

/-- A tile of a context is in a lent way of the versioned slice. -/
def lendTile (s : State) (k n tile w : Nat) : State :=
  modCtx s k n fun x =>
    { x with tx := x.tx.map fun t => if fhas t.spilled tile then t else { t with spilled := t.spilled ++ [(tile, w)] } }

/-- A speculative line that leaves the L1 because the L2 gives up its way moves to that way as V, or its transaction aborts
with CAPACITY (17 R333, R334). -/
def versionTo (s : State) (k line w n : Nat) : State :=
  match (getCtx s k n).tx with
  | none => s
  | some t =>
    if fhas t.spilled (line / 8) then s
    else if budgetFits s k then lendTile s k n (line / 8) w
    else loseTile s k n (line / 8) Abort.capacity

/-- The speculative copies of a line in the L1s of a cluster move to a lent way. -/
def versionsTo (s : State) (cluster line w : Nat) : State :=
  (s.cores.filter fun e => clusterOf e.1 == cluster).foldl (fun s e =>
    match e.2.l1.find? fun l => l.line == line && !l.spec.isEmpty with
    | none => s
    | some l =>
      l.spec.foldl (fun s n => versionTo s e.1 line w n)
        (modCore (wakeCore s e.1) e.1 fun c => { c with l1 := c.l1.filter fun o => !(o.line == line && !o.spec.isEmpty) })) s

/-- An access to n bytes is held for a committing transaction: its home has marked the tile, or has not yet received its
release (17 R338). -/
def heldForCommit (s : State) (pa len : Nat) : Bool :=
  let here := fun (t : Nat) => decide (pa / 512 ≤ t) && decide (t * 512 < pa + len)
  (s.msgs.any fun m => match m.kind with
    | .txRelease home tiles => tiles.any fun t => here t && home == homeOf (t * 512)
    | _ => false) ||
  (openTxs s (paPkg pa)).any fun h => (txTiles h.2.2).any fun t => here t && committingAt h.2.2 (homeOf (t * 512))

/-- A line of a way that is lent leaves the L2: a partial line is merged, a dirty one written back, a clean one dropped; its
speculative versions move to the slice. A partial line that a home holds for a commit stays until its release (log entry
78). -/
def clearLine (s : State) (cluster w line : Nat) : State :=
  let cl := cluster % 16
  let s := versionsTo s cluster line w
  if l2Of s line cl = .p then (if heldForCommit s (line * 64) 64 then s else mergeLine s line)
  else
    let d := dirOf s line
    let s := setL2 (mapL1 s line (fun k => clusterIn k != cl) fun _ => []) line cl .i
    setDir s line (if d.own = cl ∧ (d.st = .e ∨ d.st = .m) then { d with st := .i }
      else if d.own = cl ∧ d.st = .o then { d with st := .s } else d)

/-- The lines of a way leave the L2 before the loan (14 R285). -/
def clearWay (s : State) (cluster w : Nat) : State :=
  ((s.l2way.filter fun e => e.2 == w && e.1 % 16 == cluster % 16 && paPkg (e.1 / 16 * 64) == cluster / 16).map (·.1 / 16)).foldl
    (fun s line => clearLine s cluster w line) s

/-- The lent way for one more version: a lent one with room, else the lowest of 18 to 23 that is not lent; a way holds 4,096
tiles. -/
def sliceWay (s : State) (cluster : Nat) : Option Nat :=
  let used := versionWays s cluster
  match (List.range 6).find? fun i => used.contains (18 + i) && decide (used.count (18 + i) < 4096) with
  | some i => some (18 + i)
  | none => ((List.range 6).find? fun i => !used.contains (18 + i)).map (18 + ·)

/-- The core's budget of the versioned slice has room (17 R333). -/
def spillFits (s : State) (k : Nat) : Bool := budgetFits s k && (sliceWay s (clusterOf k)).isSome

/-- Whether one more tile of a context fits in the core's table or in its share of the versioned slice (17 R333). -/
def tileFits (s : State) (k n tile : Nat) : Bool :=
  match (getCtx s k n).tx with
  | none => true
  | some t =>
    if (txTiles t).contains tile || fhas t.spilled tile then true
    else if tilesInTable (getCore s k) < 64 then true
    else spillFits s k

/-- A tile of a context moves to the versioned slice; the way is lent when the lent ones are full. -/
def spillTile (s : State) (k n tile : Nat) : State :=
  match sliceWay s (clusterOf k) with
  | none => s
  | some w =>
    let s := if (versionWays s (clusterOf k)).contains w then s else clearWay s (clusterOf k) w
    lendTile s k n tile w

/-- A speculative line that leaves the L1 moves to the versioned slice, or its transaction aborts with CAPACITY (17 R333,
R334). -/
def keepVersion (s : State) (k line n : Nat) : State :=
  match (getCtx s k n).tx with
  | none => s
  | some t =>
    if fhas t.spilled (line / 8) then s
    else if spillFits s k then spillTile s k n (line / 8)
    else loseTile s k n (line / 8) Abort.capacity

/-! ### allocation in the L1 (13 R276) -/

/-- A victim leaves the L1. -/
def evictL1 (s : State) (k : Nat) (v : L1Line) : State :=
  v.spec.foldl (fun s n => keepVersion s k v.line n)
    (modCore s k fun c => { c with l1 := c.l1.filter fun l => !(l.set == v.set && l.way == v.way) })

/-- A miss of core k on a line is open. -/
def missOpen (s : State) (k line : Nat) : Bool :=
  s.reqs.any fun r => r.core == k && r.parts.any fun p => !p.done && !p.own && lineOf p.pa == line

/-- The lowest invalid way of a set that no open miss has taken. -/
def freeWay (s : State) (k set : Nat) : Option Nat :=
  let c := getCore s k
  (List.range (l1Ways c)).find? fun w => !c.l1.any fun l => l.set == set && l.way == w && (l.st != .i || missOpen s k l.line)

/-- A line's entry in a way. -/
def l1Place (c : Core) (set w line : Nat) : Core :=
  { c with l1 := (c.l1.filter fun l => !(l.set == set && l.way == w)) ++ [{ set := set, way := w, line := line, st := .i }] }

/-- Allocate a line for a miss: the lowest invalid way, else the way at the set's pointer (13 R276). The entry holds no
data until the home answers. -/
def l1Alloc (s : State) (k pa : Nat) : State :=
  let c := getCore s k
  let set := l1Set pa
  if c.l1.any (fun l => l.line == lineOf pa) then s
  else match freeWay s k set with
    | some w => modCore s k fun c => l1Place c set w (lineOf pa)
    | none =>
      let p := fget 0 c.l1ptr set
      let s := match c.l1.find? (fun l => l.set == set && l.way == p) with
        | some v => evictL1 s k v
        | none => s
      modCore s k fun c => { l1Place c set p (lineOf pa) with l1ptr := fset c.l1ptr set ((p + 1) % l1Ways c) }

/-- Entries that wait for a line whose miss is over, by an abort or a failure, are invalid ways again. -/
def clearStale (s : State) (k id : Nat) : State :=
  let open_ := fun (line : Nat) =>
    s.reqs.any fun r => r.id != id && r.core == k && r.parts.any fun p => !p.done && !p.own && lineOf p.pa == line
  modCore s k fun c => { c with l1 := c.l1.filter fun l => l.st != .i || open_ l.line }

/-- The state of a core's entry of a line, if it has one. -/
def l1Put (c : Core) (line : Nat) (st : LineSt) : Core :=
  { c with l1 := c.l1.map fun l => if l.line == line then { l with st := st } else l }

/-- After a read by a core: E when the cluster alone holds the line and no other L1 of it does, else S; its own dirty
copy stays. The core has an entry for the line: one that another core's write took since the issue is allocated again (13
R276). -/
def l1AfterRead (s : State) (k line : Nat) : State :=
  if (l1Find (getCore s k) line).isSome then s
  else
    let others := !(copyHolders s line (· == k)).isEmpty
    let s := mapL1 s line (· == k) fun l => [{ l with st := sharedSt l.st }]
    modCore (l1Alloc s k (line * 64)) k fun c => l1Put c line (if others then .s else match l2Of s line (clusterIn k) with
      | .e => .e | .m => .e | _ => .s)

/-- After a write by a core: M here, no other L1 holds the line. -/
def l1AfterWrite (s : State) (k line : Nat) : State :=
  let s := mapL1 s line (· == k) fun _ => []
  let s := setDir s line { dirOf s line with writer := k + 1 }
  modCore (l1Alloc s k (line * 64)) k fun c => l1Put c line .m

/-! ### reads and writes of memory by agents that keep no copy -/

/-- Lines that n bytes touch. -/
def linesOf (pa n : Nat) : List Nat :=
  if n = 0 then [] else (List.range ((pa + n - 1) / 64 + 1 - pa / 64)).map fun i => pa / 64 + i

/-- Engine, host, walk or remote read: merges first, and aborts with NONTX a transaction that wrote the tile. -/
def agentRead (s : State) (k n : Nat) (pa len : Nat) : Nat × State :=
  let s := (linesOf pa len).foldl (fun s line =>
    let s := match judge s k n false .read (line * 64) with
      | .go ls c => abortLosers s (line / 8) c ls
      | _ => s
    homeRead s line none) s
  (readLE s.mem pa len, s)

/-- Blocks of 1 KiB that n bytes touch, by their frames. -/
def blocksOf (pa n : Nat) : List Nat := (linesOf pa n).map (· / 16) |>.eraseDups

/-- Mark a block of a page. -/
def markBlock (p : Page) (frame : Nat) : Page :=
  let size := if p.big then 2048 else 1
  if p.st == .eft && decide (p.frame ≤ frame) && decide (frame < p.frame + size) && !p.marked.contains (frame - p.frame) then
    { p with marked := p.marked ++ [frame - p.frame] } else p

/-- Mark the blocks of pages in eft that a write of n bytes touches (19 R369). -/
def markEft (s : State) (pa n : Nat) : State := { s with pages := s.pages.map fun p => (blocksOf pa n).foldl markBlock p }

/-- A whole line written by an engine or a vector store is no longer poisoned (12 R273). -/
def unpoison (s : State) (pa len : Nat) : State :=
  { s with poison := s.poison.filter fun l => !(decide (pa ≤ l * 64) && decide (l * 64 + 64 ≤ pa + len)) }

def agentWrite (s : State) (k n : Nat) (pa : Nat) (bs : List Byte) : State :=
  let s := (linesOf pa bs.length).foldl (fun s line =>
    let s := match judge s k n false .write (line * 64) with
      | .go ls c => abortLosers s (line / 8) c ls
      | _ => s
    homeWrite s line none) s
  markEft (unpoison { s with mem := putBytes s.mem pa bs } pa bs.length) pa bs.length

/-! ### deferred traps (12 R257) -/

/-- A deferred trap of a saved context goes into its header: code, address, context, and FLAGS.DEFERRED (12 R257, R268);
beyond eight it is lost (log entry 18). -/
def saveDeferred (s : State) (k n code : Nat) (value : Word) : State :=
  match rankSaved (getCore s k) n with
  | none => s
  | some r =>
    match (List.range 8).find? fun e => readLE s.mem (r.base + 0x500 + 24 * e) 8 == 0 with
    | none => s
    | some e =>
      let s := agentWrite s k n (r.base + 0x500 + 24 * e) (leBytes 8 code ++ leBytes 8 value.toNat ++ leBytes 8 (n % 16))
      agentWrite s k n (r.base + 4) (leBytes 4 (readLE s.mem (r.base + 4) 4 ||| 2))

/-- A deferred trap reaches a context (12 R257): it waits for the next U-mode boundary; inside a transaction it aborts
with FAULT and is not delivered, but HOMELOST, QUIESCE and WATCHDOG are delivered after the abort. -/
def raiseDeferred (s : State) (k n code : Nat) (value : Word) : State :=
  let c := getCtx s k n
  if 16 ≤ n then saveDeferred s k n code value else
  if c.st = .free then s
  else if c.tx.isSome then
    let s := abortCtx s k n Abort.fault 0 (faultAddr code value)
    if code = Cause.homelost ∨ code = Cause.quiesce ∨ code = Cause.watchdog then
      modCtx s k n fun c => { c with deferred := c.deferred ++ [⟨code, value⟩] }
    else s
  else modCtx s k n fun c => { c with deferred := c.deferred ++ [⟨code, value⟩] }

end Sys2Proof.Machine
end

