-- ==== Sys2Proof/Machine/Translate.lean ====
section
/-! DEFINITION. Regions, page tables, TLBs and the owner-cache lookup of an access (14 R290 to R299, 19 R372). -/
namespace Sys2Proof.Machine

/-! ### pages that move (19 R368, R371) -/

/-- Frames of a page. -/
def pageFrames (big : Bool) : Nat := if big then 2048 else 1

/-- A page in handover, in eft with writes held, or as a tail or stale mark does not serve the access (19 R368). -/
def pageAt (s : State) (pa : Nat) : Option Page :=
  s.pages.find? fun p => decide (p.frame ≤ frameOf pa) && decide (frameOf pa < p.frame + pageFrames p.big)

def pageServes (s : State) (pa : Nat) (write : Bool) : Bool :=
  match pageAt s pa with
  | none => true
  | some p => match p.st with
    | .eft => true
    | .eftHold => !write
    | _ => false

/-- Where requests for an address go: through tails, at most two forwards (19 R371). -/
def throughTails (s : State) : Nat → Nat → Nat
  | 0, pa => pa
  | n + 1, pa => match pageAt s pa with
    | some p => if p.st = .tail then throughTails s n (pa - p.frame * 1024 + p.new * 1024) else pa
    | none => pa

/-- The line leaves the caches for writes of a page in eft (19 R369). -/
def pageMoving (s : State) (pa : Nat) : Bool := (pageAt s pa).isSome

/-- The frame that serves an address at last: through tails and stale marks. -/
def resolved (s : State) : Nat → Nat → Nat
  | 0, pa => pa
  | n + 1, pa => match pageAt s pa with
    | some p => if p.st = .tail ∨ p.st = .stale then resolved s n (pa - p.frame * 1024 + p.new * 1024) else pa
    | none => pa

def modPage (s : State) (frame : Nat) (f : Page → Page) : State :=
  { s with pages := s.pages.map fun p => if p.frame == frame then f p else p }


/-- A tail on the way from an address cannot send to the package of its new owner (19 R379). -/
def forwardLost (s : State) : Nat → Nat → Bool
  | 0, _ => false
  | n + 1, pa => match pageAt s pa with
    | some p =>
      if p.st = .tail then
        let a := paPkg (p.frame * 1024)
        let b := paPkg (p.new * 1024)
        (a != b && unreachable s a b) || forwardLost s n (pa - p.frame * 1024 + p.new * 1024)
      else false
    | none => false

/-- What the way from an address to where tails passed a request meets: a lost link (19 R379), or a check there (19 R362). -/
def forwardError (s : State) (k : Nat) (mode : Mode) (first pa n : Nat) (write whole : Bool) : Option Nat :=
  if pa = first then none
  else if forwardLost s 2 first then some Reason.linklost
  else destinationError s k mode pa n write whole

/-- Where a request for an address is served (19 R368, R371). -/
inductive Route where
  | serve (pa : Nat)
  | wait
  | chain
  | stale
  deriving DecidableEq, Repr

def route (s : State) (write : Bool) : Nat → Nat → Route
  | 0, pa => match pageAt s pa with
    | none => .serve pa
    | some p => match p.st with
      | .eft => .serve pa
      | .eftHold => if write then .wait else .serve pa
      | .handover => .wait
      | .tail => .chain
      | .stale => .stale
  | n + 1, pa => match pageAt s pa with
    | none => .serve pa
    | some p => match p.st with
      | .eft => .serve pa
      | .eftHold => if write then .wait else .serve pa
      | .handover => .wait
      | .tail => route s write n (pa - p.frame * 1024 + p.new * 1024)
      | .stale => .stale

/-- A tail records the requesting package and the time of the forward (19 R371, R375). -/
def noteForward (s : State) (pa pkg : Nat) : State :=
  match pageAt s pa with
  | some p => if p.st = .tail then
      modPage s p.frame fun p => { p with
        requesters := fset p.requesters pkg s.cycle,
        acked := p.acked.filter (· != pkg), lastFwd := s.cycle }
    else s
  | none => s

/-- Every tail that a request passes. -/
def noteForwards (s : State) (pkg : Nat) : Nat → Nat → State
  | 0, _ => s
  | n + 1, pa => match pageAt s pa with
    | some p => if p.st = .tail then
        noteForwards (noteForward s pa pkg) pkg n (pa - p.frame * 1024 + p.new * 1024) else s
    | none => s

/-- Remove the owner-cache entry of an addressed frame. -/
def dropOwner (s : State) (cluster pa : Nat) : State :=
  { s with owners := s.owners.filter fun o => !(o.cluster == cluster && decide (o.old ≤ frameOf pa) &&
      decide (frameOf pa < o.old + pageFrames o.big)) }

/-- A redirect on its way to a cluster; one like it that is already on its way is not sent again. -/
def sendOnce (s : State) (k : Nat) (kind : MsgKind) : State :=
  if s.msgs.any fun m => m.kind == kind then s else send s k 15 kind

/-- The redirect for a request that a tail passed on from an address to its owner (19 R371). -/
def followPage (s : State) (k pa q : Nat) : State :=
  if q = pa then s
  else match pageAt s pa with
    | some pg => sendOnce s k (.redirect (clusterOf k) pg.frame (frameOf q / pageFrames pg.big * pageFrames pg.big) pg.big)
    | none => s

/-! ### translation -/

/-- Kinds of translated access: an atomic, red, gsig, ticket or lock instruction needs both R and W (14 R293); `atomic`
is an atomic, `amo` any other of these. -/
inductive Acc where
  | fetch | load | store | amo | atomic
  deriving DecidableEq, Repr

def Acc.writes : Acc → Bool
  | .fetch => false
  | .load => false
  | .store => true
  | .amo => true
  | .atomic => true

def Acc.accessFault : Acc → Nat
  | .fetch => Cause.fetchAccess
  | .load => Cause.loadAccess
  | .store => Cause.storeAccess
  | .amo => Cause.storeAccess
  | .atomic => Cause.storeAccess

def Acc.pageFault : Acc → Nat
  | .fetch => Cause.fetchPage
  | .load => Cause.loadPage
  | .store => Cause.storePage
  | .amo => Cause.storePage
  | .atomic => Cause.storePage

/-- What a translation answers. -/
inductive XRes where
  | spm (off : Nat)
  | phys (pa : Nat)
  | fault (code : Nat)
  /-- the walk waits: for a page in handover, or for the commit of a transaction (17 R338, 19 R368) -/
  | wait
  deriving DecidableEq, Repr

/-- Region n of a set of descriptor words: kind, base and limit block, page size, root (02 R40). -/
structure Region where
  kind : Nat
  base : Nat
  limit : Nat
  pgsz : Bool
  root : Nat
  deriving DecidableEq, Repr

def regionOf (rgn : FMap Word) (n : Nat) : Region :=
  let a := fget 0 rgn (2 * n)
  let b := fget 0 rgn (2 * n + 1)
  { kind := bitsOf b 63 62, base := bitsOf a 31 0, limit := bitsOf a 63 32, pgsz := b.getLsbD 61,
    root := bitsOf b 55 12 }

/-- The lowest region with KIND not 0 that holds a virtual address (02 R40). -/
def findRegion (rgn : FMap Word) (va : Nat) : Option Region :=
  ((List.range 8).map (regionOf rgn)).find? fun r =>
    r.kind != 0 && decide (r.base ≤ va / 65536) && decide (va / 65536 ≤ r.limit)

/-- CheckLeaf (14 R293): whether a leaf entry permits the access. -/
def leafPermits (pte : Word) (acc : Acc) (mode : Mode) (sum mxr : Bool) : Bool :=
  let r := pte.getLsbD 1
  let w := pte.getLsbD 2
  let x := pte.getLsbD 3
  let u := pte.getLsbD 4
  pte.getLsbD 0 && bitsOf pte 63 56 == 0 && !pte.getLsbD 9 && (r || w || x) && !(w && !r) &&
  (match acc with
    | .fetch => x
    | .load => r || (mxr && x)
    | .store => w
    | .amo => r && w
    | .atomic => r && w) &&
  (match mode with
    | .u => u
    | .s => !u || (acc != .fetch && sum)
    | .m => true)

/-- What one access of a table walk gives. -/
inductive WalkWord where
  | word (w : Word)
  | error
  | wait
  deriving DecidableEq, Repr

/-- One access of a table walk, coherent with the stores to the table: the error response is logged, a page that moves is
followed or waited for (14 R294, R301; 17 R338; 19 R368). -/
def walkAccess (s : State) (k n : Nat) (pa : Nat) (write : Bool) (act : State → Nat → Word × State) : WalkWord × State :=
  if paSpace pa = 2 ∨ paSpace pa = 8 ∨ paSpace pa = 15 then (.error, logAccess s k n pa 5 Reason.walkspace)
  else match accessError s k .u pa 8 write false with
    | some r => (.error, logAccess s k n pa 5 r)
    | none => match route s write 2 pa with
      | .wait => (.wait, s)
      | .chain => (.error, logAccess s k n pa 5 Reason.migchain)
      | .stale => (.error, logAccess s k n pa 5 Reason.migstale)
      | .serve q =>
        match forwardError s k .u pa q 8 write false with
        | some r => (.error, logAccess s k n q 5 r)
        | none =>
          if heldForCommit s q 8 then (.wait, s)
          else let (v, s) := act (followPage (noteForwards s (pkgOf k) 2 pa) k pa q) q; (.word v, s)

/-- One read of a table walk (14 R294). -/
def walkRead (s : State) (k n : Nat) (pa : Nat) : WalkWord × State :=
  walkAccess s k n pa false fun s q => let (v, s) := agentRead s k n q 8; (BitVec.ofNat 64 v, s)

/-- The walker sets A or D in an entry that it has just read (14 R294). -/
def walkWrite (s : State) (k n : Nat) (pa : Nat) (pte : Word) : WalkWord × State :=
  walkAccess s k n pa true fun s q => (pte, agentWrite s k n q (leBytes 8 pte.toNat))

/-- What a walk found. -/
inductive Walked where
  | leaf (at_ : Nat) (pte : Word)
  | pageFault
  | accessFault
  | wait
  deriving DecidableEq, Repr

/-- Go on with an entry that a walk reads. -/
def walkStep (r : WalkWord × State) (body : Word → State → Walked × State) : Walked × State :=
  match r with
  | (.word w, s) => body w s
  | (.error, s) => (.accessFault, s)
  | (.wait, s) => (.wait, s)

/-- The walk of R291: one level for 2 MiB pages, two for 1 KiB sub-pages. -/
def walk (s : State) (k n : Nat) (r : Region) (off : Nat) : Walked × State :=
  if r.pgsz = false then
    let at_ := r.root * 4096 + 8 * (off / 2 ^ 21)
    walkStep (walkRead s k n at_) fun pte s => (.leaf at_ pte, s)
  else
    walkStep (walkRead s k n (r.root * 4096 + 8 * (off / 2 ^ 19))) fun ptr s =>
      if ptr.getLsbD 0 = false ∨ bitsOf ptr 11 1 ≠ 0 ∨ bitsOf ptr 63 56 ≠ 0 then (.pageFault, s)
      else
        let at_ := bitsOf ptr 55 12 * 4096 + 8 * (off / 2 ^ 10 % 512)
        walkStep (walkRead s k n at_) fun pte s => (.leaf at_ pte, s)

/-- The physical address of an offset in a page (14 R291). -/
def leafAddr (pgsz : Bool) (pte : Word) (off : Nat) : Nat :=
  if pgsz then bitsOf pte 55 10 * 1024 + off % 1024 else bitsOf pte 55 21 * 2 ^ 21 + off % 2 ^ 21

/-- Lookup of the owner cache for an access through an entry with M = 1 (14 R299, 19 R372). -/
def ownerLookup (s : State) (cluster pa : Nat) : Nat :=
  match s.owners.find? fun o => o.cluster == cluster && decide (o.old ≤ frameOf pa) &&
      decide (frameOf pa < o.old + pageFrames o.big) with
  | some o => pa - o.old * 1024 + o.new * 1024
  | none => pa

def tlbFind (ts : List TlbEntry) (part seq : Nat) (r : Region) (page : Nat) : Option TlbEntry :=
  ts.find? fun t => t.part == part && t.base == r.base && t.pgsz == r.pgsz && t.root == r.root && t.page == page &&
    (t.pte.getLsbD 5 || t.seq == seq)

/-- Keep a walked entry; the oldest goes when the TLB is full (replacement is not architected; log entry 9). -/
def tlbAdd (cap : Nat) (ts : List TlbEntry) (t : TlbEntry) : List TlbEntry :=
  (t :: ts.filter fun o => !(o.part == t.part && o.base == t.base && o.pgsz == t.pgsz && o.root == t.root &&
    o.page == t.page && o.seq == t.seq)).take cap

/-- Bytes of the scratchpad of the rank that a context belongs to. -/
def grantAs (s : State) (k n : Nat) : Nat :=
  let c := getCore s k
  if n < 16 then c.spmBytes else match rankSaved c n with
    | some r => r.spmBytes
    | none => 0

/-- The region descriptors of the rank that a context belongs to: a saved one's are in its header (12 R268, 19 R374). -/
def rgnAs (s : State) (k n : Nat) : FMap Word :=
  if n < 16 then (getCore s k).qrgn
  else match rankSaved (getCore s k) n with
    | some r => (List.range 16).map fun i => (i, BitVec.ofNat 64 (readLE s.mem (r.base + 0x60 + 8 * i) 8))
    | none => []

/-- The entry of the TLBs for a page: the core's own, then its cluster's. The save agent of a saved rank uses none. -/
def tlbHit (s : State) (k n : Nat) (r : Region) (page : Nat) (acc : Acc) : Option TlbEntry :=
  let co := getCore s k
  let seq := bitsOf co.qlaunch 31 0
  if 16 ≤ n then none
  else match tlbFind (if acc = .fetch then co.itlb else co.dtlb) (partOf co) seq r page with
    | some t => some t
    | none => tlbFind (fget [] s.l2tlb (clusterOf k)) (partOf co) seq r page

/-- The TLBs keep a walked entry. -/
def tlbKeep (s : State) (k n : Nat) (acc : Acc) (t : TlbEntry) : State :=
  if 16 ≤ n then s
  else
    let s := modCore s k fun c =>
      if acc = .fetch then { c with itlb := tlbAdd 32 c.itlb t } else { c with dtlb := tlbAdd 64 c.dtlb t }
    { s with l2tlb := fset s.l2tlb (clusterOf k) (tlbAdd 8192 (fget [] s.l2tlb (clusterOf k)) t) }

/-- The address that a leaf entry gives, with `owner` through the owner cache for an entry with M = 1 (14 R299). -/
def leafPlace (s : State) (k : Nat) (r : Region) (owner : Bool) (pte : Word) (off : Nat) : XRes :=
  let pa := leafAddr r.pgsz pte off
  .phys (if owner && pte.getLsbD 8 then ownerLookup s (clusterOf k) pa else pa)

/-- The page of an offset in a region. -/
def pageNo (r : Region) (off : Nat) : Nat := if r.pgsz then off / 1024 else off / 2 ^ 21

/-- CheckLeaf for an access of a context in a mode (14 R291, R293). -/
def leafOk (s : State) (k n : Nat) (mode : Mode) (r : Region) (acc : Acc) (pte : Word) : Bool :=
  let c := getCtx s k n
  leafPermits pte acc mode (c.mstatus.getLsbD 18) (c.mstatus.getLsbD 19) && (r.pgsz || bitsOf pte 20 10 == 0)

/-- The translation through the page table (14 R291 to R294), with `owner` through the owner cache. -/
def translateWalk (s : State) (k n : Nat) (r : Region) (owner : Bool) (off : Nat) (acc : Acc) (ok : Word → Bool) : XRes × State :=
  match walk s k n r off with
  | (.accessFault, s) => (.fault acc.accessFault, s)
  | (.pageFault, s) => (.fault acc.pageFault, s)
  | (.wait, s) => (.wait, s)
  | (.leaf at_ pte, s) =>
    if ok pte = false then (.fault acc.pageFault, s)
    else
      let pte' := putBit (if acc.writes then putBit pte 7 true else pte) 6 true
      match (if pte' = pte then (.word pte, s) else walkWrite s k n at_ pte') with
      | (.error, s) => (.fault acc.accessFault, s)
      | (.wait, s) => (.wait, s)
      | (.word _, s) =>
        let co := getCore s k
        let s := tlbKeep s k n acc { part := partOf co, base := r.base, pgsz := r.pgsz, root := r.root, page := pageNo r off,
                                     seq := bitsOf co.qlaunch 31 0, pte := pte' }
        (leafPlace s k r owner pte' off, s)

/-- Translate(va, kind) of a core's context in a mode, with given descriptors (14 R290 to R294, R297). -/
def translateWith (s : State) (k n : Nat) (mode : Mode) (rgn : FMap Word) (va : Nat) (acc : Acc) : XRes × State :=
  if mode = .m then
    if 2 ^ 56 ≤ va then (.fault acc.accessFault, s) else (.phys va, s)
  else if 2 ^ 48 ≤ va then (.fault acc.accessFault, s)
  else match findRegion rgn va with
    | none => (.fault acc.accessFault, s)
    | some r =>
      let off := va - r.base * 65536
      if r.kind = 2 then
        if grantAs s k n ≤ off ∨ acc = .fetch then (.fault acc.accessFault, s) else (.spm off, s)
      else
        let ok := leafOk s k n mode r acc
        match tlbHit s k n r (pageNo r off) acc with
        | some t => if ok t.pte && (!acc.writes || t.pte.getLsbD 7) then (leafPlace s k r true t.pte off, s)
          else translateWalk s k n r true off acc ok
        | none => translateWalk s k n r true off acc ok

/-- Translate of the executing context with the core's descriptors. -/
def translate (s : State) (va : Word) (acc : Acc) : XRes × State :=
  translateWith s s.turn s.cur (me s).mode (myCore s).qrgn va.toNat acc

/-- The kind of access of a number, and its number (02 R20). -/
def accOf (n : Nat) : Acc :=
  match n with
  | 0 => .fetch
  | 1 => .load
  | 2 => .store
  | 3 => .amo
  | _ => .atomic

def Acc.code : Acc → Nat
  | .fetch => 0
  | .load => 1
  | .store => 2
  | .amo => 3
  | .atomic => 4

/-- A walk that ignores the TLBs (14 R299, 19 R374): the frame that the tables name now for the access, which it must still
permit, with A and D set, and without the owner cache. -/
def walkAgain (s : State) (k n : Nat) (mode : Mode) (rgn : FMap Word) (va : Nat) (acc : Acc) : XRes × State :=
  if mode = .m then (.phys va, s)
  else match findRegion rgn va with
    | none => (.fault acc.accessFault, s)
    | some r =>
      if r.kind = 2 then (.fault acc.accessFault, s)
      else translateWalk s k n r false (va - r.base * 65536) acc (leafOk s k n mode r acc)

/-- The launch of the rank that a context of a core belongs to, as the checks of its accesses see it. -/
def checkAs (s : State) (k n : Nat) (mode : Mode) (pa len : Nat) (acc : Acc) (whole : Bool) : Option Nat :=
  accessError (viewFor s k n) k mode pa len acc.writes whole

/-- Where a main-memory access of core k is served: through tails; an answer MIGCHAIN or MIGSTALE is resolved by one walk
(14 R299, 19 R374). The last answer is a reason of an error response, with the address that gave it; a walk that permits the
access no more ends it with the reason of the answer (log entry 86). -/
inductive Served where
  | at_ (pa : Nat)
  | wait
  | error (pa reason : Nat)
  deriving DecidableEq, Repr

/-- A request that passed tails from an address to its owner: the owner's checks, the tails' records and the redirect (19
R362, R371). -/
def servedAt (s : State) (k : Nat) (mode : Mode) (len : Nat) (acc : Acc) (whole : Bool) (first pa : Nat) : Served × State :=
  match forwardError s k mode first pa len acc.writes whole with
  | some r => (.error pa r, s)
  | none => (.at_ pa, followPage (noteForwards s (pkgOf k) 2 first) k first pa)

def served (s : State) (k n : Nat) (mode : Mode) (rgn : FMap Word) (va pa len : Nat) (acc : Acc) (whole : Bool) : Served × State :=
  match route s acc.writes 2 pa with
  | .serve q => servedAt s k mode len acc whole pa q
  | .wait => (.wait, s)
  | first =>
    let reason := if first = .chain then Reason.migchain else Reason.migstale
    match walkAgain (dropOwner (noteForwards s (pkgOf k) 2 pa) (clusterOf k) pa) k n mode rgn va acc with
    | (.phys pa2, s) => match checkAs s k n mode pa2 len acc whole with
      | some r => (.error pa2 r, s)
      | none => match route s acc.writes 2 pa2 with
        | .serve q => servedAt s k mode len acc whole pa2 q
        | .wait => (.wait, s)
        | .chain => (.error pa2 Reason.migchain, s)
        | .stale => (.error pa2 Reason.migstale, s)
    | (.wait, s) => (.wait, s)
    | (_, s) => (.error pa reason, s)

end Sys2Proof.Machine
end

