-- ==== Sys2Proof/Machine/Request.lean ====
section
/-! DEFINITION. Outstanding requests: how an instruction issues accesses, in which order they may be performed (16 R313
to R326), how each is performed at its point of execution (05 R121), and the scoreboard (05 R145, 07 R183). -/
namespace Sys2Proof.Machine

/-! ### the scoreboard -/

/-- The stored ranges of a logical range: shifted when it lies in one remap entry; else itself with the twins' share of
the entries it meets (05 R149). -/
def storedRanges (c : Core) (shadow : Bool) (r : Nat × Nat) : List (Nat × Nat) :=
  match remapAt c r.1 with
  | some e =>
    if r.1 + r.2 ≤ e.log * 64 + e.size * 64 then [(remapOff c shadow r.1, r.2)] else r :: twins
  | none => r :: twins
where
  twins : List (Nat × Nat) := (List.range 8).filterMap fun i =>
    let e := fget {} c.remap i
    let lo := max r.1 (e.log * 64)
    let hi := min (r.1 + r.2) (e.log * 64 + e.size * 64)
    if e.valid && (e.sel != shadow) && decide (lo < hi) then some (lo - e.log * 64 + e.twin * 64, hi - lo) else none

/-- The range that a copy has still to read, and to write, as offsets and lengths (05 R144, R145). -/
def copyReads (x : CopyCmd) : List (Nat × Nat) :=
  if x.srcS then
    let lo := x.src + x.pos / x.rowBytes * x.spitch + x.pos % x.rowBytes
    [(lo, x.src + (x.rows - 1) * x.spitch + x.rowBytes - lo)]
  else []

def copyWrites (x : CopyCmd) : List (Nat × Nat) :=
  if x.dstS then
    let lo := x.dst + x.pos / x.rowBytes * x.dpitch + x.pos % x.rowBytes
    [(lo, x.dst + (x.rows - 1) * x.dpitch + x.rowBytes - lo)]
  else []

/-- The bytes from an address that K rows or columns in slices of 64 reach (07 R188): full slices end after `full`
bytes, the last, partial one after `last`. -/
def sliceReach (k tilep full last : Nat) : Nat :=
  max (if 64 ≤ k then (k / 64 - 1) * tilep + full else 0) (if k % 64 = 0 then 0 else k / 64 * tilep + last)

def mtxElem (code : Nat) : Nat :=
  if code = 0 ∨ code = 1 then 2 else if code = 9 then 4 else 1
/-- Element bytes of the B operand: mm.qbf pairs QE8 with BF16 (07 R191). -/
def mtxElemB (code : Nat) : Nat := if code = 7 then 2 else if code = 0 ∨ code = 1 then 2 else if code = 9 then 4 else 1
def mtxIsQe (code : Nat) : Bool := code == 6 || code == 7
/-- Group size G and K unit (07 R191). -/
def mtxGroup (code : Nat) : Nat := if code = 0 ∨ code = 1 ∨ code = 7 then 8 else if code = 9 then 4 else 16
def mtxKUnit (code : Nat) : Nat := if mtxIsQe code then 32 else mtxGroup code

def opKind (w : Word) : Nat := bitsOf w 55 52
def opRot (w : Word) : Nat := bitsOf w 51 48
def opAddr (w : Word) : Nat := bitsOf w 47 0
def opKlen (w : Word) : Nat := bitsOf w 43 32
def opTilep (w : Word) : Nat := bitsOf w 31 16
def opRowp (w : Word) : Nat := bitsOf w 15 0
/-- Bytes of an ma.ld or ma.st element (07 R200). -/
def fmtBytes (fmt : Nat) : Nat := if fmt = 0 ∨ fmt = 1 then 2 else if fmt = 2 ∨ fmt = 5 then 4 else 1

/-- Bytes of a result of la.rnd. -/
def ftBytes (ft : Nat) : Nat := if ft < 2 then 2 else if ft = 2 then 4 else 8
/-- Bytes that the A operand of a multiply reaches from its address: 64 rows of K elements (07 R188). -/
def reachA (w1 : Word) (k elem : Nat) : Nat :=
  sliceReach k (opTilep w1) (63 * opRowp w1 + 64 * elem) (63 * opRowp w1 + k % 64 * elem)
/-- Bytes that B reaches: K rows of 64 elements. -/
def reachB (w1 : Word) (k elem : Nat) : Nat :=
  sliceReach k (opTilep w1) (63 * opRowp w1 + 64 * elem) ((k % 64 - 1) * opRowp w1 + 64 * elem)
/-- Rows of B that the command names: half of them when it is paired (07 R196). -/
def rowsOfB (a1 : Word) : Nat := if a1.getLsbD 52 then opKlen a1 / 2 else opKlen a1
/-- Bytes of an ma.ld or ma.st area of 64 rows. -/
def areaReach (w1 : Word) (elem : Nat) : Nat := 63 * opRowp w1 + 64 * elem

/-- Scratchpad ranges that a matrix command reads, and writes, in the issuer's scratchpad: the one range of a grouped
ma.st, which covers its table too, is a written one (07 R183). -/
def mtxReads (c : Core) (x : MtxCmd) : List (Nat × Nat) :=
  if x.consumed then []
  else if x.code ≤ 9 then
    (if opKind x.a0 = 0 then
      [if mtxIsQe x.code then (opAddr x.a0, c.spmBytes - opAddr x.a0)
       else (opAddr x.a0, reachA x.a1 (opKlen x.a1) (mtxElem x.code))]
     else []) ++
    (if x.a1.getLsbD 51 then [(0, c.spmBytes)]
     else if opKind x.b0 = 0 then [(opAddr x.b0, reachB x.b1 (rowsOfB x.a1) (mtxElemB x.code))] else [])
  else if x.code = 17 then
    (if opKind x.a0 = 0 then [(opAddr x.a0, areaReach x.a1 (fmtBytes (bitsOf x.a1 18 16)))] else [])
  else if x.code = 23 then (if opKind x.a0 = 0 then [(opAddr x.a0, 88)] else [])
  else if x.code = 24 then (if opKind x.b0 = 0 then [(opAddr x.b0, 88)] else [])
  else if x.code = 27 then (if opKind x.b0 = 0 then [(opAddr x.b0, 256)] else [])
  else []

def mtxWrites (c : Core) (x : MtxCmd) : List (Nat × Nat) :=
  if x.code = 18 then
    (if x.a1.getLsbD 51 then [(0, c.spmBytes)]
     else if opKind x.a0 = 0 then [(opAddr x.a0, areaReach x.a1 (fmtBytes (bitsOf x.a1 18 16)))] else []) ++
    (if x.a1.getLsbD 19 then [(bitsOf x.a1 49 32, 256)] else [])
  else if x.code = 20 ∨ x.code = 21 ∨ x.code = 22 ∨ x.code = 24 then [(opAddr x.a0, 88)]
  else if x.code = 23 then (if opKind x.a1 = 0 then [(opAddr x.a1, ftBytes x.m)] else [])
  else if x.code = 25 ∨ x.code = 26 ∨ x.code = 27 then [(opAddr x.a0, 256)]
  else []

def gatherReads (x : GatherCmd) : List (Nat × Nat) :=
  (x.idx, 4 * x.count) :: (if x.scatter then [(x.buf, x.count * x.esz)] else [])
def gatherWrites (x : GatherCmd) : List (Nat × Nat) := if x.scatter then [] else [(x.buf, x.count * x.esz)]

def overlaps (a b : Nat × Nat) : Bool := decide (a.1 < b.1 + b.2) && decide (b.1 < a.1 + a.2)
def anyOverlap (xs ys : List (Nat × Nat)) : Bool := xs.any fun x => ys.any fun y => overlaps x y

/-- Gather commands of the rank that runs. -/
def ownGathers (c : Core) : List GatherCmd := c.gq.filter fun g => decide (g.ctx < 16)

/-- Ranges in use: one per scratchpad range of each command (05 R144, 07 R183). -/
def rangesInUse (c : Core) : Nat :=
  (c.cq.map fun x => if x.ranged then (copyReads x).length + (copyWrites x).length else 0).sum +
  (c.mq.map fun x => (mtxReads c x).length + (mtxWrites c x).length).sum +
  ((ownGathers c).map fun x => 2).sum

/-- Stored ranges of a list. -/
def storedAll (c : Core) (shadow : Bool) (rs : List (Nat × Nat)) : List (Nat × Nat) := rs.flatMap (storedRanges c shadow)

/-- Engine commands of a core earlier in program order that ranges must wait for: RAW and WAW against their writes, WAR
against their reads where the later one writes (05 R145); reads of an entry wait for a cp.pub in flight (05 R150).
`reads` and `writes` are stored ranges, `entries` the logical ranges read. -/
def scoreWaits (c : Core) (order : Nat) (reads writes entries : List (Nat × Nat)) : Bool :=
  let rw := reads ++ writes
  (c.cq.any fun x => decide (x.order < order) &&
    (anyOverlap (storedAll c x.shadow (copyWrites x)) rw || anyOverlap (storedAll c false (copyReads x)) writes)) ||
  (c.mq.any fun x => decide (x.order < order) && x.status.isNone &&
    (anyOverlap (storedAll c false (mtxWrites c x)) rw || anyOverlap (storedAll c false (mtxReads c x)) writes)) ||
  ((ownGathers c).any fun x => decide (x.order < order) && x.status.isNone &&
    (anyOverlap (storedAll c false (gatherWrites x)) rw || anyOverlap (storedAll c false (gatherReads x)) writes)) ||
  (c.pubs.any fun p => decide (p.order < order) && !p.flipped && p.op == 0 &&
    (let e := fget {} c.remap p.entry; anyOverlap [(e.log * 64, e.size * 64)] entries))

/-- The wait of one access of the own scratchpad. -/
def spmWaits (c : Core) (order lo n : Nat) (write : Bool) : Bool :=
  let rs := storedRanges c false (lo, n)
  scoreWaits c order (if write then [] else rs) (if write then rs else []) (if write then [] else [(lo, n)])

/-- Own-scratchpad accesses of a core, issued earlier and not yet performed, that an engine command must wait for. -/
def accessWaits (s : State) (k order : Nat) (reads writes : List (Nat × Nat)) : Bool :=
  let c := getCore s k
  s.reqs.any fun r => r.core == k && decide (r.order < order) && r.parts.any fun p =>
    p.own && !p.done && p.n != 0 &&
    (let rs := storedRanges c false (p.pa, p.n)
     if (match r.kind with | .load => false | _ => true) then anyOverlap rs (reads ++ writes) else anyOverlap rs writes)

/-! ### order among the accesses of a context -/

/-- A remote request (19 R363): its address named another package at issue, wherever it has been moved or sent again since. -/
def partRemote (_s : State) (k : Nat) (p : Part) : Bool :=
  p.far || (paPkg (p.named.getD p.pa) != pkgOf k && decide (p.pa < 2 ^ 56) && !p.own)

def reqDone (r : Req) : Bool := r.parts.all (·.done)
def isWriteKind : ReqKind → Bool
  | .load | .compute | .pageState | .lockState => false
  | .store | .atomic _ | .reduce _ | .signal | .ticketGet | .ticketAdv => true

/-- Lines of other packages of a request that wait to be performed, ascending (05 R116, 19 R363). -/
def remoteLines (s : State) (k : Nat) (r : Req) : List Nat :=
  ((r.parts.filter fun p => partRemote s k p && !p.done).map fun p => lineOf p.pa).eraseDups

/-- Requests of one instruction to other packages not yet answered: its lines, and the last answer until it arrives. -/
def remoteOpen (s : State) (k : Nat) (r : Req) : Nat :=
  if reqDone r then (if r.parts.any fun p => partRemote s k p then 1 else 0) else (remoteLines s k r).length

/-- The lock requests of a context that await their status. -/
def lockRequests (c : Context) : List LockWait := c.lockWait.toList ++ c.lockTries

/-- The wait that a context is in, and the one that an upcall interrupted (12 R258). -/
def waitsOf (c : Context) : List Wait :=
  (match c.st with
    | .waiting w => [w]
    | _ => []) ++ c.keptWait.toList

/-- The watch of a wait. -/
def watchIn : Wait → Option Watch
  | .word w _ _ _ => some w
  | .ticket w _ => some w
  | _ => none

def watchesOf (c : Context) : List Watch := (waitsOf c).filterMap watchIn

/-- A physical address of another package than core k's. -/
def farFrom (k pa : Nat) : Bool := decide (pa < 2 ^ 56) && paPkg pa != pkgOf k

/-- The watches of a context at homes of other packages, by the addresses that they first named (19 R363). -/
def watchesFar (k : Nat) (c : Context) : List Watch := (watchesOf c).filter fun w => farFrom k w.named

/-- Lock requests, lock releases and watches of a core at homes of other packages (19 R363). -/
def remoteWaits (s : State) (k : Nat) : Nat :=
  ((getCore s k).ctxs.map fun e =>
    ((lockRequests e.2).filter fun w => farFrom k w.named).length + (watchesFar k e.2).length).sum +
  (s.msgs.filter fun m => m.core == k && (match m.kind with | .lockRel line _ => farFrom k (line * 64) | _ => false)).length

/-- Requests to other packages that the requests of a core which pass a test still need. -/
def remoteNeeded (s : State) (k : Nat) (p : Req → Bool) : Nat :=
  ((s.reqs.filter fun r => r.core == k && p r).map (remoteOpen s k)).sum + remoteWaits s k

/-- Requests to other packages that a core has issued and not had answered, sent or not: those of an instruction in the
vector queue too, since no later one issues before they are sent (05 R116). -/
def remotePending (s : State) (k : Nat) : Nat := remoteNeeded s k fun _ => true

/-- Requests to other packages that are performed and not yet answered, with the watches, lock requests and lock releases. -/
def remoteAnswering (s : State) (k : Nat) : Nat :=
  ((s.reqs.filter fun r => r.core == k && !r.queued && reqDone r).map (remoteOpen s k)).sum + remoteWaits s k

/-- The lines that a core has sent and not had answered: in the order of issue, ascending within an instruction, as many as
the limit leaves room for (05 R116). -/
def linesSent (s : State) (k : Nat) : List Nat :=
  ((s.reqs.filter fun r => r.core == k && !r.queued).flatMap fun r => sortBy (fun a b => decide (a ≤ b)) (remoteLines s k r)).take
    ((getCore s k).qmaxout.toNat - remoteAnswering s k)

/-- qoutst.COUNT (02 R39): of an access over more lines than the limit, the lines that are sent. -/
def outstandingRemote (s : State) (k : Nat) : Nat := (linesSent s k).length + remoteAnswering s k

/-- The line of a part is one that the core has sent. -/
def remoteSent (s : State) (k : Nat) (pa : Nat) : Bool := (linesSent s k).contains (lineOf pa)

/-- One address for a location: the window address of a byte of a scratchpad, the serving frame of a page that has moved
(16 R314, R316, R325). -/
def placeOfPart (s : State) (k : Nat) (p : Part) : Nat := if p.own then windowOf k p.pa else resolved s 8 p.pa

def partOverlap (s : State) (k : Nat) (p q : Part) : Bool := overlaps (placeOfPart s k p, p.n) (placeOfPart s k q, q.n)

def sameLine (s : State) (k : Nat) (p q : Part) : Bool := lineOf (placeOfPart s k p) == lineOf (placeOfPart s k q)

/-- Earlier requests of the same context. -/
def earlier (s : State) (r : Req) : List Req :=
  s.reqs.filter fun q => q.core == r.core && q.ctx == r.ctx && decide (q.order < r.order)

/-- A request that is not performed. -/
def undone (s : State) (id : Nat) : Bool := s.reqs.any fun r => r.id == id && !reqDone r

/-- Accesses of a context that are not performed, with those that it follows itself. -/
def undoneOf (s : State) (k n : Nat) : List Nat :=
  ((s.reqs.filter fun r => r.core == k && r.ctx == n && r.kind != .compute && !reqDone r).map (·.id)) ++
    (getCtx s k n).after.filter (undone s)

/-- What later accesses and engine commands of a context follow: accesses of other contexts (04 R85), its own pending
acquires (05 R122) and its lock requests, whose grant is an acquire (16 R317). -/
def acquiresOf (s : State) (k n : Nat) : List Nat :=
  let c := getCtx s k n
  c.after.filter (undone s) ++
    ((s.reqs.filter fun r => r.core == k && r.ctx == n && r.acq.isSome && !reqDone r).map (·.id)) ++
    (lockRequests c).map (·.order)

/-- What an engine command of a context follows beside: the stores before a fence at ctx scope, whose instance is the context
and its commands (16 R312, R317). -/
def commandAfter (s : State) (k n : Nat) : List Nat :=
  acquiresOf s k n ++ (getCtx s k n).cmdAfter.filter (undone s)

/-- Every one of some accesses and lock requests of a core is performed or answered. -/
def followed (s : State) (k : Nat) (ids : List Nat) : Bool :=
  ids.all fun i => !undone s i && !(getCore s k).ctxs.any fun e => (lockRequests e.2).any fun w => w.order == i

/-- Whether an engine command waits: for the acquires before it, and against commands and accesses before it (05 R122,
R145). Logical ranges. -/
def engineWaits (s : State) (k order : Nat) (after : List Nat) (shadow : Bool) (reads writes : List (Nat × Nat)) : Bool :=
  let c := getCore s k
  let rs := storedAll c false reads
  let ws := storedAll c shadow writes
  !followed s k after || scoreWaits c order rs ws reads || accessWaits s k order rs ws

/-- An nput of a context, issued before an access, has not reached its target. -/
def nputBefore (s : State) (k n order : Nat) : Bool :=
  s.msgs.any fun m => m.core == k && m.ctx == n && decide (m.id < order) && (match m.kind with | .nput _ _ => true | _ => false)

/-- What a release of a context follows: its accesses before the release, and those of other contexts that it follows (05
R126, 16 R317, R318). -/
def earlierOpen (s : State) (k n order : Nat) : Bool :=
  (s.reqs.any fun r => r.core == k && r.ctx == n && decide (r.order < order) && !reqDone r) || (getCtx s k n).after.any (undone s)

/-- A release of a context that is no access itself waits: for its earlier accesses, and for its earlier fills of other cores
(04 R102, 05 R126, R132). -/
def releaseBehind (s : State) (k n order : Nat) : Bool := earlierOpen s k n order || nputBefore s k n order

def isRelease (r : Req) : Bool := r.rel.isSome || r.kind == .signal

/-- A release at host or system scope (16 R326). -/
def isWideRelease (r : Req) : Bool := r.kind == .signal || r.rel.any (fun sc => decide (9 ≤ sc))

def hostPart (p : Part) : Bool := isHost p.pa && !p.own

/-- The release of a lock of another package, issued by a context before an access, has not reached its home. -/
def farReleaseBefore (s : State) (k n order : Nat) : Bool :=
  s.msgs.any fun m => m.core == k && m.ctx == n && decide (m.id < order) &&
    (match m.kind with | .lockRel line _ => farFrom k (line * 64) | _ => false)

/-- What holds part p of request r because of an earlier request q of its context: an acquire; everything for a release;
program order to the same bytes, but a plain load passes the context's own plain stores, whose bytes it then reads; and
between writes of one line; and to a host window, with the wide releases before it (16 R314 to R317, R326). -/
def heldBy (s : State) (r : Req) (p : Part) (q : Req) : Bool :=
  let w := isWriteKind r.kind
  !(reqDone q || (q.acq.isNone && !isRelease r && !(hostPart p && isWideRelease q))) ||
  q.parts.any (fun o => !o.done &&
    ((partOverlap s r.core p o && (w || q.kind != .store || r.kind != .load)) ||
     (w && isWriteKind q.kind && sameLine s r.core p o) || (hostPart p && hostPart o)))

/-- Whether part p of request r may be performed now: after the accesses of other contexts that it follows, after the lock
requests before it, whose grant is an acquire, after the fills that its release orders, and after what earlier
requests of its context hold it for. -/
def orderAllows (s : State) (r : Req) (p : Part) : Bool :=
  !r.queued && !p.done && followed s r.core r.after &&
  ((lockRequests (getCtx s r.core r.ctx)).all fun w => decide (r.order < w.order)) &&
  !(isRelease r && nputBefore s r.core r.ctx r.order) &&
  !(hostPart p && farReleaseBefore s r.core r.ctx r.order) &&
  !(earlier s r).any (heldBy s r p) &&
  (!isWriteKind r.kind || (r.parts.takeWhile (· != p)).all fun o => o.done || !partOverlap s r.core p o)

/-- Lay the bytes of an earlier store over the bytes of a read. -/
def overlayBytes (pa n : Nat) (bs : List Byte) (q : Nat) (ds : List Byte) : List Byte :=
  (List.range n).map fun i =>
    if q ≤ pa + i ∧ pa + i < q + ds.length then (ds[pa + i - q]?).getD 0 else (bs[i]?).getD 0

/-- The context's own earlier stores that are not yet performed. -/
def forwardOwn (s : State) (r : Req) (p : Part) (bs : List Byte) : List Byte :=
  (earlier s r).foldl (fun bs q => if q.kind = .store then
    q.parts.foldl (fun bs o => if o.done then bs else
      overlayBytes (placeOfPart s r.core p) p.n bs (placeOfPart s r.core o) (leBytes o.n o.data)) bs
    else bs) bs

/-! ### transactional bookkeeping (05 R137, 17 R333) -/

/-- Put a tile into a list of tiles. -/
def addTile (tile : Nat) (xs : List Nat) : List Nat := if xs.contains tile then xs else xs ++ [tile]

/-- A transaction with a tile in the set that a kind of access uses. -/
def withTile (t : Tx) (a : AccKind) (tile : Nat) (va : Word) : Tx :=
  let t := { t with tileVa := if fhas t.tileVa tile then t.tileVa else fset t.tileVa tile va }
  match a with
  | .read => { t with readSet := addTile tile t.readSet }
  | .write => { t with writeSet := addTile tile t.writeSet }
  | .reduce => { t with redSet := addTile tile t.redSet }

/-- A new tile of a context finds the core's table full: it goes to the versioned slice (17 R333). -/
def tileOver (s : State) (k n tile : Nat) : Bool :=
  match (getCtx s k n).tx with
  | none => false
  | some t => !(txTiles t).contains tile && !fhas t.spilled tile && !decide (tilesInTable (getCore s k) < 64)

/-- A fifth reader or reducer of a tile sets OVR, which the first one finds clear (17 R335). -/
def noteReader (s : State) (tile : Nat) : State :=
  let n := (readersAt (openTxs s (paPkg (tile * 512))) tile).length
  if 5 ≤ n then { s with ovr := addTile tile s.ovr } else if n ≤ 1 then { s with ovr := s.ovr.filter (· != tile) } else s

/-- Add a tile to a set of the open transaction. -/
def trackTile (s : State) (k n : Nat) (a : AccKind) (pa va : Nat) : State :=
  let s := if tileOver s k n (tileOf pa) then spillTile s k n (tileOf pa) else s
  let base : Word := BitVec.ofNat 64 (va / 512 * 512)
  noteReader (modCtx s k n fun c => { c with tx := c.tx.map fun t => withTile t a (tileOf pa) base }) (tileOf pa)

/-- Bytes as the transaction sees them: its speculative bytes over memory (05 R137). -/
def specRead (t : Tx) (m : List Host.Cell) : Nat → Nat → List Byte
  | _, 0 => []
  | a, n + 1 => (if fhas t.spec a then fget 0 t.spec a else byteAt m a) :: specRead t m (a + 1) n

def specWrite (t : Tx) : Nat → List Byte → Tx
  | _, [] => t
  | a, b :: bs => specWrite { t with spec := fset t.spec a b } (a + 1) bs

/-! ### performing a part -/

/-- Replace request id. -/
def mapReq (s : State) (id : Nat) (f : Req → Req) : State :=
  { s with reqs := s.reqs.map fun r => if r.id == id then f r else r }
def findReq (s : State) (id : Nat) : Option Req := s.reqs.find? fun r => r.id == id

/-- Part i is done with a value. A request that fills nothing and waits for no acknowledgement leaves. -/
def partDone (s : State) (id i v : Nat) : State :=
  let s := mapReq s id fun r => { r with parts := r.parts.mapIdx fun j p => if j = i then { p with done := true, res := v } else p }
  { s with reqs := s.reqs.filter fun r => !(r.id == id && reqDone r && r.dst == .none && r.fail.isNone &&
      !(r.parts.any fun p => partRemote s r.core p)) }

/-- The request fails: nothing of it is performed any more, its reply reports the cause (14 R302). -/
def failReq (s : State) (id cause : Nat) (va : Nat) : State :=
  mapReq s id fun r => { r with
    fail := some (cause, BitVec.ofNat 64 va),
    parts := r.parts.map fun p => { p with done := true } }

/-- Kind code of an ACCESS event (20 R391). -/
def kindCode : ReqKind → Nat
  | .load => 1
  | .store => 2
  | _ => 3

/-- The error response of a part, logged. -/
def errorPart (s : State) (r : Req) (p : Part) (reason : Nat) : State :=
  failReq (logAccess s r.core r.ctx p.pa (kindCode r.kind) reason) r.id (reasonCause reason) p.va

/-- The new value and the value read of an access that writes (05 R120, R127, R129). -/
def newValue (k : ReqKind) (p : Part) (old : Nat) : Nat :=
  match k with
  | .store => p.data
  | .atomic op => atomicOp op p.n old p.data p.cmp
  | .reduce tag => combine tag old p.data
  | .signal => (old + p.data) % 2 ^ 64
  | .ticketGet => old % 2 ^ 32 + (old / 2 ^ 32 + 1) % 2 ^ 32 * 2 ^ 32
  | .ticketAdv => old / 2 ^ 32 * 2 ^ 32 + (old % 2 ^ 32 + 1) % 2 ^ 32
  | _ => old

/-- What the register receives from the value read. -/
def readValue (k : ReqKind) (old : Nat) : Nat :=
  match k with
  | .ticketGet => old / 2 ^ 32 % 2 ^ 32
  | _ => old

/-- The performer of a forwarded request sends a redirect to the requesting cluster (19 R371). -/
def sendRedirect (s : State) (r : Req) (p : Part) : State :=
  match p.named with
  | none => s
  | some a =>
    if p.fwd = 0 then s
    else match pageAt s a with
      | none => s
      | some pg =>
        let n := pageFrames pg.big
        sendOnce s r.core (.redirect (clusterOf r.core) pg.frame (frameOf p.pa / n * n) pg.big)

/-- Parts that cover a whole line. -/
def partsCover (ps : List Part) (line : Nat) : Bool :=
  decide (8 ≤ ps.length) && (List.range 64).all fun i =>
    ps.any fun o => !o.own && decide (o.pa ≤ line * 64 + i) && decide (line * 64 + i < o.pa + o.n)

/-- A non-transactional access performed at its home or in the issuing core's L1; `cl` is the cluster that gets the
line, none for an access that keeps no copy. -/
def performMain (s : State) (r : Req) (i : Nat) (p : Part) (cl : Option Nat) : State :=
  let w := isWriteKind r.kind
  let a : AccKind := if r.kind matches .reduce _ then .reduce else if w then .write else .read
  match judge s r.core r.ctx false a p.pa with
  | .go losers cause =>
    let s := abortLosers s (tileOf p.pa) cause losers
    let s := if cl.isSome then l2Take s r.core (lineOf p.pa) else s
    let s := if w then homeWrite s (lineOf p.pa) cl else homeRead s (lineOf p.pa) cl
    let s := match cl with
      | none => s
      | some _ => if w then l1AfterWrite s r.core (lineOf p.pa) else l1AfterRead s r.core (lineOf p.pa)
    let bs := getBytes s.mem p.pa p.n
    let old := leNat (if r.kind = .load then forwardOwn s r p bs else bs)
    let s := if w then markEft (unpoison { s with mem := writeLE s.mem p.pa p.n (newValue r.kind p old) } p.pa p.n) p.pa p.n else s
    partDone s r.id i (readValue r.kind old)
  | _ => s

/-- A transactional access at the home: LOCKED before conflicts, then R138; the tile enters the set (05 R137, R141). What
the home finds reaches the context as a message; a transaction with one on its way makes no more accesses (17 R337). -/
def performTx (s : State) (r : Req) (i : Nat) (p : Part) : State :=
  let w := isWriteKind r.kind
  let a : AccKind := if w then .write else .read
  let tva : Word := BitVec.ofNat 64 (p.va / 512 * 512)
  if !tileFits s r.core r.ctx (tileOf p.pa) then abortCtx s r.core r.ctx Abort.capacity 0 tva
  else if (getCtx s r.core r.ctx).abortMsg.isSome then s
  else if (dirOf s (lineOf p.pa)).lock then messageAbort s r.core r.ctx Abort.locked tva
  else if pageMoving s p.pa then messageAbort s r.core r.ctx Abort.nontx tva
  else if !l2Room s r.core (lineOf p.pa) then s
  else match judge s r.core r.ctx true a p.pa with
    | .hold => s
    | .selfAbort => messageAbort s r.core r.ctx Abort.conflict tva
    | .go losers cause =>
      let s := l2Take (abortLosers s (tileOf p.pa) cause losers) r.core (lineOf p.pa)
      let s := if w then homeWrite s (lineOf p.pa) (some (clusterIn r.core)) else homeRead s (lineOf p.pa) (some (clusterIn r.core))
      let s := if w then l1AfterWrite s r.core (lineOf p.pa) else l1AfterRead s r.core (lineOf p.pa)
      let s := trackTile s r.core r.ctx .read p.pa p.va
      let s := if w then trackTile s r.core r.ctx .write p.pa p.va else s
      match (getCtx s r.core r.ctx).tx with
      | none => s
      | some t =>
        let bs := specRead t s.mem p.pa p.n
        let old := leNat (if r.kind = .load then forwardOwn s r p bs else bs)
        let s := if w then
            modCore (modCtx s r.core r.ctx fun c => { c with
              tx := c.tx.map fun t => specWrite t p.pa (leBytes p.n (newValue r.kind p old)) }) r.core fun co =>
              { co with l1 := co.l1.map fun l => if l.line == lineOf p.pa && !l.spec.contains r.ctx then
                  { l with spec := l.spec ++ [r.ctx] } else l }
          else s
        sendRedirect (partDone s r.id i (readValue r.kind old)) r p

/-- An access at a scratchpad port: the own one by offset, another core's by window address (05 R121, 14 R289). A load
reads the selectors once, when its first lane is read (16 R322). -/
def performSpm (s : State) (r : Req) (i : Nat) (p : Part) (k off : Nat) : State :=
  let c := getCore s k
  let bound := bindTo r.bound k c
  let s := if r.kind = .load then mapReq s r.id fun r => { r with bound := bound } else s
  let bs := spmRead (if r.kind = .load then viewOf bound k c else c) off p.n
  let old := leNat (if r.kind = .load then forwardOwn s r p bs else bs)
  let s := if isWriteKind r.kind then setCore s k (spmWrite c false off (leBytes p.n (newValue r.kind p old))) else s
  partDone s r.id i (readValue r.kind old)

/-- A remap entry as the save area holds it (12 R267). -/
def remapOfWord (w : Word) : Remap :=
  { valid := w.getLsbD 63, sel := w.getLsbD 62, size := bitsOf w 47 36, twin := bitsOf w 35 24, log := bitsOf w 23 12 }

/-- The saved rank of a launch on a core. -/
def savedOf (s : State) (k : Nat) (launch : Option Nat) : Option SavedRank :=
  (savedRanks (getCore s k)).find? fun r => some r.launch == launch

/-- The remap table of an image (12 R267). -/
def imageRemap (s : State) (r : SavedRank) : Core :=
  { remap := (List.range 8).map fun j => (j, remapOfWord (BitVec.ofNat 64 (readLE s.mem (r.base + 0x120 + 8 * j) 8))) }

/-- Where an image holds a byte of the scratchpad, for a core's view of its remap table. -/
def imageAddr (r : SavedRank) (c : Core) (off : Nat) : Nat := r.base + 0x16000 + remapOff c false off

/-- Bytes of a saved rank's scratchpad: its image is main memory, where a transaction meets the read and the write as those of
any agent (16 R323). -/
def imageGet (s : State) (k n : Nat) (r : SavedRank) (c : Core) : Nat → Nat → List Byte × State
  | _, 0 => ([], s)
  | off, m + 1 =>
    let x := agentRead s k n (imageAddr r c off) 1
    let y := imageGet x.2 k n r c (off + 1) m
    (BitVec.ofNat 8 x.1 :: y.1, y.2)

def imagePut (s : State) (k n : Nat) (r : SavedRank) (c : Core) : Nat → List Byte → State
  | _, [] => s
  | off, b :: bs => imagePut (agentWrite s k n (imageAddr r c off) [b]) k n r c (off + 1) bs

/-- Requests for a saved rank of core t are served from its image (14 R289): a load binds the selectors once, and reads its
own earlier store early (16 R314, R322). The access waits while a home holds the bytes for a commit. -/
def performImage (s : State) (r : Req) (i : Nat) (p : Part) (t : Nat) (img : SavedRank) (off : Nat) : State :=
  let c := imageRemap s img
  let bound := bindTo r.bound t c
  let view := if r.kind = .load then viewOf bound t c else c
  if heldForCommit s (imageAddr img view off) p.n then s
  else
    let s := if r.kind = .load then mapReq s r.id fun r => { r with bound := bound } else s
    let x := imageGet s r.core r.ctx img view off p.n
    let old := leNat (if r.kind = .load then forwardOwn x.2 r p x.1 else x.1)
    let s := if isWriteKind r.kind then imagePut x.2 r.core r.ctx img c off (leBytes p.n (newValue r.kind p old)) else x.2
    partDone s r.id i (readValue r.kind old)

/-! ### issuing -/

/-- Append a request of the executing context. -/
def addReq (s : State) (r : Req) : State :=
  { s with reqs := s.reqs ++ [{ r with id := s.nextId, order := s.nextId, core := s.turn, ctx := s.cur, born := s.cycle,
                                       parts := r.parts.map fun p => { p with far := partRemote s s.turn p },
                                       mode := (me s).mode, tx := inTx s,
                                       after := (me s).after.filter (undone s) }], nextId := s.nextId + 1 }

/-- Empty the destination of an asynchronous writer (02 R24, R27). -/
def emptyDst (g : Regs) : Dst → Regs
  | .none => g
  | .x r _ _ => emptyX g r
  | .pair r => emptyX (emptyX g r) (r + 1)
  | .f r => { g with fpend := putBit g.fpend r true }
  | .v r _ => emptyV g r
  | .vb r _ _ => emptyV g r

/-- Whether the L1 may perform a part at issue: the line is there in a state that allows it, no transaction holds the
tile and no check turns the access away (17 R328, 05 R138, 14 R301). -/
def l1Hits (s : State) (r : Req) (p : Part) : Bool :=
  let tile := tileOf p.pa
  isMain p.pa && paPkg p.pa == pkgOf r.core && !r.tx && !(r.kind matches .reduce _) && !(r.kind == .signal) &&
  (match l1Find (getCore s r.core) (lineOf p.pa) with
    | none => false
    | some l => l.spec.isEmpty && (!isWriteKind r.kind || l.st == .e || l.st == .m)) &&
  !(openTxs s (paPkg p.pa)).any (fun h => h.2.2.readSet.contains tile || h.2.2.writeSet.contains tile || h.2.2.redSet.contains tile) &&
  (accessError s r.core r.mode p.pa p.n (isWriteKind r.kind) false).isNone && !pageMoving s p.pa

/-- A load or store of a host window leaves over the transport, once its checks pass (20 R386, R387). -/
def sendHost (s : State) (r : Req) (i : Nat) (p : Part) : State :=
  if p.sent then s
  else match accessError s r.core r.mode p.pa p.n (isWriteKind r.kind) false with
    | some reason => errorPart s r p reason
    | none =>
      let s := mapReq s r.id fun r => { r with parts := r.parts.mapIdx fun j q => if j = i then { q with sent := true } else q }
      toHost s { id := 0, pkg := pkgOf r.core, tenant := tenantOf (getCore s r.core),
                 type := if r.kind = .load then 0x10 else 0x11,
                 window := paOff p.pa / 2 ^ 38, offset := paOff p.pa % 2 ^ 38, len := p.n,
                 data := if r.kind = .load then [] else leBytes p.n p.data, req := some (r.id, i), seq := 0 }

/-- Perform at issue what needs no other agent: the own scratchpad where the scoreboard allows it, and L1 hits. -/
def partAtIssue (s : State) (id : Nat) (i : Nat) : State :=
  match findReq s id with
  | none => s
  | some r => match r.parts[i]? with
    | none => s
    | some p =>
      if !orderAllows s r p || r.kind == .lockState || r.kind == .pageState then s
      else if p.own then
        let w := isWriteKind r.kind
        if spmWaits (getCore s r.core) r.order p.pa p.n w then s
        else performSpm s r i p r.core p.pa
      else if isHost p.pa && (r.kind == .load || r.kind == .store) then sendHost s r i p
      else if l1Hits s r p then performMain s r i p (some (clusterIn r.core))
      else s

def partsAtIssue (s : State) (id : Nat) : Nat → State
  | 0 => s
  | n + 1 => partAtIssue (partsAtIssue s id n) id n

/-- L1 lines are allocated for misses in issue order (13 R276): loads, stores and atomics of the own package's memory,
not reductions, signals or tickets of another package. -/
def allocLines (kind : ReqKind) (parts : List Part) (s : State) : State :=
  match kind with
  | .reduce _ => s
  | .signal => s
  | .lockState => s
  | .pageState => s
  | _ => parts.foldl (fun s p =>
      if !p.own && isMain p.pa && paPkg p.pa == pkgOf s.turn && !pageMoving s p.pa then
        l1Alloc s s.turn p.pa else s) (clearStale s s.turn (s.nextId - 1))

/-- Issue an access: the destination is emptied, the request enters the table, and what can be performed at once is. -/
def issueReq (s : State) (kind : ReqKind) (dst : Dst) (parts : List Part) (acq rel : Option Nat) (queued : Bool) : State :=
  let id := s.nextId
  let r : Req := { id := 0, core := 0, ctx := 0, kind := kind, parts := parts, dst := dst, acq := acq, rel := rel,
                   queued := queued, order := 0 }
  let s := allocLines kind parts (modRegs (addReq s r) fun g => emptyDst g dst)
  if queued then s else partsAtIssue s id parts.length

end Sys2Proof.Machine
end

