-- ==== Sys2Proof/Machine/Ready.lean ====
section
/-! DEFINITION. When an instruction issues: the conditions it waits for (02 R20, R25, R27; 05 R116, R126) and the order
of the checks at issue (03 R52). -/
namespace Sys2Proof.Machine

/-! ### barrier membership (04 R97 to R103) -/

/-- The core's level n (0 is the launch domain). -/
def levelAt (c : Core) (n : Nat) : Option Level := c.levels[n]?

def domOf (s : State) (id : Nat) : Option Dom := s.doms.find? fun d => d.id == id

def domBroken (s : State) (id : Nat) : Bool :=
  match domOf s id with
  | some d => d.broken
  | none => false

/-- Phase p has completed, by the core's last completed phase (04 R101): (PH - p) mod 2^32 in 1 to 2^31 - 1. -/
def phaseOver (l : Level) (p : Nat) : Bool :=
  let d := ((l.last.toNat + 1) % 2 ^ 32 + (2 ^ 32 - p % 2 ^ 32)) % 2 ^ 32
  decide (1 ≤ d) && decide (d ≤ 2 ^ 31 - 1)

/-! ### conditions -/

/-- Requests of a context that the table still holds. -/
def openReqs (s : State) (k n : Nat) : List Req :=
  s.reqs.filter fun r => r.core == k && r.ctx == n && !r.orphan

/-- Kinds of earlier access that a fence waits for: 0 acq, 1 rel, 2 full (05 R126). -/
def fenceNames (kind : Nat) : ReqKind → Bool
  | .load => true
  | .atomic _ => true
  | .ticketGet => true
  | .compute => false
  | .pageState => kind != 0
  | .lockState => kind != 0
  | _ => kind != 0

/-- An access is performed at a scope at issue: a plain store at context scope, since the context reads its own stores
(16 R317, R320). Every wider instance has another agent, to which the one memory shows an access when it is performed (log
entry 67). -/
def performedAt (scope : Nat) (kind : ReqKind) : Bool := scope == 0 && kind == .store

/-- An nput of a context that has not reached its target. -/
def nputOpen (s : State) (k n : Nat) : Bool :=
  s.msgs.any fun m => m.core == k && m.ctx == n && (match m.kind with | .nput _ _ => true | _ => false)

/-- Copies of a core that count among the 64 in flight: dispatched and held ones (05 R144, R146). -/
def copiesOf (c : Core) : Nat :=
  c.cq.length + (c.ctxs.map fun e => match e.2.tx with | some t => t.copies.length | none => 0).sum

/-- The cores that tlb.inv's REACH names (05 R154). -/
def reachCores (s : State) (k reach : Nat) : List Nat :=
  let c := getCore s k
  if reach = 0 then [k]
  else if reach = 1 then
    (s.cores.filter fun e => clusterOf e.1 == clusterOf k && (e.2.launch == c.launch || e.1 == k)).map (·.1)
  else (s.cores.filter fun e => e.1 / 4096 == pkgOf k && (partOf e.2 == partOf c)).map (·.1)

/-- Helper h of a core has no thread; a context reserved by a ctx.load in flight is free (04 R95). -/
def helperIsFree (c : Core) (h : Nat) : Bool := (c.ctx h).st == .free || (c.ctx h).st == .reserved

/-- An enabled interrupt is pending for a context: only context 0 takes external interrupts (02 R29, 20 R385). -/
def interruptPending (c : Core) (n : Nat) : Bool := n == 0 && c.mip.getLsbD 9 && c.mie.getLsbD 9

/-- The helpers that hwait names are free: helper h, or with h = 0 every helper but context n (04 R83). -/
def helpersFree (c : Core) (n h : Nat) : Bool :=
  if h = 0 then (List.range 10).all fun i => i + 1 == n || helperIsFree c (i + 1) else helperIsFree c h

/-- A lock request of a context to a home of another package, by the address that it first named (19 R363). -/
def lockAbroad (k : Nat) (c : Context) : Bool := (lockRequests c).any fun w => farFrom k w.named

/-- A lock request or release of a core has not reached its home, which it names by the address that was translated (14
R298). -/
def lockSent (s : State) (j : Nat) : Bool :=
  s.msgs.any fun m => m.core == j && (match m.kind with | .lockReq _ _ _ _ => true | .lockRel _ _ => true | _ => false)

/-- Vector instructions of a context that have not executed (06 R158). -/
def vecOpen (s : State) (k n : Nat) : Bool := (getCore s k).vq.any fun e => e.ctx == n && !e.orphan

/-- A write not yet performed, of a context or of one that it follows, meets bytes of the own scratchpad (04 R85, 05 R151). -/
def storeMeets (s : State) (k n : Nat) (p : Part) : Bool :=
  s.reqs.any fun r => r.core == k && (r.ctx == n && !r.orphan || (getCtx s k n).after.contains r.id) && isWriteKind r.kind &&
    r.parts.any fun o => !o.done && partOverlap s k p o

def condHolds (s : State) (k n : Nat) : Cond → Bool
  | .xPresent r => (getCtx s k n).regs.xpres.getLsbD r
  | .vPresent r => (getCtx s k n).regs.vpres.getLsbD r
  | .xSettled r => !(getCtx s k n).regs.xpend.getLsbD r
  | .vSettled r => !(getCtx s k n).regs.vpend.getLsbD r
  | .fDone r => !(getCtx s k n).regs.fpend.getLsbD r
  | .vqRoom => decide ((getCore s k).vq.length < Config.vectorQueue)
  | .mqRoom r => decide ((getCore s k).mq.length < Config.matrixQueue) &&
      decide (rangesInUse (getCore s k) + r ≤ Config.scoreboardRanges)
  | .copyRoom r => decide (copiesOf (getCore s k) < Config.copiesInFlight) &&
      decide (rangesInUse (getCore s k) + r ≤ Config.scoreboardRanges)
  | .gatherRoom r => decide ((ownGathers (getCore s k)).length < Config.gatherQueue) &&
      decide (rangesInUse (getCore s k) + r ≤ Config.scoreboardRanges)
  | .remoteRoom m =>
      let limit := (getCore s k).qmaxout.toNat
      if m ≤ limit then decide (remotePending s k + m ≤ limit) else decide (remotePending s k < limit)
  | .sendRoom => match (getCore s k).xch with
      | some x => decide (x.buffer.length < Config.sendBuffer)
      | none => true
  | .sendEmpty => match (getCore s k).xch with
      | some x => x.buffer.isEmpty
      | none => true
  | .vecDone => !vecOpen s k n
  | .noPending => (getCtx s k n).regs.xpend == 0 && (getCtx s k n).regs.vpend == 0 &&
      (getCtx s k n).regs.fpend == 0
  | .fence kind scope => (openReqs s k n).all (fun r => !fenceNames kind r.kind || reqDone r || performedAt scope r.kind) &&
      (kind == 0 || !nputOpen s k n)
  | .accessesDone => (openReqs s k n).isEmpty && !vecOpen s k n && !nputOpen s k n && !lockAbroad k (getCtx s k n) &&
      !farReleaseBefore s k n s.nextId && (getCtx s k n).deferred.isEmpty
  | .reachQuiet reach => (reachCores s k reach).all fun j => !lockSent s j && s.reqs.all fun r => r.core != j || reqDone r
  | .lineDone line => !heldForCommit s (line * 64) 64 && (openReqs s k n).all fun r =>
      r.parts.all fun p => p.done || p.own || lineOf p.pa != line
  | .ghostRoom => decide ((getCore s k).ghosts.length < Config.ghostTable)
  | .lockRoom => decide ((getCtx s k n).locks.length + (lockRequests (getCtx s k n)).length < 4)
  | .spmReady lo m =>
      let p : Part := { pa := lo, va := 0, n := m, own := true }
      !spmWaits (getCore s k) s.nextId lo m false && !storeMeets s k n p
  | .walk va kind => (translateWith s k n (getCtx s k n).mode (getCore s k).qrgn va.toNat (accOf kind)).1 != .wait

/-! ### issue -/

/-- What an instruction reads and writes, and what else it must find (03 R52; 02 R20, R25, R27). -/
structure Needs where
  xr : List (BitVec 5) := []
  vr : List Nat := []
  /-- f registers read or written -/
  fr : List (BitVec 5) := []
  xw : List (BitVec 5) := []
  vw : List Nat := []
  /-- the v source that the reuse hint keeps (06 R178) -/
  keep : Option Nat := none
  extra : List Cond := []
  deriving DecidableEq, Repr

/-- The reuse hint of an instruction with source vs1, or with the data register of a vector store (06 R178). -/
def Needs.reuse (d : Needs) (h : BitVec 1) (vs : BitVec 4) : Needs :=
  { d with keep := if h = 1 then some vs.toNat else none }

/-- The conditions of a set of needs. -/
def Needs.conds (d : Needs) : List Cond :=
  (d.xr.map fun r => Cond.xPresent r.toNat) ++ (d.vr.map Cond.vPresent) ++ (d.fr.map fun r => Cond.fDone r.toNat) ++
  (d.xw.map fun r => Cond.xSettled r.toNat) ++ (d.vw.map Cond.vSettled) ++ d.extra

/-- The conditions that do not hold for the executing context. -/
def unmet (s : State) (cs : List Cond) : List Cond := cs.filter fun c => !condHolds s s.turn s.cur c

/-- Run a body once every condition holds, else park on those that do not. -/
def whenMet (cs : List Cond) (body : State → Out) (s : State) : Out :=
  if unmet s cs = [] then body s else .next (park s (unmet s cs))

/-- Issue of an instruction that a transaction may contain: it parks until its conditions hold. -/
def issueTx (d : Needs) (body : State → Out) (s : State) : Out := whenMet d.conds body s

/-- Issue of an instruction that a transaction may not contain: UNSUPP before presence (03 R52, 05 R141). -/
def issue (d : Needs) (body : State → Out) (s : State) : Out :=
  if inTx s then .next (abortMe s Abort.unsupp 0 0) else whenMet d.conds body s

/-- The reuse latch of the executing context after the issue of a VEC or XVM instruction: the hint keeps its source, unless
the instruction writes that register too (06 R178). -/
def keepReuse (d : Needs) (s : State) : State :=
  match d.keep with
  | none => s
  | some r => modRegs s fun g => { g with latch := if d.vw.contains r then none else some r }

/-- Whether the executing context may run S-mode instructions (03 R51). -/
def privileged (s : State) : Bool := (me s).mode != .u

/-- The illegal-instruction trap of a word (03 R51, 00 R8). -/
def illegal (s : State) (word : IWord) : Out := trap s Cause.illegal (BitVec.ofNat 64 word.toNat)

end Sys2Proof.Machine
end

