-- ==== Sys2Proof/Machine/Operands.lean ====
section
/-! DEFINITION. Operand forms: immediates (03 R49), branch targets, shift amounts, lane masks and lanes (02 R23, 03 R47,
R48; 06 R157), and the accesses that a scalar instruction makes at issue (00 R7, 05 R115). -/
namespace Sys2Proof.Machine

/-! ### immediates and targets -/

def immI (imm : BitVec 12) : Word := imm.signExtend 64
def immU (imm : BitVec 20) : Word := (imm ++ (0 : BitVec 12)).signExtend 64
/-- Bits [12:1] of a branch offset. -/
def offB (off : BitVec 12) : Word := (off ++ (0 : BitVec 1)).signExtend 64
/-- Bits [20:1] of a jump offset. -/
def offJ (off : BitVec 20) : Word := (off ++ (0 : BitVec 1)).signExtend 64
def sx32 (v : BitVec 32) : Word := v.signExtend 64
def lo32 (v : Word) : BitVec 32 := v.setWidth 32

/-- The word of an instruction, for the value of an illegal-instruction trap. -/
def wordOfInstr (i : Instr) : IWord := (encode i).getD 0

/-! ### lanes -/

/-- Bits of an element type et (03 R48). -/
def etBits (et : Nat) : Nat :=
  match et % 8 with
  | 0 => 8 | 1 => 16 | 2 => 32 | 3 => 64 | 4 => 16 | 5 => 16 | 6 => 32 | _ => 64
/-- Bits of a format ft (03 R48). -/
def ftBits (ft : Nat) : Nat := match ft % 4 with | 0 => 16 | 1 => 16 | 2 => 32 | _ => 64
def ftFmt (ft : Nat) : Fmt := match ft % 4 with | 0 => fp16 | 1 => bf16 | 2 => fp32 | _ => fp64
def laneCount (w : Nat) : Nat := 512 / w

/-- Lane i of w bits, as a number. -/
def lane (v : VWord) (w i : Nat) : Nat := v.toNat / 2 ^ (w * i) % 2 ^ w
/-- Every lane, lane 0 first. -/
def lanes (v : VWord) (w : Nat) : List Nat := (List.range (laneCount w)).map (lane v w)

/-- The number whose lanes of w bits are a list, the first one lowest. -/
def joinLanes (w : Nat) : List Nat → Nat
  | [] => 0
  | x :: xs => x % 2 ^ w + 2 ^ w * joinLanes w xs
def ofLanes (w : Nat) (xs : List Nat) : VWord := BitVec.ofNat 512 (joinLanes w xs)

/-- Whether lane i is active: km 0 means all lanes (03 R47, 02 R23). -/
def active (g : Regs) (km : Nat) (i : Nat) : Bool := km == 0 || (readK g km).getLsbD i

/-- Write the active lanes of a result over an old value. -/
def maskLanes (g : Regs) (km w : Nat) (old : VWord) (new : List Nat) : VWord :=
  ofLanes w ((List.range (laneCount w)).map fun i => if active g km i then new.getD i 0 else lane old w i)

/-! ### accesses at issue -/

/-- What a translated address gives an instruction: its trap or abort, or the parts of its access. -/
inductive Reach where
  | out (o : Out)
  | parts (ps : List Part)

/-- The abort of an access whose tile is at a virtual address. -/
def abortAt (s : State) (cause : Nat) (va : Word) : State :=
  abortMe s cause 0 (BitVec.ofNat 64 (va.toNat / 512 * 512))

/-- An access to translate: lane, virtual address, bytes, store data. -/
abbrev Want := Nat × Word × Nat × Nat

/-- Translate accesses in lane order, the first fault deciding (05 R115, R117): its code, none for a walk that
waits, and its address, or the parts. -/
def xlateAll (acc : Acc) : State → List Want → List Part → Except (Option Nat × Word) (List Part) × State
  | s, [], ps => (.ok ps, s)
  | s, (l, va, n, d) :: rest, ps =>
    match translate s va acc with
    | (.fault code, s) => (.error (some code, va), s)
    | (.wait, s) => (.error (none, va), s)
    | (.spm off, s) => xlateAll acc s rest (ps ++ [{ pa := off, va := va.toNat, n := n, lane := l, data := d, own := true }])
    | (.phys pa, s) => xlateAll acc s rest (ps ++ [{ pa := pa, va := va.toNat, n := n, lane := l, data := d }])

/-- The first access of an open transaction that the gateways' checks of 14 R301 to R303 turn away. They come after what
the core finds itself (IOSPACE, XPKG) and before CAPACITY (05 R141). -/
def txRefused (s : State) (acc : Acc) (ps : List Part) : Option (Nat × Part) :=
  if !inTx s then none
  else ps.findSome? fun p =>
    if p.own then none
    else (accessError s s.turn (me s).mode p.pa p.n acc.writes (acc == .store && partsCover ps (lineOf p.pa))).map fun reason =>
      (reason, p)

/-- The kind of access that an ACCESS event names (14 R303). -/
def Acc.kindCode : Acc → Nat
  | .fetch => 0
  | .load => 1
  | .store => 2
  | .amo => 3
  | .atomic => 3

/-- The refused access is logged, and the transaction aborts with FAULT at its address; HOMELOST is delivered after the
abort (05 R141, 12 R257, 14 R303). -/
def abortRefused (s : State) (acc : Acc) (reason : Nat) (p : Part) : State :=
  raiseDeferred (logAccess s s.turn s.cur p.pa acc.kindCode reason) s.turn s.cur (reasonCause reason) (BitVec.ofNat 64 p.va)

/-- What an open transaction meets among its parts: IOSPACE, then XPKG for another package's memory (05 R141). -/
def txScreen (s : State) (ps : List Part) : Option (Nat × Part) :=
  if !inTx s then none
  else match ps.find? fun p => !p.own && (isHost p.pa || isDevice p.pa) with
    | some p => some (Abort.iospace, p)
    | none => match ps.find? fun p => !p.own && isMain p.pa && paPkg p.pa != pkgOf s.turn with
      | some p => some (Abort.xpkg, p)
      | none => none

/-- A part of an atomic in device registers (05 R121). -/
def devicePart (acc : Acc) (p : Part) : Bool := acc == .atomic && !p.own && isDevice p.pa

/-- Translate accesses at issue: the parts to perform, or what happens instead. An atomic of device registers is a store
access fault (05 R121), which comes before every other cause of an abort (05 R141). Where the walk waits, so does the
instruction: it has not issued (02 R20). -/
def reach (s : State) (ws : List Want) (acc : Acc) : Reach × State :=
  match xlateAll acc s ws [] with
  | (.error (some code, va), s) => (.out (.next (takeFault s code va)), s)
  | (.error (none, va), s) => (.out (.next (park s [.walk va acc.code])), s)
  | (.ok ps, s) =>
    match ps.find? (devicePart acc), txScreen s ps, txRefused s acc ps with
    | some p, _, _ => (.out (.next (takeFault s Cause.storeAccess (BitVec.ofNat 64 p.va))), s)
    | none, some (cause, p), _ => (.out (.next (abortAt s cause (BitVec.ofNat 64 p.va))), s)
    | none, none, some (reason, p) => (.out (.next (abortRefused s acc reason p)), s)
    | none, none, none => (.parts ps, s)

/-- Lines of other packages among parts (05 R116). -/
def remoteCount (s : State) (ps : List Part) : Nat :=
  ((ps.filter fun p => partRemote s s.turn p).map fun p => lineOf p.pa).eraseDups.length

/-- Go on with an access once the core may send its remote requests (05 R116). -/
def withRoom (s : State) (ps : List Part) (body : State → Out) : Out :=
  if remoteCount s ps = 0 then body s else whenMet [.remoteRoom (remoteCount s ps)] body s

/-- A scalar access of n bytes that may be misaligned within one line (00 R7): the checks, then the body with its
part. -/
def scalarAccess (s : State) (va : Word) (n : Nat) (acc : Acc) (misaligned : Nat)
    (body : List Part → State → Out) : Out :=
  if 64 < va.toNat % 64 + n then trap s misaligned va
  else match reach s [(0, va, n, 0)] acc with
    | (.out o, _) => o
    | (.parts ps, s) => withRoom s ps (body ps)

/-- An access that must be naturally aligned to n bytes (05 R120, R123, R127 to R129). -/
def alignedAccess (s : State) (va : Word) (n : Nat) (acc : Acc) (body : List Part → State → Out) : Out :=
  if va.toNat % n ≠ 0 then trap s Cause.misalignedAtomic va
  else match reach s [(0, va, n, 0)] acc with
    | (.out o, _) => o
    | (.parts ps, s) => withRoom s ps (body ps)

/-- A scalar load (00 R7, 02 R24). -/
def loadX (rd rs1 : BitVec 5) (imm : BitVec 12) (n : Nat) (signed : Bool) (s : State) : Out :=
  issueTx { xr := [rs1], xw := [rd] } (fun s =>
    scalarAccess s (xr s rs1 + immI imm) n .load Cause.loadMisaligned fun ps s =>
      .next (retire (issueReq s .load (.x rd.toNat n signed) ps none none false))) s

/-- A scalar store of the low n bytes of a value. -/
def storeAt (s : State) (va : Word) (n v : Nat) : Out :=
  scalarAccess s va n .store Cause.storeMisaligned fun ps s =>
    .next (retire (issueReq s .store .none (ps.map fun p => { p with data := v % 2 ^ (8 * n) }) none none false))

def storeX (rs2 rs1 : BitVec 5) (imm : BitVec 12) (n : Nat) (s : State) : Out :=
  issueTx { xr := [rs1, rs2] } (fun s => storeAt s (xr s rs1 + immI imm) n (xn s rs2)) s

end Sys2Proof.Machine
end

