-- ==== Sys2Proof/Machine/Fetch.lean ====
section
/-! DEFINITION. The fetch of a context's next word through the instruction cache (02 R19, 14 R290, R302), and which context
issues (02 R20). -/
namespace Sys2Proof.Machine

/-- A ctx.save or ctx.load of a context is in flight, so that it issues nothing (04 R94, R95). -/
def inCtxOp (c : Core) (n : Nat) : Bool := c.ctxops.any fun o => o.target == n

/-- The core issues: it is not halted (04 R113), quarantined (12 R273) or stopped for a pre-emption (12 R266). -/
def coreIssues (c : Core) : Bool := (!c.halted || interruptPending c 0) && !c.quarantined && !c.preempting

/-- What a fetch gives. -/
inductive Fetched where
  | word (w : IWord)
  | fault (code : Nat)
  | wait
  deriving DecidableEq, Repr

def icacheFind (c : Core) (line : Nat) : Option (List Byte) :=
  match c.icache.find? fun e => e.1 == line with
  | some e => some e.2
  | none => none

/-- The word at a byte of a line. -/
def wordIn (bs : List Byte) (off : Nat) : IWord := BitVec.ofNat 32 (leNat ((bs.drop off).take 4))

/-- Keep a line of 512 lines, the newest first (log entry 9). -/
def icacheAdd (c : Core) (line : Nat) (bs : List Byte) : Core :=
  { c with icache := ((line, bs) :: c.icache.filter fun e => e.1 != line).take 512 }

/-- Read the line of an address where it is served: through tails, and past a commit in hand (14 R299, R302; 17 R338). A
line of the core's own package stays in its instruction cache (14 R284). -/
def fetchMain (s : State) (pa : Nat) : Fetched × State :=
  match served s s.turn s.cur (me s).mode (myCore s).qrgn (regs s).pc.toNat pa 4 .fetch false with
  | (.wait, s) => (.wait, s)
  | (.error q r, s) => (.fault Cause.fetchAccess, logAccess s s.turn s.cur q 0 r)
  | (.at_ q, s) =>
    if heldForCommit s (lineOf q * 64) 64 then (.wait, s)
    else
      let (v, s) := agentRead s s.turn s.cur (lineOf q * 64) 64
      let bs := leBytes 64 v
      (.word (wordIn bs (pa % 64)),
        if paPkg q = pkgOf s.turn ∧ q = pa then modMyCore s fun c => icacheAdd c (lineOf pa) bs else s)

/-- Fetch the word at the PC of the executing context. Only main memory holds code; a fetch elsewhere is an access
fault (log entry 11). -/
def fetch (s : State) : Fetched × State :=
  match translate s (regs s).pc .fetch with
  | (.fault code, s) => (.fault code, s)
  | (.spm _, s) => (.fault Cause.fetchAccess, s)
  | (.wait, s) => (.wait, s)
  | (.phys pa, s) =>
    match icacheFind (myCore s) (lineOf pa) with
    | some bs => (.word (wordIn bs (pa % 64)), s)
    | none =>
      match accessError s s.turn (me s).mode pa 4 false false with
      | some r => (.fault Cause.fetchAccess, logAccess s s.turn s.cur pa 0 r)
      | none => if isMain pa then fetchMain s pa else (.fault Cause.fetchAccess, s)

/-! ### which context issues (02 R20) -/

/-- The fetch of a context does not wait: its next instruction is in the instruction cache, or gets there. -/
def fetchReady (s : State) (k n : Nat) : Bool := (fetch { s with turn := k, cur := n }).1 != .wait

/-- A context is ready (02 R20). -/
def ctxReady (s : State) (k n : Nat) : Bool :=
  let c := getCore s k
  coreIssues c && !inCtxOp c n &&
  (match (c.ctx n).st with
    | .live => true
    | .parked cs => cs.all (condHolds s k n)
    | .waiting .wfi => interruptPending c n
    | _ => false) && fetchReady s k n

/-- The first ready context after the one that issued last, wrapping from 10 to 0 (02 R20). -/
def nextCtx (s : State) (k : Nat) : Option Nat :=
  ((List.range 11).map fun i => ((getCore s k).last + 1 + i) % 11).find? (ctxReady s k)

end Sys2Proof.Machine
end

