-- ==== Sys2Proof/Machine/Csr.lean ====
section
/-! DEFINITION. Control and status registers: which exist, who may reach them, what a read gives and what a write stores
(02 R29, R31 to R45; 00 R7; 20 R385), and the Zicsr instructions. -/
namespace Sys2Proof.Machine

/-- The standard CSRs that the spec names (00 R6, 02 R29). -/
def standardCsr (a : Nat) : Bool :=
  [0x001, 0x002, 0x003, 0x100, 0x104, 0x105, 0x140, 0x141, 0x142, 0x143, 0x144,
   0x300, 0x302, 0x303, 0x304, 0x305, 0x340, 0x341, 0x342, 0x343, 0x344].contains a

/-- The Quistad CSRs (02 R32). -/
def quistadCsr (a : Nat) : Bool :=
  (decide (0x800 ≤ a) && decide (a ≤ 0x805)) || (decide (0x810 ≤ a) && decide (a ≤ 0x814)) ||
  (decide (0xCC0 ≤ a) && decide (a ≤ 0xCC9)) || (decide (0x5C0 ≤ a) && decide (a ≤ 0x5D8)) ||
  (decide (0x7C0 ≤ a) && decide (a ≤ 0x7D0))

/-- The decode check of a CSR access: the address exists, the mode reaches it, and a write is not to a read-only one
(02 R31, the standard's encoding of both in the address). -/
def csrAllowed (mode : Mode) (a : Nat) (write : Bool) : Bool :=
  (standardCsr a || quistadCsr a) && decide (a / 256 % 4 ≤ mode.code) && !(write && a / 1024 == 3)

/-- The bits of mstatus that are kept: SIE, MIE, SPIE, MPIE, SPP, MPP, FS, SUM, MXR (log entry 10). -/
def mstatusMask : Word := 0x00000000000C79AA
def sstatusMask : Word := 0x00000000000C6122

/-- mstatus with SD for FS = 3 (the standard). -/
def mstatusRead (c : Context) : Word := putBit c.mstatus 63 (bitsOf c.mstatus 14 13 == 3)
def sstatusRead (c : Context) : Word := mstatusRead c &&& putBit sstatusMask 63 true

/-- MPP keeps a mode that exists: 2 is stored as the old value. -/
def mstatusWrite (old v : Word) : Word :=
  let m := v &&& mstatusMask
  if bitsOf v 12 11 = 2 then putBits m 11 2 (bitsOf old 12 11) else m
def sstatusWrite (old v : Word) : Word := (old &&& ~~~sstatusMask) ||| (v &&& sstatusMask)

/-- A trap vector: MODE 0 or 1. -/
def tvec (v : Word) : Word := putBit v 1 false
/-- An exception PC: bits [1:0] read 0. -/
def epcOf (v : Word) : Word := BitVec.ofNat 64 (v.toNat / 4 * 4)

/-- The nearest value inside a range (02 R41). -/
def clampTo (lo hi v : Nat) : Nat := if v < lo then lo else if hi < v then hi else v

/-! ### reads -/

/-- qdom (02 R36). -/
def qdomRead (c : Core) : Word := BitVec.ofNat 64 (c.domDepth.toNat * 4 + c.domLevel.toNat)

/-- The level that qrank and qdsize report (02 R39, 04 R105). -/
def levelNow (c : Core) : Level := (levelAt c c.domLevel.toNat).getD { dom := 0, rank := 0, size := 0 }

def fcsrRead (g : Regs) : Word := BitVec.ofNat 64 (g.frm.toNat * 32 + g.fflags.toNat)

/-- The value of a CSR to core k, context n. -/
def csrRead (s : State) (k n : Nat) (a : Nat) : Word :=
  let co := getCore s k
  let c := co.ctx n
  let g := c.regs
  match a with
  | 0x001 => BitVec.ofNat 64 g.fflags.toNat
  | 0x002 => BitVec.ofNat 64 g.frm.toNat
  | 0x003 => fcsrRead g
  | 0x100 => sstatusRead c
  | 0x104 => co.mie
  | 0x105 => co.stvec
  | 0x140 => c.sscratch
  | 0x141 => c.sepc
  | 0x142 => c.scause
  | 0x143 => c.stval
  | 0x144 => co.mip
  | 0x300 => mstatusRead c
  | 0x302 => co.medeleg
  | 0x303 => co.mideleg
  | 0x304 => co.mie
  | 0x305 => co.mtvec
  | 0x340 => c.mscratch
  | 0x341 => c.mepc
  | 0x342 => c.mcause
  | 0x343 => c.mtval
  | 0x344 => co.mip
  | 0x800 => BitVec.ofNat 64 g.qrm.toNat
  | 0x801 => c.qsrseed
  | 0x802 => g.qsrctr
  | 0x803 => BitVec.ofNat 64 c.qhbase.toNat
  | 0x804 => qdomRead co
  | 0x805 => BitVec.ofNat 64 co.qrxcnt.toNat
  | 0x810 => co.qupv
  | 0x811 => co.qupcause
  | 0x812 => co.qupval
  | 0x813 => co.qupctx
  | 0x814 => co.qupepc
  | 0xCC0 => BitVec.ofNat 64 (levelNow co).rank
  | 0xCC1 => BitVec.ofNat 64 (levelNow co).size
  | 0xCC2 => BitVec.ofNat 64 (lidOf k)
  | 0xCC3 => BitVec.ofNat 64 n
  | 0xCC4 => BitVec.ofNat 64 (pkgOf k)
  | 0xCC5 => BitVec.ofNat 64 (outstandingRemote s k)
  | 0xCC6 => BitVec.ofNat 64 co.spmBytes
  | 0xCC7 => co.qlaunch
  | 0xCC8 => BitVec.ofNat 64 (g.xpend.toNat * 2 ^ 32 + (putBit g.xpres 0 true).toNat)
  | 0xCC9 => BitVec.ofNat 64 (g.vpend.toNat * 2 ^ 16 + g.vpres.toNat)
  | 0x5D0 => BitVec.ofNat 64 co.qmaxout.toNat
  | 0x5D1 => BitVec.ofNat 64 co.qmxw.toNat
  | 0x5D2 => BitVec.ofNat 64 co.qpair.toNat
  | 0x5D3 => BitVec.ofNat 64 co.qlkto.toNat
  | 0x5D4 => BitVec.ofNat 64 co.qlkpark.toNat
  | 0x5D5 => co.qcont
  | 0x5D6 => BitVec.ofNat 64 co.qtaillife.toNat
  | 0x5D7 => co.qsave
  | 0x5D8 => co.qtxcfg
  | 0x7D0 => co.qtenant
  | _ =>
    if 0x5C0 ≤ a ∧ a ≤ 0x5CF then fget 0 co.qrgn (a - 0x5C0)
    else if 0x7C0 ≤ a ∧ a ≤ 0x7CF then fget 0x1500000000000000 co.qpwin (a - 0x7C0)
    else 0

/-! ### writes -/

/-- A value that a field's table forbids (02 R31): qrm 6 and 7, LEVEL above DEPTH, KIND 3, ESC above 2, LG outside 21
to 44. -/
def csrForbids (c : Core) (a : Nat) (v : Word) : Bool :=
  if a = 0x800 then decide (6 ≤ bitsOf v 2 0)
  else if a = 0x804 then decide (c.domDepth.toNat < bitsOf v 1 0)
  else if 0x5C0 ≤ a ∧ a ≤ 0x5CF then a % 2 == 1 && bitsOf v 63 62 == 3
  else if a = 0x5D5 then decide (2 < bitsOf v 11 8)
  else if 0x7C0 ≤ a ∧ a ≤ 0x7CF then decide (bitsOf v 61 56 < 21) || decide (44 < bitsOf v 61 56)
  else false

/-- A word of a region descriptor: the reserved bits of word B read 0 (02 R40). -/
def regionWord (w : Nat) (v : Word) : Word := if w % 2 = 0 then v else v &&& 0xE0FFFFFFFFFFF000

/-- A write of region word w removes that region's entries from the core's L1 TLBs (14 R298). -/
def writeQrgn (c : Core) (w : Nat) (v : Word) : Core :=
  let r := regionOf c.qrgn (w / 2)
  let keep := fun (t : TlbEntry) => !(r.kind == 1 && t.base == r.base && t.pgsz == r.pgsz && t.root == r.root)
  { c with qrgn := fset c.qrgn w (regionWord w v), itlb := c.itlb.filter keep,
           dtlb := c.dtlb.filter keep }

/-- A scheduling event joins the package's sequence (11 R237). -/
def raiseSched (s : State) (pkg : Nat) (e : Sched) : State :=
  { s with events := fset s.events pkg (fget [] s.events pkg ++ [e]) }

/-- The core's qsave.V and qcont.NOPRE, for a CTL event. -/
def raiseCtl (s : State) (k : Nat) : State :=
  let c := getCore s k
  raiseSched s (pkgOf k) (.ctl k (c.qsave.getLsbD 0) (c.qcont.getLsbD 5))

def qcontMask : Word := 0x000000FFFFFF0F30
/-- A write of qcont (02 R42); a change of NOPRE raises a CTL event (11 R237). -/
def writeQcont (s : State) (k : Nat) (v : Word) : State :=
  let old := (getCore s k).qcont
  let s := modCore s k fun c => { c with qcont := v &&& qcontMask }
  if old.getLsbD 5 = v.getLsbD 5 then s else raiseCtl s k

def qsaveMask : Word := 0x00FFFFFFFFFFF001
/-- A write of qsave (02 R43); a change of V raises a CTL event. -/
def writeQsave (s : State) (k : Nat) (v : Word) : State :=
  let old := (getCore s k).qsave
  let s := modCore s k fun c => { c with qsave := v &&& qsaveMask }
  if old.getLsbD 0 = v.getLsbD 0 then s else raiseCtl s k

/-- qtxcfg with SPILL 0 to 192 and DEPTH 1 to 7 (02 R44). -/
def qtxcfgOf (v : Word) : Word :=
  BitVec.ofNat 64 (clampTo 0 192 (bitsOf v 31 16) * 2 ^ 16 + clampTo 1 7 (bitsOf v 6 4) * 16 + bitsOf v 0 0)

/-- The xrecv of a context whose entries have landed is over: rd receives COUNT (04 R109); one that an upcall
interrupted is over when it resumes. -/
def endReceive (count : BitVec 32) (c : Context) : Context :=
  let v : Word := BitVec.ofNat 64 count.toNat
  let c := match c.keptWait with
    | some (.received n rd) => if n ≤ count.toNat then { c with keptWait := some .ended, regs := writeX c.regs rd v } else c
    | _ => c
  match c.st with
  | .waiting (.received n rd) =>
    if n ≤ count.toNat then { c with st := .live, regs := { writeX c.regs rd v with pc := c.regs.pc + 4 } } else c
  | _ => c

/-- qrxcnt.COUNT takes a value: the waits that it satisfies end (02 R37, 04 R109). -/
def setCount (c : Core) (v : BitVec 32) : Core :=
  { c with qrxcnt := v, ctxs := c.ctxs.map fun e => if e.1 < 16 then (e.1, endReceive v e.2) else e }

/-- Writes of the core's CSRs with no effect beyond the register. -/
def writeCoreCsr (c : Core) (a : Nat) (v : Word) : Core :=
  match a with
  | 0x104 => { c with mie := v &&& 0x200 }
  | 0x105 => { c with stvec := tvec v }
  | 0x302 => { c with medeleg := v }
  | 0x303 => { c with mideleg := v &&& 0x200 }
  | 0x304 => { c with mie := v &&& 0x200 }
  | 0x305 => { c with mtvec := tvec v }
  | 0x344 => { c with mip := v &&& 0x200 }
  | 0x804 => { c with domLevel := v.setWidth 2 }
  | 0x805 => setCount c (v.setWidth 32)
  | 0x810 => { c with qupv := putBit v 1 false }
  | 0x811 => { c with qupcause := putBit (BitVec.ofNat 64 (bitsOf v 15 0)) 63 (c.qupcause.getLsbD 63) }
  | 0x812 => { c with qupval := v }
  | 0x813 => { c with qupctx := v &&& 0xFFFFFFFF00003F0F }
  | 0x814 => { c with qupepc := epcOf v }
  | 0x5D0 => { c with qmaxout := BitVec.ofNat 9 (clampTo 1 256 (bitsOf v 8 0)) }
  | 0x5D1 => { c with qmxw := BitVec.ofNat 4 (clampTo 1 15 (bitsOf v 3 0)) }
  | 0x5D2 => { c with qpair := BitVec.ofNat 32 (clampTo 1024 4294967295 (bitsOf v 31 0)) }
  | 0x5D3 => { c with qlkto := v.setWidth 32 }
  | 0x5D4 => { c with qlkpark := v.setWidth 32 }
  | 0x5D6 => { c with qtaillife := BitVec.ofNat 32 (clampTo 200 4294967295 (bitsOf v 31 0)) }
  | 0x5D8 => { c with qtxcfg := qtxcfgOf v }
  | 0x7D0 => { c with qtenant := v &&& 0x7FFFFF }
  | _ =>
    if 0x5C0 ≤ a ∧ a ≤ 0x5CF then writeQrgn c (a - 0x5C0) v
    else if 0x7C0 ≤ a ∧ a ≤ 0x7CF then { c with qpwin := fset c.qpwin (a - 0x7C0) (v &&& 0xFFFFFFFFFFE00000) }
    else c

/-- Writes of the context's CSRs. -/
def writeCtxCsr (c : Context) (a : Nat) (v : Word) : Context :=
  let g := c.regs
  match a with
  | 0x001 => { c with regs := { g with fflags := v.setWidth 5 } }
  | 0x002 => { c with regs := { g with frm := v.setWidth 3 } }
  | 0x003 => { c with regs := { g with fflags := v.setWidth 5, frm := (v >>> 5).setWidth 3 } }
  | 0x100 => { c with mstatus := sstatusWrite c.mstatus v }
  | 0x140 => { c with sscratch := v }
  | 0x141 => { c with sepc := epcOf v }
  | 0x142 => { c with scause := v }
  | 0x143 => { c with stval := v }
  | 0x300 => { c with mstatus := mstatusWrite c.mstatus v }
  | 0x340 => { c with mscratch := v }
  | 0x341 => { c with mepc := epcOf v }
  | 0x342 => { c with mcause := v }
  | 0x343 => { c with mtval := v }
  | 0x800 => { c with regs := { g with qrm := v.setWidth 3 } }
  | 0x801 => { c with qsrseed := v }
  | 0x802 => { c with regs := { g with qsrctr := v } }
  | 0x803 => { c with qhbase := v.setWidth 8 }
  | _ => c

/-- CsrWrite (00 R12): store a value under the field rules, for core k, context n. -/
def csrWrite (s : State) (k n a : Nat) (v : Word) : State :=
  if a = 0x5D5 then writeQcont s k v
  else if a = 0x5D7 then writeQsave s k v
  else modCore (modCtx s k n fun c => writeCtxCsr c a v) k fun c => writeCoreCsr c a v

/-! ### the Zicsr instructions -/

/-- CSR accesses that a transaction may contain (05 R141). -/
def txCsr (a : Nat) (write : Bool) : Bool :=
  if write then [0x001, 0x002, 0x003, 0x800, 0x802].contains a
  else [0x001, 0x002, 0x003].contains a || (quistadCsr a && a / 256 % 4 == 0)

/-- A Zicsr instruction: the decode checks, UNSUPP, presence, the field rules, then rd and the CSR (03 R52, 02 R31). A
read of fcsr or fflags waits for the context's VEC instructions (02 R27). -/
def csrOp (i : Instr) (rd : BitVec 5) (csr : BitVec 12) (src : Option (BitVec 5)) (reads writes : Bool)
    (new : State → Word → Word) (s : State) : Out :=
  let a := csr.toNat
  if csrAllowed (me s).mode a writes = false then illegal s (wordOfInstr i)
  else if inTx s && !txCsr a writes then .next (abortMe s Abort.unsupp 0 0)
  else
    let vec := if reads && (a == 0x001 || a == 0x003) then [Cond.vecDone] else []
    issueTx { xr := src.toList, xw := [rd], extra := vec } (fun s =>
      let old := csrRead s s.turn s.cur a
      let v := new s old
      if writes && csrForbids (myCore s) a v then illegal s (wordOfInstr i)
      else
        let s := if writes then csrWrite s s.turn s.cur a v else s
        .next (if reads then retireX s rd old else retire s)) s

/-- csrrw; with rd = x0 the CSR is not read (Zicsr) -/
def execCsrrw (rd rs1 : BitVec 5) (csr : BitVec 12) (s : State) : Out :=
  csrOp (.csrrw rd rs1 csr) rd csr (some rs1) (rd != 0) true (fun s _ => xr s rs1) s

/-- csrrs; with rs1 = x0 the CSR is not written -/
def execCsrrs (rd rs1 : BitVec 5) (csr : BitVec 12) (s : State) : Out :=
  csrOp (.csrrs rd rs1 csr) rd csr (some rs1) true (rs1 != 0) (fun s old => old ||| xr s rs1) s

/-- csrrc -/
def execCsrrc (rd rs1 : BitVec 5) (csr : BitVec 12) (s : State) : Out :=
  csrOp (.csrrc rd rs1 csr) rd csr (some rs1) true (rs1 != 0) (fun s old => old &&& ~~~(xr s rs1)) s

/-- csrrwi -/
def execCsrrwi (rd uimm : BitVec 5) (csr : BitVec 12) (s : State) : Out :=
  csrOp (.csrrwi rd uimm csr) rd csr none (rd != 0) true (fun _ _ => uimm.setWidth 64) s

/-- csrrsi; with uimm = 0 the CSR is not written -/
def execCsrrsi (rd uimm : BitVec 5) (csr : BitVec 12) (s : State) : Out :=
  csrOp (.csrrsi rd uimm csr) rd csr none true (uimm != 0) (fun _ old => old ||| uimm.setWidth 64) s

/-- csrrci -/
def execCsrrci (rd uimm : BitVec 5) (csr : BitVec 12) (s : State) : Out :=
  csrOp (.csrrci rd uimm csr) rd csr none true (uimm != 0) (fun _ old => old &&& ~~~(uimm.setWidth 64)) s

/-! ### the rows for CSR writes with effects of their own -/

/-- Whether a write by the executing context would be stored (02 R31). -/
def csrStores (s : State) (a : Nat) (v : Word) : Bool :=
  csrAllowed (me s).mode a true && !csrForbids (myCore s) a v

/-- CSR_WRITE: the write of a CSR by the executing context, after its checks (02 R31) -/
def execCsrWrite (csr : BitVec 12) (v : Word) (s : State) : Out :=
  .next (if csrStores s csr.toNat v then csrWrite s s.turn s.cur csr.toNat v else s)

/-- A write of word A or B of a region descriptor (02 R40, 14 R298) -/
def execQrgnWrite (word : BitVec 4) (v : Word) (s : State) : Out :=
  .next (if csrStores s (0x5C0 + word.toNat) v then modMyCore s fun c => writeQrgn c word.toNat v else s)

/-- A write of qrxcnt sets the landing count (02 R37) -/
def execQrxcntWrite (v : Word) (s : State) : Out :=
  .next (modMyCore s fun c => setCount c (v.setWidth 32))

/-- A write of qcont (02 R42) -/
def execQcontWrite (v : Word) (s : State) : Out :=
  .next (if csrStores s 0x5D5 v then writeQcont s s.turn v else s)

/-- A write of qsave (02 R43) -/
def execQsaveWrite (v : Word) (s : State) : Out :=
  .next (if csrStores s 0x5D7 v then writeQsave s s.turn v else s)

end Sys2Proof.Machine
end

