-- ==== Sys2Proof/Machine/Locks.lean ====
section
/-! DEFINITION. Gecko locks: the entries at the homes, grants, releases, ghosts and the wait of a context (05 R130 to
R135, 17 R339 to R347). -/
namespace Sys2Proof.Machine

def lockOf (s : State) (line : Nat) : Option Lock := s.locks.find? fun l => l.line == line

/-- Put or remove the entry of a line; the line's LOCK bit is set while it has one (17 R327, R341). -/
def putLock (s : State) (line : Nat) (l : Option Lock) : State :=
  let rest := s.locks.filter fun o => o.line != line
  setDir { s with locks := rest ++ l.toList } line { dirOf s line with lock := l.isSome }

/-- A waiter of a queue: core, context, time of issue, deadline. -/
abbrev Waiter := Nat × Nat × Nat × Nat

/-- The timeout of a request of core k has expired: a grant in the very cycle of the expiry comes first (17 R344). -/
def expired (s : State) (k : Nat) (w : LockWait) : Bool := w.deadline != 0 && decide (w.deadline < ownCycle s k)

/-- The lk.acq of a waiter, as its context holds it, while it is waiting. -/
def acqOfWaiter (s : State) (line : Nat) (w : Waiter) : Option LockWait :=
  (getCtx s w.1 w.2.1).lockWait.filter fun lw => lw.line == line && lw.born == w.2.2.1

/-- The waiter has left its queue, or its timeout has expired: its entry is a ghost (17 R344). -/
def isGhost (s : State) (line : Nat) (w : Waiter) : Bool :=
  match acqOfWaiter s line w with
  | some lw => expired s w.1 lw
  | none => true

/-- Waiters that have not left (17 R341 QLEN). -/
def queueLength (s : State) (l : Lock) : Nat := (l.queue.filter fun w => !isGhost s l.line w).length

/-- The record of context n of the saved rank of a core. -/
def recordBase (r : SavedRank) (n : Nat) : Nat := r.base + 0x1000 + 0x600 * (n % 16)

/-- The header and records of a saved context's image are held for a committing transaction (17 R338). -/
def imageHeld (s : State) (k n : Nat) : Bool :=
  decide (16 ≤ n) && (match rankSaved (getCore s k) n with
    | some r => heldForCommit s r.base 0x6000
    | none => false)

/-- The redirect entry of a register is done (12 R270). -/
def redirectDone (s : State) (k n : Nat) (vreg : Bool) (reg : Nat) : State :=
  match rankSaved (getCore s k) n with
  | none => s
  | some r =>
    let want := 2 ^ 11 + n % 16 * 2 ^ 6 + vreg.toNat * 2 ^ 5 + reg
    match (List.range 256).find? fun e => readLE s.mem (r.base + 0x800 + 8 * e) 8 / 2 ^ 52 == want with
    | none => s
    | some e =>
      let a := r.base + 0x800 + 8 * e
      agentWrite s k n a (leBytes 8 (readLE s.mem a 8 ||| 2 ^ 62))

/-- A reply or fill of an x register of a saved context: its slot in the image, its bit in STATE, then DONE (12 R270). -/
def imageFill (s : State) (k n rd : Nat) (v : Word) : State :=
  match rankSaved (getCore s k) n with
  | none => s
  | some r =>
    let rec_ := recordBase r n
    let st := readLE s.mem (rec_ + 0x5C8) 8
    if rd = 0 then s
    else
      let s := agentWrite s k n (rec_ + 8 * rd) (leBytes 8 v.toNat)
      redirectDone (agentWrite s k n (rec_ + 0x5C8) (leBytes 8 (st ||| 2 ^ rd))) k n false rd

/-- The PC of a saved context passes the instruction whose wait is over. -/
def imageAdvance (s : State) (k n : Nat) : State :=
  match rankSaved (getCore s k) n with
  | none => s
  | some r =>
    let a := recordBase r n + 0x5C0
    agentWrite s k n a (leBytes 8 (readLE s.mem a 8 + 4))

/-- A lock request of a context completes: rd receives the status, and a context that named x0 goes on (05 R130). A
saved context finds it in its image (12 R270). -/
def completeRequest (s : State) (k n : Nat) (w : LockWait) (status : Int) : State :=
  let s := if n < 16 then s else if w.rd = 0 then redirectDone s k n false 0 else imageFill s k n w.rd (wordOf status)
  let s := if 16 ≤ n && w.rd == 0 && (getCtx s k n).st == .waiting (.lock w.line) then imageAdvance s k n else s
  modCtx s k n fun c =>
    let c := { c with regs := replyX c.regs w.rd (wordOf status) }
    if w.rd ≠ 0 then c
    else
      let c := if c.keptWait = some (.lock w.line) then { c with keptWait := some .ended } else c
      if c.st = .waiting (.lock w.line) then { c with st := .live, regs := { c.regs with pc := c.regs.pc + 4 } } else c

/-- The lk.acq of a context completes. -/
def completeWait (s : State) (k n : Nat) (status : Int) : State :=
  match (getCtx s k n).lockWait with
  | none => s
  | some w => completeRequest (modCtx s k n fun c => { c with lockWait := none }) k n w status

/-- An lk.try of a context completes. -/
def completeTry (s : State) (k n born : Nat) (status : Int) : State :=
  match (getCtx s k n).lockTries.find? fun w => w.born == born with
  | none => s
  | some w => completeRequest (modCtx s k n fun c => { c with lockTries := c.lockTries.filter (· != w) }) k n w status

/-- The lock request of a context that is an lk.try by its time of issue, or its lk.acq. -/
def requestOf (c : Context) (once : Option Nat) : Option LockWait :=
  match once with
  | some born => c.lockTries.find? fun w => w.born == born
  | none => c.lockWait

/-- The request of a message completes: an lk.try by its time of issue, or the lk.acq. -/
def completeFor (s : State) (k n : Nat) (once : Option Nat) (status : Int) : State :=
  match once with
  | some born => completeTry s k n born status
  | none => completeWait s k n status

/-- A context holds a line's lock. -/
def giveLock (s : State) (k n line : Nat) : State :=
  modCtx s k n fun c => { c with locks := c.locks ++ [line] }

/-- Transactions that hold the line's tile abort with LOCKED before a grant (17 R339). -/
def grantAborts (s : State) (line : Nat) : State :=
  let tile := line / 8
  let hs := (openTxs s (paPkg (line * 64))).filter fun h =>
    h.2.2.readSet.contains tile || h.2.2.writeSet.contains tile || h.2.2.redSet.contains tile
  abortLosers s tile Abort.locked (hs.map fun h => (h.1, h.2.1))

/-- A committing transaction holds the grant until its release (17 R339). -/
def grantHeld (s : State) (line : Nat) : Bool := heldForCommit s (line * 64) 64

/-- The line goes to the new holder in M when the releasing L1 still has it, or from the home (17 R342, R343). -/
def moveLine (s : State) (k line : Nat) : State :=
  if paPkg (line * 64) = pkgOf k then
    let s := l2Take (l1Alloc s k (line * 64)) k line
    l1AfterWrite (homeWrite s line (some (clusterIn k))) k line
  else s

/-- The waiters of a queue that TAIL and the predecessors behind it still name. -/
def tailIn (s : State) (line : Nat) (queue : List Waiter) : List Waiter :=
  match lockOf s line with
  | some l => l.tail.filter fun w => queue.contains w
  | none => []

/-- The entry of a line that a context holds, with the queue that is left. -/
def heldLock (s : State) (line k n : Nat) (queue : List Waiter) (poisoned : Bool) : Lock :=
  { line := line, held := true, hcore := k, hctx := n, queue := queue, tail := tailIn s line queue, poison := poisoned }

/-- Grant a lock to a context (17 R342, R343, R347): the status is PREVDIED after a poisoned release. -/
def grantTo (s : State) (line k n : Nat) (once : Option Nat) (queue : List Waiter) (poisoned withLine : Bool) : State :=
  let s := grantAborts s line
  let s := putLock s line (some (heldLock s line k n queue poisoned))
  let s := if withLine then moveLine s k line else s
  giveLock (completeFor s k n once (if poisoned then Status.prevdied else 0)) k n line

/-- Drop a ghost from its core's table. -/
def dropGhost (s : State) (line : Nat) (w : Waiter) : State :=
  modCore s w.1 fun c => { c with ghosts := c.ghosts.filter fun g =>
    !(g.line == line && g.ctx == w.2.1 && g.born == w.2.2.1) }

/-- The ghost table of a core has an entry (17 R344). -/
def ghostFree (s : State) (k : Nat) : Bool := decide ((getCore s k).ghosts.length < Config.ghostTable)

/-- The link of a waiter stays as a ghost. -/
def addGhost (s : State) (k n : Nat) (w : LockWait) : State :=
  modCore s k fun c => { c with ghosts := c.ghosts ++ [{ line := w.line, ctx := n, born := w.born }] }

/-- The home learns that a waiter has left: TAIL goes back to its predecessor when it was the last (17 R342). -/
def leaveTail (s : State) (line k n born : Nat) : State :=
  { s with locks := s.locks.map fun l => if l.line == line then
      { l with tail := match l.tail with
        | w :: ws => if w.1 == k && w.2.1 == n && w.2.2.1 == born then ws else w :: ws
        | [] => [] }
      else l }

/-- A waiter leaves with a status and becomes a ghost (17 R344). -/
def leaveAsGhost (s : State) (k n : Nat) (status : Int) : State :=
  match (getCtx s k n).lockWait with
  | none => s
  | some w => completeWait (leaveTail (addGhost s k n w) w.line k n w.born) k n status

/-- A ghost passes a handoff on and is gone; a waiter whose timeout expired before leaves with TIMEOUT (17 R344). -/
def passGhost (s : State) (line : Nat) (w : Waiter) : State :=
  let s := match acqOfWaiter s line w with
    | some _ => completeWait s w.1 w.2.1 Status.timeout
    | none => s
  modCore (dropGhost s line w) w.1 fun c => { c with succs := c.succs.filter fun e => !(e.1 == line && e.2.1 == w.2.1) }

/-- The successor that a core has recorded for a context's lock of a line (17 R342). -/
def successorOf (c : Core) (line n : Nat) : Option (Nat × Nat) :=
  match c.succs.find? fun e => e.1 == line && e.2.1 == n with
  | some e => some e.2.2
  | none => none

def dropSuccessor (c : Core) (line n : Nat) : Core :=
  { c with succs := c.succs.filter fun e => !(e.1 == line && e.2.1 == n) }

/-- Release a line (05 R132, 17 R343, R347): a handoff to the recorded successor, else a release to the home. -/
def releaseLock (s : State) (k n line : Nat) (poisoned : Bool) : State :=
  let s := modCtx s k n fun c => { c with locks := c.locks.filter (· != line) }
  match successorOf (getCore s k) line n with
  | some t => send (modCore s k fun c => dropSuccessor c line n) k n (.handoff line t.1 t.2 poisoned)
  | none => send s k n (.lockRel line poisoned)

/-- Locks that a save agent holds for the contexts of a rank that ends are released with them (17 R345, R347). -/
def holdParked (s : State) (k num : Nat) : State :=
  let mine := fun (g : ParkedGrant) => g.ctx / 16 == num
  let s := ((getCore s k).parkedGrants.filter mine).foldl (fun s g => giveLock s k g.ctx g.line) s
  modCore s k fun c => { c with parkedGrants := c.parkedGrants.filter fun g => !mine g }

/-- Release every line of a context with the poison mark (04 R84). -/
def releaseAll (s : State) (k n : Nat) : State :=
  (getCtx s k n).locks.foldl (fun s line => releaseLock s k n line true) s

/-- A lock request is withdrawn: its message, or its place in the queue, which closes up (04 R84). -/
def withdrawRequest (k n : Nat) (s : State) (w : LockWait) : State :=
  { s with
    msgs := s.msgs.filter fun m => !(m.core == k && m.ctx == n &&
      (match m.kind with | .lockReq l _ _ b => l == w.line && b == w.born | _ => false)),
    locks := s.locks.map fun l => if l.line == w.line then
      { l with
        queue := l.queue.filter fun q => !(q.1 == k && q.2.1 == n && q.2.2.1 == w.born),
        tail := l.tail.filter fun q => !(q.1 == k && q.2.1 == n && q.2.2.1 == w.born) } else l }

/-- Lock requests of a context that a test picks are withdrawn. -/
def leaveQueues (s : State) (k n : Nat) (p : LockWait → Bool) : State :=
  let s := ((lockRequests (getCtx s k n)).filter p).foldl (withdrawRequest k n) s
  modCtx s k n fun c => { c with lockWait := c.lockWait.filter fun w => !p w, lockTries := c.lockTries.filter fun w => !p w }

/-- Every lock request of a context is withdrawn. -/
def leaveQueue (s : State) (k n : Nat) : State := leaveQueues s k n fun _ => true

/-- The word of lk.stat (05 R133), for a reading context. -/
def lockStatus (s : State) (line k n : Nat) : Word :=
  let wait := match (getCtx s k n).lockWait with
    | some w => w.line == line
    | none => false
  let mine := (getCtx s k n).locks.contains line
  let low := (if wait then 4 else 0) + (if mine then 2 else 0)
  match lockOf s line with
  | none => BitVec.ofNat 64 low
  | some l =>
    let q := min (queueLength s l) 65535
    if l.held then
      BitVec.ofNat 64 (pkgOf l.hcore * 2 ^ 56 + q * 2 ^ 32 + lidOf l.hcore * 2 ^ 20 + l.hctx % 16 * 2 ^ 16 +
        (if l.poison then 8 else 0) + low + 1)
    else BitVec.ofNat 64 (q * 2 ^ 32 + low)

/-! ### deadlock search (17 R346) -/

/-- The line that a context waits for. -/
def waitsFor (s : State) (k n : Nat) : Option (Nat × Nat) :=
  match (getCtx s k n).lockWait with
  | some w => some (w.line, w.born)
  | none => none

/-- Follow holders and the locks they wait for, from a lock until the search returns to the lock it started from: the
waiters of the cycle, or nothing when it ends at a free lock or at a holder that waits for none. -/
def cycleFrom (s : State) (start : Nat) : Nat → Nat → List (Nat × Nat × Nat) → List (Nat × Nat × Nat)
  | 0, _, _ => []
  | fuel + 1, line, seen =>
    match lockOf s line with
    | none => []
    | some l =>
      if l.held = false then []
      else match waitsFor s l.hcore l.hctx with
        | none => []
        | some (next, born) =>
          let seen := seen ++ [(born, l.hcore, l.hctx)]
          if next = start then seen else cycleFrom s start fuel next seen

/-- The larger time of issue is younger, then the larger core, then the larger context. -/
def younger (a b : Nat × Nat × Nat) : Bool :=
  decide (b.1 < a.1) || (a.1 == b.1 && (decide (b.2.1 < a.2.1) || (a.2.1 == b.2.1 && decide (b.2.2 < a.2.2))))

def youngest : List (Nat × Nat × Nat) → Option (Nat × Nat × Nat)
  | [] => none
  | w :: ws => match youngest ws with
    | none => some w
    | some v => if younger w v then some w else some v

end Sys2Proof.Machine
end

