-- ==== Sys2Proof/Machine/Kill.lean ====
section
/-! DEFINITION. The end of a context (04 R82, R84), the stop of a core for containment (12 R265), escalation (12 R263,
R264), and the completion record (01 R16, R17). -/
namespace Sys2Proof.Machine

/-! ### completion records -/

def launchOf (s : State) (id : Nat) : Option Launch := s.launches.find? fun l => l.id == id
def modLaunch (s : State) (id : Nat) (f : Launch → Launch) : State :=
  { s with launches := s.launches.map fun l => if l.id == id then f l else l }

/-- What an access of n bytes by the device for a tenant meets: the form of the address, a path, and the target (14 R287,
R288, R303). A scratchpad serves ranks of its launch alone (14 R289). -/
def deviceError (s : State) (pkg tenant pa n : Nat) (write : Bool) : Option Nat :=
  let sp := paSpace pa
  if 2 ^ 56 ≤ pa ∨ ¬ (sp = 0 ∨ sp = 1 ∨ sp = 2 ∨ sp = 8 ∨ sp = 15) then some Reason.reserved
  else if s.pkgs.contains (paPkg pa) = false then some Reason.absent
  else if paPkg pa ≠ pkg ∧ unreachable s pkg (paPkg pa) = true then some Reason.linklost
  else if sp < 2 then mainError s pa n write
  else if sp = 2 then some Reason.notlaunch
  else if sp = 8 then match hostWindow s pkg tenant (paOff pa / 2 ^ 38) with
    | none => some Reason.absent
    | some h => if paOff pa % 2 ^ 38 + n ≤ h.size then (if h.wr || !write then none else some Reason.readonly) else some Reason.absent
  else some Reason.absent

/-- An access of the device that does not reach its target is logged, a read as a load and a write as a store (14 R303). -/
def deviceLost (s : State) (pkg tenant pa reason : Nat) (write : Bool) : State :=
  post s { pkg := loggedAt s pkg pa reason, tenant := tenant, type := 1, code := reasonCode reason, addr := BitVec.ofNat 64 pa,
           value := if write then 2 else 1 }

/-- Where the device finds an address of main memory: a physical address, forwarded by tails (19 R371, R378). -/
def deviceAt (s : State) (pa : Nat) : Nat := if isMain pa then throughTails s 2 pa else pa

/-- An access of the device waits: for a page in handover, or for the commit of a transaction (17 R338, 19 R368). -/
def deviceHeld (s : State) (pa n : Nat) (write : Bool) : Bool :=
  isMain pa && (route s write 2 pa == .wait || heldForCommit s (deviceAt s pa) n)

/-- The bytes of an access from an address to the end of its line. -/
def lineRest (pa n : Nat) : Nat := min n (64 - pa % 64)

/-- A line of n bytes that the device reads waits. -/
def readHeld (s : State) (pa n : Nat) : Bool :=
  (List.range (n / 64 + 2)).any fun i =>
    let a := if i = 0 then pa else (pa / 64 + i) * 64
    decide (a < pa + n) && deviceHeld s a 1 false

/-- n bytes that the device cannot read: free values (log entry 76). -/
def unreadBytes (s : State) (n : Nat) : List Byte × State :=
  ((List.range n).map fun i => BitVec.ofNat 8 (Config.freeValue (s.fresh + i)).toNat, { s with fresh := s.fresh + n })

/-- A line, or a part of one, that the device reads for a tenant outside host windows. -/
def readLine (s : State) (pkg tenant pa n : Nat) : List Byte × State :=
  match deviceError s pkg tenant pa n false with
  | some r => unreadBytes (deviceLost s pkg tenant pa r false) n
  | none => match route s false 2 pa with
    | .serve q => let r := agentRead (noteForwards s pkg 2 pa) s.turn s.cur q n; (leBytes n r.1, r.2)
    | .chain => unreadBytes (deviceLost s pkg tenant pa Reason.migchain false) n
    | _ => unreadBytes (deviceLost s pkg tenant pa Reason.migstale false) n

/-- n bytes that the device reads for a tenant outside host windows, line by line, up to a number of lines. -/
def readDevice (s : State) (pkg tenant : Nat) : Nat → Nat → Nat → List Byte × State
  | 0, _, _ => ([], s)
  | lines + 1, pa, n =>
    if n = 0 then ([], s)
    else
      let r := readLine s pkg tenant pa (lineRest pa n)
      let t := readDevice r.2 pkg tenant lines (pa + lineRest pa n) (n - lineRest pa n)
      (r.1 ++ t.1, t.2)

/-- The device writes bytes for a tenant; to a host window the bytes of `next` follow, at an address of the same window, once
the host has acknowledged the first (20 R387). -/
def deviceWrite (s : State) (pkg tenant pa : Nat) (bs : List Byte) (next : List (Nat × List Byte)) : State :=
  match deviceError s pkg tenant pa bs.length true with
  | some r => deviceLost s pkg tenant pa r true
  | none =>
    if isHost pa then
      toHost s { id := 0, pkg := pkg, tenant := tenant, type := 0x11, window := paOff pa / 2 ^ 38, offset := paOff pa % 2 ^ 38,
                 len := bs.length, data := bs, follow := next.map fun e => (paOff e.1 % 2 ^ 38, e.2), seq := 0 }
    else match route s true 2 pa with
      | .serve q => agentWrite (noteForwards s pkg 2 pa) s.turn s.cur q bs
      | .wait => s
      | .chain => deviceLost s pkg tenant pa Reason.migchain true
      | .stale => deviceLost s pkg tenant pa Reason.migstale true

/-- A completion record: bytes 0x04 to 0x3F, then, as a release, the status word (01 R16, R17). -/
def writeRecord (s : State) (pkg tenant pa status detail : Nat) (tag : Word) (parcels cores first : Nat) (f : RecFault) : State :=
  let body := leBytes 4 detail ++ leBytes 8 tag.toNat ++ leBytes 4 parcels ++ leBytes 4 cores ++ leBytes 4 first ++
    leBytes 4 0 ++ leBytes 8 f.addr.toNat ++ leBytes 8 f.pc.toNat ++ leBytes 4 f.core.toNat ++ leBytes 4 f.ctx.toNat ++
    leBytes 8 0
  let word := leBytes 4 status
  if isHost pa then deviceWrite s pkg tenant (pa + 4) body [(pa, word)]
  else deviceWrite (deviceWrite s pkg tenant (pa + 4) body []) pkg tenant pa word []

/-- The record of a launch that has ended: FAILED with its fault, or COMPLETE. -/
def finishLaunch (s : State) (l : Launch) : State :=
  let first := match l.place with | k :: _ => lidOf k | [] => 0xFFFFFFFF
  let s := match l.failed with
    | some f => writeRecord s l.pkg l.tenant l.record 2 f.code l.tag l.done l.place.length first f
    | none => writeRecord s l.pkg l.tenant l.record 1 0 l.tag l.done l.place.length first { code := 0 }
  modLaunch s l.id fun l => { l with finished := true }

/-- The first fault to escalate fails a launch (12 R264). -/
def failLaunch (s : State) (id : Nat) (f : RecFault) : State :=
  modLaunch s id fun l => match l.failed with
    | none => { l with failed := some f }
    | some _ => l

/-! ### the end of a context -/

/-- Requests of an ended context: stores are still performed, replies are discarded (04 R81, R82). Plain loads and
computed results have no effect left. -/
def orphanReq (k n : Nat) (r : Req) : Option Req :=
  if r.core == k && r.ctx == n then
    match r.kind with
    | .load => none
    | .compute => none
    | .pageState => none
    | .lockState => none
    | _ => some { r with orphan := true, queued := false, dst := .none, fail := none }
  else some r

/-- Messages of an ended context: counted arrivals stay, their replies are discarded. -/
def orphanMsg (k n : Nat) (m : Msg) : Msg :=
  if m.core == k && m.ctx == n then
    match m.kind with
    | .arrive d l dr _ _ => { m with kind := .arrive d l dr 0 none }
    | _ => m
  else m

/-- Commands that name a token register pass to context 0 (04 R82). -/
def orphanCommands (c : Core) (n : Nat) : Core :=
  { c with
    cq := c.cq.map fun x => if x.ctx == n then { x with orphan := true } else x,
    mq := c.mq.map fun x => if x.ctx == n then { x with orphan := true } else x,
    gq := c.gq.map fun x => if x.ctx == n then { x with orphan := true } else x,
    pubs := c.pubs.map fun x => if x.ctx == n then { x with orphan := true } else x,
    ctxops := c.ctxops.map fun x => if x.issuer == n then { x with orphan := true } else x,
    vq := c.vq.map fun e => if e.ctx == n then
      (match e.work with | .memory id => { e with work := .memory id } | w => { e with work := w, orphan := true }) else e,
    domset := (match c.domset with | some (m, rd, col, key) => some (m, if m = n then 0 else rd, col, key) | none => none) }

/-- An ended context: everything at reset but the trap registers, which no rule clears (02 R29). -/
def Context.ended (c : Context) : Context :=
  { mstatus := c.mstatus, mepc := c.mepc, mcause := c.mcause, mtval := c.mtval, mscratch := c.mscratch, sepc := c.sepc,
    scause := c.scause, stval := c.stval, sscratch := c.sscratch }

/-- The accesses that a context ordered behind the end of helpers follows: its own list with what those helpers have
not performed (04 R85); h = 0 names every other helper. -/
def helperAccesses (s : State) (k n h : Nat) : List Nat :=
  (getCtx s k n).after.filter (undone s) ++
    ((s.reqs.filter fun r => r.core == k && decide (1 ≤ r.ctx) && decide (r.ctx ≤ 10) && (h == 0 && r.ctx != n || r.ctx == h) &&
      r.orphan && !reqDone r).map (·.id))

/-- Context n's hwait is over once the helpers it names are free (04 R83); one that an upcall interrupted is over when
it resumes. -/
def endHwait (s : State) (k n : Nat) : State :=
  let s := match (getCtx s k n).keptWait with
    | some (.helper h) =>
      if helpersFree (getCore s k) n h then
        modCtx s k n fun c => { c with keptWait := some .ended, after := helperAccesses s k n h }
      else s
    | _ => s
  match (getCtx s k n).st with
  | .waiting (.helper h) =>
    if helpersFree (getCore s k) n h then
      modCtx s k n fun c => { c with st := .live, after := helperAccesses s k n h, regs := { c.regs with pc := c.regs.pc + 4 } }
    else s
  | _ => s

/-- A helper has become free: the hwaits for it end. -/
def wakeHwaits (s : State) (k : Nat) : State := (List.range 11).foldl (fun s n => endHwait s k n) s

/-- A context ends: its transaction aborts, its locks go with the poison mark, its queued lock request leaves, its wait
ends, its outstanding work is left as R82 says, and it is free, which ends the hwaits for it. -/
def endContext (s : State) (k n : Nat) : State :=
  let s := abortCtx s k n Abort.explicit 0 0
  let s := leaveQueue (releaseAll s k n) k n
  let s := { s with reqs := s.reqs.filterMap (orphanReq k n), msgs := s.msgs.map (orphanMsg k n),
                    pages := s.pages.map fun p => if p.core == k && p.ctx == n then { p with orphan := true } else p }
  wakeHwaits (modCtx (modCore s k fun c => orphanCommands c n) k n Context.ended) k

def endContexts (s : State) (k : Nat) : List Nat → State
  | [] => s
  | n :: ns => endContexts (endContext s k n) k ns

/-! ### containment -/

/-- Mark a counter broken and tell its members (04 R103). -/
def breakDom (s : State) (id : Nat) : State :=
  match domOf s id with
  | none => s
  | some d =>
    let s := { s with doms := s.doms.map fun x => if x.id == id then { x with broken := true } else x }
    d.members.foldl (fun s m => send s m 0 (.completion id 0 m true false)) s

/-- A counter is broken when a member that has not arrived is retired (04 R103). -/
def breakLevels (s : State) (ls : List Level) : State :=
  ls.foldl (fun s l => if l.arrived || l.dropped || domBroken s l.dom then s else breakDom s l.dom) s

/-- The partners of a core's paired commands (07 R196, 12 R265 step 4) end with PAIRFAIL. -/
def failPartners (s : State) (k : Nat) : State :=
  { s with cores := s.cores.map fun e => if e.1 == k then e else
      (e.1, { e.2 with mq := e.2.mq.map fun x =>
        if x.pair == some k && x.status.isNone then { x with status := some Status.pairfail } else x }) }

/-- The rank of a core has retired: RETIRE is raised (11 R237). -/
def retireNow (s : State) (k : Nat) : State :=
  let c := getCore s k
  if c.retiring then
    let s := setCore s k { c with retiring := false, stopping := false, launch := none }
    match c.launch with
    | some l => raiseSched s (pkgOf k) (.retire k l)
    | none => s
  else s

/-- An orphaned migration of a core's rank has not completed (12 R262). -/
def migrationOpen (s : State) (k : Nat) : Bool :=
  s.pages.any fun p => p.core == k && decide (p.ctx < 16) && p.orphan && p.st != .tail && p.st != .stale

/-- Accesses of contexts of a core in a range of numbers that are issued and not performed and answered. -/
def accessesOpen (s : State) (k num : Nat) : Bool := s.reqs.any fun r => r.core == k && r.ctx / 16 == num

/-- A saved rank that is stopped retires once its accesses have been performed and answered (12 R265). -/
def retireSaved (s : State) (k : Nat) (r : SavedRank) : State :=
  if r.ending && !accessesOpen s k r.num then
    raiseSched (modCore s k fun c => { c.dropSaved r.num with ctxs := c.ctxs.filter fun e => e.1 / 16 != r.num }) (pkgOf k)
      (.retire k r.launch)
  else s

/-- RETIRE is raised once every command of the rank has completed (12 R262), or when the rank is stopped, once its issued
accesses have been performed and answered as well (12 R265). -/
def raiseRetire (s : State) (k : Nat) : State :=
  let s := (savedRanks (getCore s k)).foldl (fun s r => retireSaved s k r) s
  let c := getCore s k
  if c.cq.isEmpty && c.mq.isEmpty && (ownGathers c).isEmpty && c.pubs.isEmpty &&
      (if c.stopping then !accessesOpen s k 0 else !migrationOpen s k) then
    retireNow s k
  else s

/-- A copy that is inside a KiB stops at its end, without a token (12 R265). -/
def stopCopy (x : CopyCmd) : Option CopyCmd :=
  if x.started && !x.failed && decide (x.pos < x.goal) then some { x with cancel := true, orphan := true } else none

/-- Stop a core for containment (12 R265): the contexts end, commands that have not started go, and a running multiply;
copies end at their KiB, flips in progress complete, and then the rank that it runs raises RETIRE. -/
def stopCore (s : State) (k : Nat) : State :=
  let s := endContexts s k (List.range 11)
  let s := failPartners (breakLevels s (getCore s k).levels) k
  let c := getCore s k
  let s := { s with reqs := s.reqs.filterMap fun r =>
    if r.core == k && c.vq.any (fun e => e.work == .memory r.id) then none else some r }
  raiseRetire (setCore s k { c with
    vq := [], mq := [], cq := c.cq.filterMap stopCopy, gq := c.gq.filter fun g => decide (16 ≤ g.ctx), pubs := c.pubs.filter (·.flipped), ctxops := [], upq := [],
    slots := [], actSlot := none, xch := none, domset := none, retiring := c.launch.isSome, stopping := c.launch.isSome,
    halted := false }) k

/-- A core that is reset, or whose arrays are lost, has nothing left to stop: its rank retires at once. -/
def stopNow (s : State) (k : Nat) : State :=
  retireNow (modCore (stopCore s k) k fun c => { c with cq := [], pubs := [] }) k

/-- A saved rank stops (12 R265): its contexts end and its gather commands go, and it retires once its accesses have been
performed and answered. -/
def stopSavedRank (s : State) (k : Nat) (r : SavedRank) : State :=
  if r.ending then s
  else
    let s := breakLevels (endContexts (holdParked s k r.num) k (savedCtxs r.num)) r.levels
    raiseRetire (modCore s k fun c => { c.modSaved (16 * r.num) fun r => { r with ending := true } with
      gq := c.gq.filter fun g => g.ctx / 16 != r.num }) k

/-- The saved ranks of a launch on a core stop. -/
def dropSavedRank (s : State) (k l : Nat) : State :=
  ((savedRanks (getCore s k)).filter fun r => r.launch == l).foldl (fun s r => stopSavedRank s k r) s

/-- Stop the ranks of a launch on some cores: running ones and saved ones. -/
def stopRanks (s : State) (id : Nat) : List Nat → State
  | [] => s
  | k :: ks =>
    let c := getCore s k
    stopRanks (if c.launch = some id then (if c.stopping then s else stopCore s k) else dropSavedRank s k id) id ks

/-- A launch ends: every core that runs or holds saved one of its ranks stops, and ranks that have not started never
do. -/
def stopLaunch (s : State) (l : Launch) : State :=
  let s := stopRanks s l.id l.place
  l.unstarted.foldl (fun s k => raiseSched (modLaunch s l.id fun x => { x with unstarted := [] }) (pkgOf k) (.retire k l.id)) s

/-- The containment of a core under a policy (12 R264): log the fault and stop what the policy names. -/
def contain (s : State) (k n code : Nat) (addr pc : Word) (ctxField coreField : BitVec 32) : State :=
  let c := getCore s k
  let esc := bitsOf c.qcont 11 8
  let s := postFor s k n 2 code addr pc (BitVec.ofNat 64 esc)
  let whole := esc == 0 || (esc == 1 && c.domDepth == 0)
  match c.launch with
  | none => stopCore s k
  | some id =>
    match launchOf s id with
    | none => stopCore s k
    | some l =>
      if whole then
        let s := failLaunch s id { code := code, addr := addr, pc := pc, core := coreField, ctx := ctxField }
        stopCore (stopLaunch s { l with place := l.place.filter (· != k) }) k
      else if esc = 1 then
        match levelAt c c.domDepth.toNat with
        | some lv => match domOf s lv.dom with
          | some d => stopRanks s id d.members
          | none => stopCore s k
        | none => stopCore s k
      else stopCore s k

/-- Escalation of a fault of core k, context n (12 R263). -/
def escalate (s : State) (k n code : Nat) (addr pc : Word) : State :=
  contain s k n code addr pc (BitVec.ofNat 32 n) (BitVec.ofNat 32 (lidOf k))

/-- Direct containment, with the PC of the context (12 R254). -/
def containDirect (s : State) (k n code : Nat) (addr : Word) : State :=
  escalate s k n code addr (getCtx s k n).regs.pc

/-- A trap that the runtime of a launch takes in M mode is a fault of the runtime: firmware escalates it at once, with
the trap's code, tval and PC (12 R263). `old` is the state before the trap. -/
def serveFirmware (k n : Nat) (old s : State) : State :=
  let c := getCtx s k n
  if (getCtx old k n).mode == .s && c.mode == .m && (getCore s k).launch.isSome then
    escalate s k n (bitsOf c.mcause 15 0) c.mtval c.mepc
  else s

end Sys2Proof.Machine
end

