-- ==== Sys2Proof/Machine/Rank.lean ====
section
/-! DEFINITION. Starting a rank, ending its parcels and retiring it (01 R13 to R15, 11 R241, R242, 12 R261, R262, 13 R277,
14 R295), and the causes that arise for context 0 of a core. -/
namespace Sys2Proof.Machine

/-! ### the stack region (14 R295) -/

/-- Slice base of a rank, when descriptor 7 is translated. -/
def sliceOf (rgn : FMap Word) (hstack rank : Nat) : Option Nat :=
  let r := regionOf rgn 7
  if r.kind = 1 then some (r.base * 65536 + rank * ((64 + 10 * hstack) * 1024)) else none

/-- sp of context 0, and of helper h. -/
def sp0 (rgn : FMap Word) (hstack rank : Nat) : Word :=
  match sliceOf rgn hstack rank with
  | some b => BitVec.ofNat 64 (b + (10 * hstack + 63) * 1024)
  | none => 0

def spHelper (rgn : FMap Word) (hstack rank h : Nat) : Word :=
  match sliceOf rgn hstack rank with
  | some b => if hstack = 0 then 0 else BitVec.ofNat 64 (b + h * hstack * 1024)
  | none => 0

/-! ### causes for context 0 of a core -/

/-- A launch fails as under ESC 0 for a fault that no context can take; like every fault that R264 handles, it is
logged (12 R262, R264; 20 R391). -/
def failRetired (s : State) (k n code : Nat) (addr : Word) : State :=
  match (getCore s k).launch with
  | none => s
  | some id => match launchOf s id with
    | none => s
    | some l =>
      let f : RecFault := { code := code, addr := addr, pc := 0, core := BitVec.ofNat 32 (lidOf k), ctx := BitVec.ofNat 32 n }
      stopLaunch (failLaunch (postFor s k n 2 code addr 0 0) id f) l

/-- An upcall cause of a core: after the rank's last parcel it fails the launch, or an NPUTLOST is logged (12 R262); a rank
that is stopped reports nothing (12 R265). -/
def raiseOn (s : State) (k : Nat) (u : UpcallRec) : State :=
  if (getCore s k).retiring then
    if u.code = Cause.nputlost then postFor s k u.ctx 5 0 0 u.value 0
    else if (getCore s k).stopping then s
    else failRetired s k u.ctx u.code u.value
  else raiseUpcall s k u

/-- The first free place among the 16 held upcalls of a header (12 R268). -/
def freeUpcall (s : State) (r : SavedRank) : Option Nat :=
  (List.range 16).find? fun e => readLE s.mem (r.base + 0x180 + 24 * e) 8 == 0

/-- The upcall queue of a context's rank has room, so that an engine may report a failure (12 R259). -/
def canRaise (s : State) (k n : Nat) : Bool :=
  if n < 16 then decide ((getCore s k).upq.length < Config.upcallQueue) || (getCore s k).retiring
  else match rankSaved (getCore s k) n with
    | some r => (freeUpcall s r).isSome && !imageHeld s k n
    | none => true

/-- A held upcall of a saved rank of core k, in its header; none where the 16 are in use. -/
def saveUpcall (s : State) (k : Nat) (r : SavedRank) (u : UpcallRec) : Option State :=
  match freeUpcall s r with
  | none => none
  | some e =>
    some (agentWrite s k (16 * r.num) (r.base + 0x180 + 24 * e)
      (leBytes 8 (2 ^ 63 + u.code) ++ leBytes 8 u.value.toNat ++ leBytes 8 (upctxWord u).toNat))

/-- An upcall cause of the saved rank that context n belongs to; beyond 16 it is lost (log entry 18). -/
def raiseSaved (s : State) (k n : Nat) (u : UpcallRec) : State :=
  match rankSaved (getCore s k) n with
  | none => s
  | some r => (saveUpcall s k r u).getD s

/-- The failure of a command whose context has ended (04 R82, 12 R262). -/
def raiseOrphan (s : State) (k n reg tag : Nat) (status : Int) : State :=
  if (getCore s k).stopping && decide (n < 16) then s
  else if (getCore s k).retiring && decide (n < 16) then
    failRetired s k n Cause.asyncorphan (BitVec.ofNat 64 (tag % 2 ^ 32 * 2 ^ 32 + wrapTo 32 status))
  else if 16 ≤ n then raiseSaved s k n { code := Cause.asyncorphan, value := wordOf status, tag := tag, reg := reg, ctx := n % 16 }
  else raiseUpcall s k { code := Cause.asyncorphan, value := wordOf status, tag := tag, reg := reg, ctx := n }

/-- A command's token (05 R115): its register is filled, or for an ended context a failure is reported (04 R82). -/
def fillToken (s : State) (k n rd tag : Nat) (orphan : Bool) (status : Int) : State :=
  if orphan then (if status = 0 then s else raiseOrphan s k n rd tag status)
  else if n < 16 then modCtx s k n fun c => { c with regs := replyX c.regs rd (wordOf status) }
  else imageFill s k n rd (wordOf status)

/-! ### parcels -/

/-- Context 0 at a parcel's entry (01 R13); its trap registers keep their values (11 R241 names none of them). -/
def parcelCtx (old : Context) (entry args : Word) (parcel size : Nat) (sp : Word) : Context :=
  { old.ended with
    st := .live, mode := .u,
    regs := { x := [(2, sp), (10, args), (11, BitVec.ofNat 64 parcel), (12, BitVec.ofNat 64 size)], pc := entry } }

/-- The gather commands still posted at retirement are cancelled, which fails the launch (05 R152, 12 R262). -/
def cancelGathers (s : State) (k : Nat) : State :=
  match ownGathers (getCore s k) with
  | [] => s
  | g :: _ =>
    raiseOrphan (modCore s k fun c => { c with gq := c.gq.filter fun g => decide (16 ≤ g.ctx) }) k g.ctx g.rd 0 Status.cancelled

/-- The upcalls still held when the last parcel ends (12 R262). -/
def dropUpcalls (s : State) (k : Nat) : List UpcallRec → State
  | [] => s
  | u :: us => dropUpcalls (raiseOn s k u) k us

/-- Registers in which nothing is outstanding any more. -/
def quietRegs (g : Regs) : Regs := { g with xpend := 0, fpend := 0, vpend := 0 }

/-- The rank's last parcel has ended: helpers end as hkill ends them, context saves and loads in flight end with nothing
done, context 0 is free, its locks released with the poison mark as those of the helpers, and the rank retires (01 R15; log
entry 69). Context 0 keeps its registers (18 R352). -/
def retireRank (s : State) (k : Nat) : State :=
  let s := endContexts s k [1, 2, 3, 4, 5, 6, 7, 8, 9, 10]
  let g := (getCtx s k 0).regs
  let s := modCtx (endContext s k 0) k 0 fun c => { c with regs := quietRegs g }
  let s := modCore s k fun c => { c with retiring := c.launch.isSome, ctxops := [] }
  let held := (getCore s k).upq
  let s := modCore s k fun c => { c with upq := [] }
  raiseRetire (cancelGathers (dropUpcalls s k held) k) k

/-- One parcel of a launch has ended (01 R16). -/
def countParcel (s : State) (k : Nat) : State :=
  match (getCore s k).launch with
  | some id => modLaunch s id fun l => { l with done := l.done + 1 }
  | none => s

/-- The launch and next parcel of a core's rank, if one remains (04 R91). -/
def nextParcel (s : State) (k : Nat) : Option (Launch × Nat) :=
  let c := getCore s k
  match c.launch with
  | none => none
  | some id => match launchOf s id with
    | none => none
    | some l => if c.parcel + l.cores < l.parcels then some (l, c.parcel + l.cores) else none

/-- ecall with a7 = 0 of context 0, once its accesses have completed (01 R15). What is still due to it is written into its
registers in the next parcel: tokens of its commands, statuses of its lock requests, the phases of its barrier arrivals, the
result of its dom.set and the token of its pg.mig (log entry 70). -/
def endParcel (s : State) (k : Nat) : State :=
  match nextParcel s k with
  | some (l, p) =>
    let s := modCore (countParcel s k) k fun c => { c with parcel := p }
    modCtx s k 0 fun c => { parcelCtx c l.entry l.args p l.cores (getCore s k).initSp with
      locks := c.locks, lockWait := c.lockWait, lockTries := c.lockTries, age := c.age, abortCause := c.abortCause, abortAddr := c.abortAddr }
  | none => retireRank (countParcel s k) k

/-! ### starting a rank -/

/-- Repartition the unified array for a grant (13 R277). -/
def repartition (c : Core) (bytes : Nat) : Core :=
  { c with l1 := c.l1.filter fun l => decide (l.way < 20 - bytes / 16384),
           l1ptr := [], spm := [], remap := [], spmBytes := bytes }

/-- The eight descriptors in the bytes of a REGIONS block (11 R234), reserved bits 0 (02 R40). -/
def regionsOf (bs : List Byte) : FMap Word :=
  (List.range 16).map fun i => (i, regionWord i (BitVec.ofNat 64 (leNat ((bs.drop (8 * i)).take 8))))

/-- Entries that match every launch of the partition stay at a rank start (14 R297). -/
def keepGlobal (ts : List TlbEntry) : List TlbEntry := ts.filter fun t => t.pte.getLsbD 5

/-- Start a rank of a launch, with its region descriptors, on a core (11 R241). -/
def startRank (s : State) (k : Nat) (l : Launch) (rank : Nat) (rgn : FMap Word) : State :=
  let s := modCore s k fun c => repartition c l.spm
  let sp := sp0 rgn l.hstack rank
  let s := modCore s k fun c => { c with
    qrgn := rgn, qcont := l.policy &&& qcontMask, qlaunch := BitVec.ofNat 64 (l.prio * 2 ^ 32 + l.seq % 2 ^ 32),
    domLevel := 0, domDepth := 0, acc := [], qrxcnt := 0, qupv := 0, qupcause := 0, qupval := 0, qupctx := 0, qupepc := 0,
    levels := [{ dom := l.dom, rank := rank, size := l.cores }], domset := none, xch := none, upq := [], slots := [],
    actSlot := none, initSp := sp, launch := some l.id, rank := rank, parcel := rank, retiring := false, stopping := false,
    itlb := keepGlobal c.itlb, dtlb := keepGlobal c.dtlb, wdogs := 0, lastIssue := ownCycle s k, halted := false }
  let s := modLaunch s l.id fun x => { x with unstarted := x.unstarted.filter (· != k) }
  if l.parcels ≤ rank then retireRank s k
  else modCtx s k 0 fun c => parcelCtx c l.entry l.args rank l.cores sp

end Sys2Proof.Machine
end

