-- ==== Sys2Proof/Machine/Ctx.lean ====
section
/-! DEFINITION. The CTX space (chapter 04): helpers, presence, nput, parcels, context images, barriers, domains and the
exchange. -/
namespace Sys2Proof.Machine

/-! ### helpers (04 R80 to R86) -/

/-- HSTACK of the launch that the core runs. -/
def hstackOf (s : State) (c : Core) : Nat :=
  match c.launch with
  | some id => match launchOf s id with
    | some l => l.hstack
    | none => 0
  | none => 0

/-- A new helper (04 R80); its accesses follow those of its starter (04 R85). -/
def newHelper (s : State) (by_ old : Context) (pc arg : Word) (h : Nat) (follows : List Nat) : Context :=
  let c := myCore s
  let sp := spHelper c.qrgn (hstackOf s c) c.rank h
  { old.ended with
    st := .live, mode := by_.mode, qsrseed := by_.qsrseed, qhbase := by_.qhbase, after := follows,
    regs := { x := [(2, sp), (10, arg), (11, BitVec.ofNat 64 h)], frm := by_.regs.frm, qrm := by_.regs.qrm, pc := pc } }

/-- The lowest free helper without a ctx.load in flight. -/
def freeHelper (c : Core) : Option Nat :=
  [1, 2, 3, 4, 5, 6, 7, 8, 9, 10].find? fun h => (c.ctx h).st == .free && !inCtxOpOf c h
where
  inCtxOpOf (c : Core) (h : Nat) : Bool := c.ctxops.any fun o => o.target == h

/-- hstart -/
def execHstart (rd rs1 rs2 : BitVec 5) (s : State) : Out :=
  issue { xr := [rs1, rs2], xw := [rd] } (fun s =>
    let pc := xr s rs1
    if pc.toNat % 4 ≠ 0 then trap s Cause.pcMisaligned pc
    else match freeHelper (myCore s) with
      | none => .next (retireX s rd 0)
      | some h =>
        let by_ := me s
        let arg := xr s rs2
        let follows := undoneOf s s.turn s.cur
        let s := retireX s rd (BitVec.ofNat 64 h)
        .next (modCtx s s.turn h fun old => newHelper s by_ old pc arg h follows)) s

/-- hend: a helper with a lock, a lock request or an open transaction raises HENDBUSY, which in the transaction is an abort
with FAULT (04 R81, 05 R141; log entry 59) -/
def execHend (s : State) : Out :=
  if inTx s && s.cur != 0 then trap s Cause.hendbusy 0
  else issue {} (fun s =>
    if s.cur = 0 then trap s Cause.badctx 0
    else if (me s).locks ≠ [] ∨ lockRequests (me s) ≠ [] then trap s Cause.hendbusy 0
    else .next (endContext s s.turn s.cur)) s

/-- hwait: a free helper ends it at issue; else the end of the helper does. Its end is an acquire (04 R85). -/
def execHwait (rs1 : BitVec 5) (s : State) : Out :=
  issue { xr := [rs1] } (fun s =>
    let h := xn s rs1
    if 10 < h ∨ (h ≠ 0 ∧ h = s.cur) then trap s Cause.badctx 0
    else if helpersFree (myCore s) s.cur h then
      .next (retire (modMe s fun c => { c with after := helperAccesses s s.turn s.cur h }))
    else .next (await s (.helper h))) s

/-- hkill -/
def execHkill (rs1 : BitVec 5) (s : State) : Out :=
  issue { xr := [rs1] } (fun s =>
    let h := xn s rs1
    if h = 0 ∨ 10 < h ∨ h = s.cur ∨ (myCore s).ctxops.any (fun o => o.target == h) then trap s Cause.badctx 0
    else if ((myCore s).ctx h).st = .free then .next (retire s)
    else .next (retire (endContext s s.turn h))) s

/-- The other contexts that are ready now. -/
def readyOthers (s : State) : List Nat :=
  (List.range 11).filter fun j => j != s.cur && ctxReady s s.turn j

/-- yield: done at issue; the context is not ready until every other ready context has issued once, or 11 cycles of the core
have passed (04 R86, 20 R396) -/
def execYield (s : State) : Out :=
  issueTx {} (fun s => .next (await (retire s) (.yield (ownCycle s s.turn + 11) (readyOthers s)))) s

/-! ### presence (04 R87, R88) -/

/-- pclr: the pending mark stays -/
def execPclr (kind reg : BitVec 5) (s : State) : Out :=
  issueTx {} (fun s => .next (retire (modRegs s fun g =>
    if kind = 1 then { g with vpres := putBit g.vpres reg.toNat false, latch := latchAfter g reg.toNat }
    else if reg = 0 then g else { g with xpres := putBit g.xpres reg.toNat false }))) s

/-- The two bits of ptest: pending, present. -/
def testBits (g : Regs) (kind reg : BitVec 5) : Word :=
  if kind = 1 then
    BitVec.ofNat 64 ((g.vpend.getLsbD reg.toNat).toNat * 2 + (g.vpres.getLsbD reg.toNat).toNat)
  else if reg = 0 then 1
  else BitVec.ofNat 64 ((g.xpend.getLsbD reg.toNat).toNat * 2 + (g.xpres.getLsbD reg.toNat).toNat)

/-- ptest -/
def execPtest (rd kind reg : BitVec 5) (s : State) : Out :=
  issueTx { xw := [rd] } (fun s => .next (retireX s rd (testBits (regs s) kind reg))) s

/-! ### nput (04 R89) -/

/-- Cores of the issuer's launch, the issuing core among them. -/
def launchCores (s : State) (k : Nat) : List Nat :=
  match (getCore s k).launch with
  | some id => match launchOf s id with
    | some l => k :: l.place
    | none => [k]
  | none => [k]

def nputTarget (k : Nat) (d : Word) : Nat := clusterOf k * 256 + bitsOf d 7 0

/-- A descriptor that nput accepts. -/
def nputOk (s : State) (d : Word) : Bool :=
  bitsOf d 63 22 == 0 &&
  (if d.getLsbD 17 then decide (bitsOf d 16 12 ≤ 15) else decide (1 ≤ bitsOf d 16 12) && bitsOf d 21 18 == 0) &&
  decide (bitsOf d 11 8 ≤ 10) && (launchCores s s.turn).contains (nputTarget s.turn d)

/-- nput -/
def execNput (rs1 rs2 : BitVec 5) (s : State) : Out :=
  issue { xr := [rs1, rs2] } (fun s =>
    if nputOk s (xr s rs1) = false then trap s Cause.nputrange (xr s rs1)
    else .next (retire (send s s.turn s.cur (.nput (xr s rs1) (xr s rs2))))) s

/-! ### parcels and upcalls (04 R91, R92) -/

/-- pnext: rd is filled by PARCEL_END once the accesses of the ended parcel have completed -/
def execPnext (rd : BitVec 5) (s : State) : Out :=
  issue { xw := [rd] } (fun s =>
    if s.cur ≠ 0 then trap s Cause.badctx 0
    else match nextParcel s s.turn with
      | none => .next (retireX s rd (BitVec.allOnes 64))
      | some (_, p) =>
        let s := modMyCore (countParcel s s.turn) fun c => { c with parcel := p }
        .next (retire (issueReq s .compute (.x rd.toNat 8 false)
          [{ pa := 0, va := 0, n := 0, res := p, own := true }] none none true))) s

/-- The held helper that qupctx.CTX names is released (12 R260). -/
def releaseHeld (s : State) (k : Nat) : State :=
  modCtx s k (bitsOf (getCore s k).qupctx 3 0) fun c =>
    match c.st with
    | .held _ => { c with st := .live }
    | _ => c

/-- Context 0 resumes at qupepc with the wait that the upcall interrupted (12 R258). -/
def resumeWait (c : Context) (pc : Word) : Context :=
  match c.keptWait with
  | some .ended => { c with keptWait := none, st := .live, regs := { c.regs with pc := pc + 4 } }
  | some w => { c with keptWait := none, st := .waiting w, regs := { c.regs with pc := pc } }
  | none => { c with st := .live, regs := { c.regs with pc := pc } }

/-- upret -/
def execUpret (s : State) : Out :=
  issue {} (fun s =>
    if s.cur ≠ 0 ∨ upcallActive (myCore s) = false then trap s Cause.badctx 0
    else
      let s := releaseHeld s s.turn
      let s := modMyCore s fun c => { c with slots := c.slots.filter fun x => some x != c.actSlot, actSlot := none }
      match (myCore s).upq with
      | u :: us =>
        if upcallsOn (myCore s) then
          let s := modMyCore s fun c => { c with
            upq := us, qupcause := BitVec.ofNat 64 (2 ^ 63 + u.code), qupval := u.value, qupctx := upctxWord u, actSlot := u.slot }
          .next (jumpTo s (BitVec.ofNat 64 ((myCore s).qupv.toNat / 4 * 4)))
        else
          let s := modMyCore s fun c => { c with qupcause := putBit c.qupcause 63 false }
          .next (modMe s fun c => resumeWait c (myCore s).qupepc)
      | [] =>
        let s := modMyCore s fun c => { c with qupcause := putBit c.qupcause 63 false }
        .next (modMe s fun c => resumeWait c (myCore s).qupepc)) s

/-- qhalt: S mode; not inside an exchange phase (04 R111, R113) -/
def execQhalt (s : State) : Out :=
  if privileged s = false then illegal s (wordOfInstr .qhalt)
  else issue {} (fun s =>
    if (myCore s).xch.isSome then trap s Cause.xphase 0
    else .next (retire (modMyCore s fun c => { c with halted := true }))) s

/-! ### context images (04 R93 to R95) -/

/-- ctx.save -/
def execCtxSave (rd rs1 rs2 : BitVec 5) (s : State) : Out :=
  if privileged s = false then illegal s (wordOfInstr (.ctxSave rd rs1 rs2))
  else issue { xr := [rs1, rs2], xw := [rd] } (fun s =>
    let h := xn s rs1
    if h = 0 ∨ 10 < h ∨ h = s.cur ∨ helperIsFree (myCore s) h ∨ (myCore s).ctxops.any (fun o => o.target == h) then
      trap s Cause.badctx 0
    else if xn s rs2 % 64 ≠ 0 then trap s Cause.storeMisaligned (xr s rs2)
    else
      let op : CtxOp := { load := false, issuer := s.cur, target := h, va := xr s rs2, rd := rd.toNat, id := s.nextId,
                            mode := (me s).mode, after := commandAfter s s.turn s.cur }
      .next (retire (modRegs (modMyCore { s with nextId := s.nextId + 1 } fun c => { c with ctxops := c.ctxops ++ [op] }) fun g =>
        emptyX g rd.toNat))) s

/-- ctx.load -/
def execCtxLoad (rd rs1 rs2 : BitVec 5) (s : State) : Out :=
  if privileged s = false then illegal s (wordOfInstr (.ctxLoad rd rs1 rs2))
  else issue { xr := [rs1, rs2], xw := [rd] } (fun s =>
    let h := xn s rs1
    if h = 0 ∨ 10 < h ∨ ((myCore s).ctx h).st ≠ .free then trap s Cause.badctx 0
    else if xn s rs2 % 64 ≠ 0 then trap s Cause.loadMisaligned (xr s rs2)
    else
      let op : CtxOp := { load := true, issuer := s.cur, target := h, va := xr s rs2, rd := rd.toNat, id := s.nextId,
                            mode := (me s).mode, after := commandAfter s s.turn s.cur }
      let s := modMyCore { s with nextId := s.nextId + 1 } fun c => { c.setCtx h { c.ctx h with st := .reserved } with ctxops := c.ctxops ++ [op] }
      .next (retire (modRegs s fun g => emptyX g rd.toNat))) s

/-! ### barriers (04 R97 to R103) -/

/-- Change a level of a core. -/
def modLevel (s : State) (k n : Nat) (f : Level → Level) : State :=
  modCore s k fun c => { c with levels := c.levels.mapIdx fun i l => if i = n then f l else l }

/-- The level that qdom.LEVEL selects; a core that runs no launch has no domain, which its own state does not allow
(log entry 12). -/
def withLevel (s : State) (body : Nat → Level → Out) : Out :=
  let n := (myCore s).domLevel.toNat
  match levelAt (myCore s) n with
  | some l => body n l
  | none => trap s Cause.badctx 0

/-- The checks of an arrival (04 R98, R103, R110): what it traps with. -/
def arrivalFault (s : State) (l : Level) (closing : Bool) : Option (Nat × Word) :=
  let phase : Word := BitVec.ofNat 64 ((l.last.toNat + 1) % 2 ^ 32)
  if !closing && (match (myCore s).xch with | some x => x.dom == l.dom && !x.opening | none => false) then
    some (Cause.xphase, 0)
  else if domBroken s l.dom then some (Cause.barbroken, 0)
  else if l.arrived then some (Cause.barrepeat, phase)
  else if l.dropped then some (Cause.bardropped, phase)
  else none

/-- Send an arrival: rd is emptied and the arrived flag set at issue (04 R98). -/
def arrive (s : State) (n : Nat) (l : Level) (drop : Bool) (rd : Nat) (why : Option BarWhy) : State :=
  let s := modRegs s fun g => emptyX g rd
  let s := modLevel s s.turn n fun l => { l with arrived := true, dropped := l.dropped || drop }
  send s s.turn s.cur (.arrive l.dom n drop rd why)

/-- bar.arr and bar.drop: the context goes on issuing. -/
def arriveOn (drop : Bool) (rd : BitVec 5) (s : State) : Out :=
  issue { xw := [rd] } (fun s => withLevel s fun n l =>
    match arrivalFault s l false with
    | some (c, v) => trap s c v
    | none => .next (retire (arrive s n l drop rd.toNat none))) s

/-- bar.init -/
def execBarInit (rs1 : BitVec 5) (s : State) : Out :=
  issue { xr := [rs1] } (fun s => withLevel s fun _ l =>
    let v := xn s rs1
    if l.rank ≠ 0 ∨ l.size < v then trap s Cause.barcount (xr s rs1)
    else
      let e := if v = 0 then l.size else v
      .next (retire { s with doms := s.doms.map fun d => if d.id == l.dom then { d with pend := some e } else d })) s

/-- bar.arr -/
def execBarArr (rd : BitVec 5) (s : State) : Out := arriveOn false rd s
/-- bar.drop -/
def execBarDrop (rd : BitVec 5) (s : State) : Out := arriveOn true rd s

/-- bar.wait: the test uses the core's last completed phase -/
def execBarWait (rs1 : BitVec 5) (s : State) : Out :=
  issue { xr := [rs1] } (fun s => withLevel s fun _ l =>
    if domBroken s l.dom && !phaseOver l (bitsOf (xr s rs1) 31 0) then trap s Cause.barbroken 0
    else if phaseOver l (bitsOf (xr s rs1) 31 0) then .next (retire s)
    else .next (await s (.phase l.dom (bitsOf (xr s rs1) 31 0)))) s

/-- bar.awt -/
def execBarAwt (rd : BitVec 5) (s : State) : Out :=
  issue { xw := [rd] } (fun s => withLevel s fun n l =>
    match arrivalFault s l false with
    | some (c, v) => trap s c v
    | none => .next (await (arrive s n l false rd.toNat (some .awt)) (.barrier l.dom n none rd.toNat .awt))) s

/-! ### domains (04 R104, R105) -/

/-- dom.set -/
def execDomSet (rd rs1 rs2 : BitVec 5) (s : State) : Out :=
  issue { xr := [rs1, rs2], xw := [rd] } (fun s =>
    let pop := xr s rs1 == BitVec.allOnes 64
    let c := myCore s
    if !pop ∧ 4095 < xn s rs1 then trap s Cause.domarg (xr s rs1)
    else if (pop = true ∧ c.domDepth = 0) ∨ (pop = false ∧ c.domDepth = 3) then trap s Cause.domdepth (xr s rs1)
    else if c.domset.isSome then trap s Cause.dombusy 0
    else if c.xch.isSome then trap s Cause.xphase 0
    else
      let op := (s.cur, rd.toNat, (if pop then none else some (xn s rs1)), bitsOf (xr s rs2) 31 0)
      .next (retire (modRegs (modMyCore s fun c => { c with domset := some op }) fun g => emptyX g rd.toNat))) s

/-- dom.get -/
def execDomGet (rd rs1 : BitVec 5) (s : State) : Out :=
  issue { xr := [rs1], xw := [rd] } (fun s =>
    if (myCore s).domDepth.toNat < xn s rs1 then trap s Cause.domarg (xr s rs1)
    else
      let l := (levelAt (myCore s) (xn s rs1)).getD { dom := 0, rank := 0, size := 0 }
      .next (retireX s rd (BitVec.ofNat 64 (l.size % 2 ^ 32 * 2 ^ 32 + l.rank % 2 ^ 32)))) s

/-! ### exchange (04 R106 to R110) -/

/-- xch.beg -/
def execXchBeg (rs1 : BitVec 5) (s : State) : Out :=
  issue { xr := [rs1] } (fun s =>
    let w := xr s rs1
    let off := bitsOf w 17 0
    let cap := bitsOf w 31 18
    if bitsOf w 63 32 ≠ 0 ∨ cap = 0 ∨ 4096 < cap ∨ off % 64 ≠ 0 ∨ (myCore s).spmBytes < off + 64 * cap then
      trap s Cause.xarea w
    else if (myCore s).xch.isSome then trap s Cause.xphase 0
    else withLevel s fun n l =>
      match arrivalFault s l false with
      | some (c, v) => trap s c v
      | none =>
        let why : BarWhy := .xchBeg off cap
        let s := modMyCore s fun c => { c with xch := some { dom := l.dom, level := n, off := off, cap := cap } }
        .next (await (arrive s n l false 0 (some why)) (.barrier l.dom n none 0 why))) s

/-- The exchange phase that the core is in, once it has begun. -/
def openExchange (c : Core) : Option Exchange :=
  match c.xch with
  | some x => if x.opening then none else some x
  | none => none

/-- The slot table of the core's launch lets the sender's rank send to a rank. -/
def slotAllows (s : State) (c : Core) (dst : Nat) : Bool :=
  match c.launch with
  | some id => match launchOf s id with
    | some l => l.slots.any fun e => e.2.1 == c.rank && e.2.2 == dst
    | none => false
  | none => false

/-- The core of a launch rank. -/
def coreOfRank (s : State) (c : Core) (r : Nat) : Option Nat :=
  match c.launch with
  | some id => match launchOf s id with
    | some l => l.place[r]?
    | none => none
  | none => none

/-- Whether a launch rank is a member of a domain. -/
def memberRank (s : State) (c : Core) (dom r : Nat) : Bool :=
  match coreOfRank s c r, domOf s dom with
  | some k, some d => d.members.contains k
  | _, _ => false

/-- xsend; one that issues after another context's xch.end has arrived is buffered as well, and what is still in the buffer when
the phase ends goes with it (log entry 87) -/
def execXsend (rs1 : BitVec 5) (vs : BitVec 4) (s : State) : Out :=
  issue { xr := [rs1], vr := [vs.toNat] } (fun s =>
    let c := myCore s
    match openExchange c with
    | none => trap s Cause.xphase 0
    | some x =>
      let dst := xn s rs1
      if memberRank s c x.dom dst = false ∨ slotAllows s c dst = false then trap s Cause.xslot (xr s rs1)
      else whenMet [.sendRoom] (fun s =>
        let v := readV (regs s) vs.toNat
        .next (retire (modMyCore s fun c => { c with
          xch := c.xch.map fun x => { x with buffer := x.buffer ++ [(dst, v)] } }))) s) s

/-- xrecv -/
def execXrecv (rd rs1 : BitVec 5) (s : State) : Out :=
  issue { xr := [rs1], xw := [rd] } (fun s =>
    match openExchange (myCore s) with
    | none => trap s Cause.xphase 0
    | some x =>
      let n := bitsOf (xr s rs1) 31 0
      if x.cap < n then trap s Cause.xarea (xr s rs1)
      else if n ≤ (myCore s).qrxcnt.toNat then .next (retireX s rd (BitVec.ofNat 64 (myCore s).qrxcnt.toNat))
      else .next (await s (.received n rd.toNat))) s

/-- xch.end -/
def execXchEnd (s : State) : Out :=
  issue {} (fun s =>
    match openExchange (myCore s) with
    | none => trap s Cause.xphase 0
    | some x =>
      match levelAt (myCore s) x.level with
      | none => trap s Cause.xphase 0
      | some l =>
        match arrivalFault s l true with
        | some (c, v) => trap s c v
        | none => whenMet [.sendEmpty] (fun s =>
            let s := modMyCore s fun c => { c with xch := c.xch.map fun x => { x with closing := true } }
            .next (await (arrive s x.level l false 0 (some .xchEnd)) (.barrier l.dom x.level none 0 .xchEnd))) s) s

/-- qtrap (04 R112) -/
def execQtrap (rs1 : BitVec 5) (_code : BitVec 12) (s : State) : Out :=
  issue { xr := [rs1] } (fun s => trap s Cause.swfault (xr s rs1)) s

end Sys2Proof.Machine
end

