-- ==== Sys2Proof/Machine/Barrier.lean ====
section
/-! DEFINITION. The barrier units: counting arrivals, completing phases, exchange phases that open and close, and
domains (04 R97 to R105, 11 R243, R250; 05 R152). -/
namespace Sys2Proof.Machine

def modDom (s : State) (id : Nat) (f : Dom → Dom) : State :=
  { s with doms := s.doms.map fun d => if d.id == id then f d else d }

/-! ### units (11 R243) -/

/-- The serving unit: cluster units below 2^20, die units above. -/
def unitFor (members : List Nat) : Nat :=
  match members with
  | [] => 0
  | k :: ks => if ks.all fun j => clusterOf j == clusterOf k then clusterOf k else 2 ^ 20 + dieOf k

def unitSize (u : Nat) : Nat := if u < 2 ^ 20 then 512 else 256

/-- Every unit has a free counter for some new domains, beside the counters of launches none of whose ranks has started. -/
def countersFor (s : State) (news : List (List Nat)) : Bool :=
  let kept := s.launches.filter fun l => l.started && !l.finished && l.unstarted.length == l.place.length
  let used := s.doms.map (fun d => unitFor d.members) ++ kept.map fun l => unitFor l.place
  let want := news.map unitFor
  want.all fun u => decide ((used ++ want).count u ≤ unitSize u)

/-! ### the exchange (04 R106, R110; 05 R152) -/

/-- The core's exchange phase of a domain. -/
def xchOf (s : State) (k dom : Nat) : Option Exchange :=
  match (getCore s k).xch with
  | some x => if x.dom = dom then some x else none
  | none => none

/-- The phase being completed was arrived at by xch.beg. -/
def opens (s : State) (d : Dom) : Bool :=
  d.counted.any fun k => match xchOf s k d.id with | some x => x.opening | none => false

/-- Entries of a domain are in flight. -/
def entriesOpen (s : State) (dom : Nat) : Bool :=
  s.msgs.any fun m => match m.kind with | .entry d _ _ _ => d == dom | _ => false

/-- A gather command that the open phase serves is not done. -/
def gathersOpen (s : State) (dom : Nat) : Bool :=
  s.cores.any fun e => e.2.gq.any fun g => g.dom == dom && g.active && g.status.isNone

/-- The commands posted for a domain before its exchange phase began are served in it. -/
def postGathers (s : State) (dom : Nat) : State :=
  { s with cores := s.cores.map fun e =>
      (e.1, { e.2 with gq := e.2.gq.map fun g => if g.dom == dom then { g with active := true } else g }) }

/-- The tokens of the served commands of a core. -/
def closeGathers (s : State) (k dom : Nat) : State :=
  let mine := (getCore s k).gq.filter fun g => g.dom == dom && g.active
  let s := modCore s k fun c => { c with gq := c.gq.filter fun g => !(g.dom == dom && g.active) }
  raiseRetire (mine.foldl (fun s g => fillToken s k g.ctx g.rd 0 g.orphan (g.status.getD 0)) s) k

/-- The commands of a popped domain are cancelled. -/
def popGathers (s : State) (k dom : Nat) : State :=
  let mine := (getCore s k).gq.filter fun g => g.dom == dom
  let s := modCore s k fun c => { c with gq := c.gq.filter fun g => g.dom != dom }
  mine.foldl (fun s g => fillToken s k g.ctx g.rd 0 g.orphan Status.cancelled) s

def eachCore (f : State → Nat → State) (ks : List Nat) (s : State) : State := ks.foldl f s

/-- Cores that hold a gather command. -/
def gatherCores (s : State) : List Nat := (s.cores.filter fun e => !e.2.gq.isEmpty).map (·.1)

/-! ### counting (04 R99) -/

/-- The phase completes: members are told, E, PH, A and the drops change, and an exchange phase opens or closes. -/
def completePhase (s : State) (d : Dom) : State :=
  let reinit := d.pend.isSome
  let opening := opens s d && d.t0.isNone
  let s := if opening then postGathers s d.id else if d.t0.isSome then eachCore (fun s k => closeGathers s k d.id) (gatherCores s) s
    else s
  let s := modDom s d.id fun d => { d with
    e := d.pend.getD d.e - d.drops, ph := d.ph + 1, a := 0, drops := 0, pend := none, counted := [], slot := 0,
    t0 := if opening then some s.cycle else none }
  d.members.foldl (fun s m => send s m 0 (.completion d.id d.ph.toNat m false reinit)) s

/-- Complete the phase when every expected arrival has come; the closing phase waits for the entries and the gather
engine (04 R110, 05 R152). -/
def tryComplete (s : State) (id : Nat) : State :=
  match domOf s id with
  | none => s
  | some d =>
    if d.a ≠ d.e ∨ d.a = 0 ∨ d.broken = true then s
    else if d.t0.isSome && (entriesOpen s id || gathersOpen s id) then s
    else completePhase s d

/-- The expected arrivals have come, but the closing phase still waits. -/
def closingHeld (d : Dom) : Bool := d.a == d.e && d.a != 0 && !d.broken

/-! ### messages -/

def findMsg (s : State) (id : Nat) : Option Msg := s.msgs.find? fun m => m.id == id
def dropMsg (s : State) (id : Nat) : State := { s with msgs := s.msgs.filter fun m => m.id != id }

/-- The phase of a wait becomes known. -/
def withPhase (dom phase : Nat) (w : Wait) : Wait :=
  match w with
  | .barrier d level none rd why => if d = dom then .barrier d level (some phase) rd why else w
  | _ => w

/-- The reply to an arrival: rd of bar.arr and bar.drop, or the phase that a wait awaits. Where the parcel has ended since, rd
is a register of the next one (log entry 70). -/
def replyArrival (s : State) (m : Msg) (dom phase rd : Nat) (why : Option BarWhy) : State :=
  match why with
  | none => fillToken s m.core m.ctx rd 0 false phase
  | some _ => modCtx s m.core m.ctx fun c => { c with
      st := (match c.st with | .waiting w => .waiting (withPhase dom phase w) | x => x),
      keptWait := c.keptWait.map (withPhase dom phase) }

/-- An arrival is a release: earlier accesses of the arriving context, and those that it follows, are performed first (04 R85,
R102). -/
def arrivalHeld (s : State) (m : Msg) : Bool := releaseBehind s m.core m.ctx m.id

/-- BARRIER_ARRIVAL: counted in the current phase and answered with it. -/
def execBarrierArrival (id : Nat) (s : State) : Out :=
  match findMsg s id with
  | none => .next s
  | some m => match m.kind with
    | .arrive dom _ drop rd why =>
      if arrivalHeld s m then .next s
      else match domOf s dom with
        | none => .next (dropMsg s id)
        | some d =>
          if d.broken then .next (replyArrival (dropMsg s id) m dom d.ph.toNat rd why)
          else if closingHeld d then .next s
          else
            let s := wakeCluster s (pkgOf m.core) (clusterIn m.core)
            let s := modDom (dropMsg s id) dom fun d => { d with
              a := d.a + 1, drops := if drop then d.drops + 1 else d.drops, counted := d.counted ++ [m.core] }
            .next (tryComplete (replyArrival s m dom d.ph.toNat rd why) dom)
    | _ => .next s

/-! ### completion (04 R101, R103) -/

/-- The core's arrival is still on its way, or counted in the phase after the completed one: its flags stay. -/
def arrivedAhead (s : State) (k dom phase : Nat) : Bool :=
  (s.msgs.any fun m => m.core == k && (match m.kind with | .arrive d _ _ _ _ => d == dom | _ => false)) ||
  (match domOf s dom with
    | some d => d.counted.contains k && d.ph.toNat == (phase + 1) % 2 ^ 32
    | none => false)

/-- A level after a completed phase. -/
def levelAfter (ahead reinit : Bool) (phase : Nat) (l : Level) : Level :=
  { l with last := BitVec.ofNat 32 phase, arrived := l.arrived && ahead, dropped := l.dropped && (ahead || !reinit) }

/-- The end of a barrier wait: rd of bar.awt receives the phase (04 R98). -/
def waitOver (c : Context) (rd phase : Nat) (why : BarWhy) : Context :=
  { c with st := .live, regs :=
      { (if why = .awt then replyX c.regs rd (BitVec.ofNat 64 phase) else c.regs) with pc := c.regs.pc + 4 } }

/-- Phase p is over once phase q has completed last (04 R101). -/
def overBy (q p : Nat) : Bool := phaseOver { dom := 0, rank := 0, size := 0, last := BitVec.ofNat 32 q } p

/-- A completed phase ends the waits of a context for it; one that an upcall interrupted is over when it resumes. -/
def endWaits (dom phase : Nat) (c : Context) : Context :=
  let c := match c.st with
    | .waiting (.barrier d _ (some p) rd why) => if d = dom ∧ p = phase then waitOver c rd p why else c
    | .waiting (.phase d p) =>
      if d = dom && overBy phase p then { c with st := .live, regs := { c.regs with pc := c.regs.pc + 4 } } else c
    | _ => c
  match c.keptWait with
  | some (.barrier d _ (some p) rd why) =>
    if d = dom ∧ p = phase then
      { c with keptWait := some .ended,
               regs := if why = .awt then replyX c.regs rd (BitVec.ofNat 64 p) else c.regs }
    else c
  | some (.phase d p) => if d = dom && overBy phase p then { c with keptWait := some .ended } else c
  | _ => c

/-- The bar.wait of a context for a domain that the core has left issues again (log entry 64). -/
def reissuePhase (dom : Nat) (c : Context) : Context :=
  { c with st := (match c.st with | .waiting (.phase d _) => if d = dom then .live else c.st | x => x),
           keptWait := (match c.keptWait with | some (.phase d _) => if d = dom then none else c.keptWait | x => x) }

/-- The xrecv of a context when its exchange phase has ended issues again, and raises XPHASE (log entry 65). -/
def reissueReceive (c : Context) : Context :=
  { c with st := (match c.st with | .waiting (.received _ _) => .live | x => x),
           keptWait := (match c.keptWait with | some (.received _ _) => none | x => x) }

/-- The contexts of a running rank. -/
def eachCtx (f : Context → Context) (c : Core) : Core := { c with ctxs := c.ctxs.map fun e => if e.1 < 16 then (e.1, f e.2) else e }

/-- The register that an ended wait had emptied. -/
def dropWait (c : Context) : Context :=
  match c.st with
  | .waiting (.barrier _ _ _ rd .awt) => { c with regs := failX c.regs rd }
  | _ => c

/-- A wait on a domain. -/
def waitsOn (dom : Nat) : Wait → Bool
  | .barrier d _ _ _ _ => d == dom
  | .phase d _ => d == dom
  | _ => false

/-- A broken counter ends the waits of a context with BARBROKEN; one that an upcall interrupted issues again, and raises
it then. -/
def breakWaits (s : State) (k dom n : Nat) : State :=
  let c := getCtx s k n
  let s := match c.keptWait with
    | some w => if waitsOn dom w then modCtx s k n fun c =>
        { c with keptWait := none, regs := (match w with | .barrier _ _ _ rd _ => failX c.regs rd | _ => c.regs) } else s
    | none => s
  match c.st with
  | .waiting w => if waitsOn dom w then
      serveFirmware k n s (enterTrap (modCtx s k n dropWait) k n Cause.barbroken 0) else s
  | _ => s

/-- A phase completes on a running member. -/
def completeOn (s : State) (k dom phase : Nat) (broken reinit : Bool) : State :=
  if broken then (List.range 11).foldl (fun s n => breakWaits s k dom n) s
  else
    let ahead := arrivedAhead s k dom phase
    modCore s k fun c =>
      let c : Core := { eachCtx (endWaits dom phase) c with
        levels := c.levels.map fun l => if l.dom == dom then levelAfter ahead reinit phase l else l }
      match c.xch with
      | some x =>
        if x.dom ≠ dom ∨ ahead = true then c
        else if x.opening then { c with xch := some { x with opening := false }, qrxcnt := 0 }
        else if x.closing then { eachCtx reissueReceive c with xch := none }
        else c
      | none => c

/-- The record of context n of a saved rank holds no wait any more: WAIT is 0 and ST is 1. -/
def imageRunning (s : State) (k n : Nat) (r : SavedRank) : State :=
  let a := recordBase r n
  let st := readLE s.mem (a + 0x5C8) 8
  agentWrite (agentWrite s k n a (leBytes 8 0)) k n (a + 0x5C8) (leBytes 8 (st % 2 ^ 61 + 2 ^ 61))

/-- The wait of a saved context at a barrier ends: its phase completes, or its counter breaks, and then its instruction issues
again on restore and raises BARBROKEN (04 R103, 12 R270). -/
def endSavedWait (s : State) (k n dom phase : Nat) (broken : Bool) (r : SavedRank) : State :=
  match (getCtx s k n).st with
  | .waiting (.barrier d _ p rd why) =>
    if d = dom ∧ (broken = true ∨ p = some phase) then
      let s := if broken = false ∧ why = .awt then imageFill s k n rd (BitVec.ofNat 64 phase) else s
      let s := imageRunning s k n r
      modCtx (if broken then s else imageAdvance s k n) k n fun c => { c with st := .live }
    else s
  | _ => s

/-- The same of a wait that an upcall interrupted. -/
def endSavedKept (s : State) (k n dom phase : Nat) (broken : Bool) (r : SavedRank) : State :=
  match (getCtx s k n).keptWait with
  | some (.barrier d _ p rd why) =>
    if d = dom ∧ (broken = true ∨ p = some phase) then
      let s := if broken = false ∧ why = .awt then imageFill s k n rd (BitVec.ofNat 64 phase) else s
      modCtx (imageRunning s k n r) k n fun c => { c with keptWait := if broken then none else some .ended }
    else s
  | some (.phase d p) =>
    if d ≠ dom then s
    else if broken then modCtx s k n fun c => { c with keptWait := none }
    else if overBy phase p then modCtx s k n fun c => { c with keptWait := some .ended }
    else s
  | _ => s

/-- A level word of the header (12 R267). -/
def levelWord (l : Level) : Nat := l.last.toNat * 2 ^ 32 + l.dropped.toNat * 2 + l.arrived.toNat

/-- The header and records of a saved rank after a completed phase, or after its counter has broken (12 R270). -/
def completeSaved (s : State) (k dom phase : Nat) (broken reinit : Bool) (r : SavedRank) : State :=
  let ahead := arrivedAhead s k dom phase
  let levels := r.levels.map fun l => if l.dom == dom && !broken then levelAfter ahead reinit phase l else l
  let s := modCore s k fun c => c.modSaved (16 * r.num) fun r => { r with levels := levels }
  let s := (List.range levels.length).foldl (fun s i => match levels[i]? with
    | some l => agentWrite s k (16 * r.num) (r.base + 0x160 + 8 * i) (leBytes 8 (levelWord l))
    | none => s) s
  (savedCtxs r.num).foldl (fun s n => endSavedKept (endSavedWait s k n dom phase broken r) k n dom phase broken r) s

/-- BARRIER_COMPLETION -/
def execBarrierCompletion (id : Nat) (s : State) : Out :=
  match findMsg s id with
  | none => .next s
  | some m => match m.kind with
    | .completion dom phase k broken reinit =>
      let c := getCore s k
      let has := fun (ls : List Level) => ls.any fun l => l.dom == dom
      if has c.levels then .next (completeOn (dropMsg s id) k dom phase broken reinit)
      else match (savedRanks c).find? fun r => has r.levels with
        | some r => .next (if imageHeld s k (16 * r.num) then s else completeSaved (dropMsg s id) k dom phase broken reinit r)
        | none => .next (dropMsg s id)
    | _ => .next s

/-! ### domains (04 R104) -/

/-- A member's dom.set: its core, launch position, colour, key, context and register. -/
structure Setter where
  core : Nat
  pos : Nat
  colour : Option Nat
  key : Nat
  ctx : Nat
  rd : Nat
  deriving DecidableEq, Repr

/-- The dom.set of every member of the deepest domain d, in rank order. -/
def settersOf (s : State) (d : Dom) : List Setter :=
  (List.range d.members.length).filterMap fun i => match d.members[i]? with
    | none => none
    | some k =>
      let c := getCore s k
      match c.domset, c.levels.getLast? with
      | some (n, rd, colour, key), some l =>
        if l.dom = d.id then some { core := k, pos := i, colour := colour, key := key, ctx := n, rd := rd } else none
      | _, _ => none

/-- The members of one colour in the order of their new ranks. -/
def groupOf (xs : List Setter) (colour : Nat) : List Setter :=
  sortBy (fun a b => decide (a.key < b.key) || (a.key == b.key && decide (a.pos ≤ b.pos))) (xs.filter fun x => x.colour == some colour)

/-- The dom.set of a member is over. -/
def doneSet (s : State) (x : Setter) (status : Int) : State :=
  fillToken (modCore s x.core fun c => { c with domset := none }) x.core x.ctx x.rd 0 false status

/-- A member enters a new domain with a rank. -/
def pushLevel (s : State) (dom size : Nat) (x : Setter) (rank : Nat) : State :=
  doneSet (modCore s x.core fun c => { c with
    levels := c.levels ++ [{ dom := dom, rank := rank, size := size }],
    domDepth := c.domDepth + 1, domLevel := c.domDepth + 1 }) x rank

/-- One new domain with its counter (04 R97). -/
def pushGroup (s : State) (d : Dom) (g : List Setter) : State :=
  let id := s.nextId
  let new : Dom := { id := id, launch := d.launch, parent := some d.id, members := g.map (·.core), e := g.length }
  let s := { s with doms := s.doms ++ [new], nextId := s.nextId + 1 }
  (List.range g.length).foldl (fun s i => match g[i]? with
    | some x => pushLevel s id g.length x i
    | none => s) s

/-- A member leaves its deepest domain. -/
def popLevel (s : State) (dom : Nat) (x : Setter) : State :=
  let s := popGathers s x.core dom
  let s := modCore s x.core fun c => { eachCtx (reissuePhase dom) c with
    levels := c.levels.dropLast, domDepth := c.domDepth - 1, domLevel := c.domDepth - 1 }
  doneSet s x (((levelAt (getCore s x.core) (getCore s x.core).domDepth.toNat).getD { dom := 0, rank := 0, size := 0 }).rank)

/-- DOM_SET_COMPLETION: once every member has issued it, all in one direction. -/
def execDomSetCompletion (dom : Nat) (s : State) : Out :=
  match domOf s dom with
  | none => .next s
  | some d =>
    let xs := settersOf s d
    if xs.length ≠ d.members.length then .next s
    else if xs.all fun x => x.colour.isNone then
      let s := xs.foldl (fun s x => popLevel s dom x) s
      .next { s with doms := s.doms.filter fun e => e.id != dom }
    else if xs.all fun x => x.colour.isSome then
      let colours := sortBy (fun a b => decide (a ≤ b)) (xs.filterMap (·.colour)).eraseDups
      let groups := colours.map (groupOf xs)
      if countersFor s (groups.map fun g => g.map (·.core)) then .next (groups.foldl (fun s g => pushGroup s d g) s)
      else .next (xs.foldl (fun s x => doneSet s x Status.domfull) s)
    else .next s

/-! ### slots and landing (04 R107, R108; 11 R250) -/

/-- Cycles of a slot. -/
def slotLength (members : List Nat) : Nat :=
  match members with
  | [] => 16
  | k :: ks => if ks.all fun j => clusterOf j == clusterOf k then 16 else if ks.all fun j => dieOf j == dieOf k then 48 else 160

/-- The launch's table lets rank src send to rank dst in slot t of a period. -/
def slotEntry (s : State) (launch t src dst : Nat) : Bool :=
  match launchOf s launch with
  | some l => l.slots.any fun e => e.1 == t % l.period && e.2.1 == src && e.2.2 == dst
  | none => false

/-- The head of a member's send buffer leaves when the slot is its own. -/
def slotSend (dom launch t : Nat) (s : State) (k : Nat) : State :=
  match openExchange (getCore s k) with
  | none => s
  | some x => match x.buffer with
    | [] => s
    | (dst, v) :: rest =>
      if x.dom = dom && slotEntry s launch t (getCore s k).rank dst then
        match coreOfRank s (getCore s k) dst with
        | some dest =>
          send (modCore s k fun c => { c with xch := some { x with buffer := rest } }) k 0
            (.entry dom (getCore s k).rank dest v)
        | none => s
      else s

/-- A member of a domain has not begun the exchange phase yet: its completion is on its way. -/
def stillOpening (s : State) (d : Dom) : Bool :=
  d.members.any fun k => match xchOf s k d.id with | some x => x.opening | none => false

/-- EXCHANGE_SLOT: slots begin once the phase has begun on every member (04 R106), and an entry lands before the end of
its slot (11 R250). -/
def execExchangeSlot (dom : Nat) (s : State) : Out :=
  match domOf s dom with
  | none => .next s
  | some d => match d.t0 with
    | none => .next s
    | some t0 =>
      if s.cycle < t0 + d.slot * slotLength d.members ∨ stillOpening s d = true ∨ entriesOpen s dom = true then .next s
      else
        let s := eachCore (slotSend dom d.launch d.slot) d.members s
        .next (modDom s dom fun d => { d with slot := d.slot + 1 })

/-- An entry lands, or is discarded with XRXOVF. -/
def landEntry (s : State) (dom src dst : Nat) (v : VWord) : State :=
  match xchOf s dst dom with
  | none => s
  | some x =>
    let c := getCore s dst
    if x.cap ≤ c.qrxcnt.toNat then raiseDeferred s dst 0 Cause.xrxovf (BitVec.ofNat 64 src)
    else setCore s dst (setCount (spmWrite c false (x.off + 64 * c.qrxcnt.toNat) (leBytes 64 v.toNat)) (c.qrxcnt + 1))

/-- ENTRY_LANDING: entries reach a core in slot order. -/
def execEntryLanding (id : Nat) (s : State) : Out :=
  match findMsg s id with
  | none => .next s
  | some m => match m.kind with
    | .entry dom src dst v =>
      if s.msgs.any fun o => decide (o.id < id) && (match o.kind with | .entry _ _ t _ => t == dst | _ => false) then .next s
      else .next (tryComplete (landEntry (dropMsg s id) dom src dst v) dom)
    | _ => .next s

end Sys2Proof.Machine
end

