-- ==== Sys2Proof/Machine/Base.lean ====
section
/-! DEFINITION. The integer base (03 R54, 00 R6, R7): RV64I and M as the ratified standard has them. -/
namespace Sys2Proof.Machine

/-- A result of two x registers, written in the cycle of issue. -/
def binX (f : Word → Word → Word) (rd rs1 rs2 : BitVec 5) (s : State) : Out :=
  issueTx { xr := [rs1, rs2], xw := [rd] } (fun s => .next (retireX s rd (f (xr s rs1) (xr s rs2)))) s

/-- A result of one x register and a constant. -/
def immX (f : Word → Word) (rd rs1 : BitVec 5) (s : State) : Out :=
  issueTx { xr := [rs1], xw := [rd] } (fun s => .next (retireX s rd (f (xr s rs1)))) s

/-- A jump of the PC to a target that must be 4-byte aligned (00 R7). -/
def goTo (s : State) (target : Word) (link : State → State) : Out :=
  if target.toNat % 4 ≠ 0 then trap s Cause.pcMisaligned target else .next (jumpTo (link s) target)

/-- A conditional branch; the target is checked when the branch is taken. -/
def branch (taken : Word → Word → Bool) (rs1 rs2 : BitVec 5) (off : BitVec 12) (s : State) : Out :=
  issueTx { xr := [rs1, rs2] } (fun s =>
    if taken (xr s rs1) (xr s rs2) then goTo s ((regs s).pc + offB off) id else .next (retire s)) s

/-- A division: an asynchronous writer, whose result REPLY delivers (02 R24). -/
def divX (f : Word → Word → Word) (rd rs1 rs2 : BitVec 5) (s : State) : Out :=
  issueTx { xr := [rs1, rs2], xw := [rd] } (fun s =>
    let v := f (xr s rs1) (xr s rs2)
    .next (retire (issueReq s .compute (.x rd.toNat 8 false)
      [{ pa := 0, va := 0, n := 8, done := true, res := v.toNat, own := true }] none none false))) s

/-- The low words of two registers through f, sign-extended. -/
def onWords (f : BitVec 32 → BitVec 32 → BitVec 32) (a b : Word) : Word := sx32 (f (lo32 a) (lo32 b))

/-- Quotient and remainder toward zero; by zero all ones and the dividend (the standard). -/
def divS {w : Nat} (a b : BitVec w) : BitVec w := if b = 0 then BitVec.allOnes w else a.sdiv b
def divU {w : Nat} (a b : BitVec w) : BitVec w := if b = 0 then BitVec.allOnes w else a / b
def remS {w : Nat} (a b : BitVec w) : BitVec w := if b = 0 then a else a.srem b
def remU {w : Nat} (a b : BitVec w) : BitVec w := if b = 0 then a else a % b

/-- The high 64 bits of a product. -/
def highOf (i : Int) : Word := BitVec.ofInt 64 (i / 2 ^ 64)

/-- Shift amounts of register shifts: the low 6 or 5 bits. -/
def sh6 (b : Word) : Nat := b.toNat % 64
def sh5 (b : BitVec 32) : Nat := b.toNat % 32

def boolW (b : Bool) : Word := if b then 1 else 0

/-- lui -/
def execLui (rd : BitVec 5) (imm : BitVec 20) (s : State) : Out :=
  issueTx { xw := [rd] } (fun s => .next (retireX s rd (immU imm))) s

/-- auipc -/
def execAuipc (rd : BitVec 5) (imm : BitVec 20) (s : State) : Out :=
  issueTx { xw := [rd] } (fun s => .next (retireX s rd ((regs s).pc + immU imm))) s

/-- jal: the link is the next word -/
def execJal (rd : BitVec 5) (off : BitVec 20) (s : State) : Out :=
  issueTx { xw := [rd] } (fun s => goTo s ((regs s).pc + offJ off) fun s =>
    modRegs s fun g => writeX g rd.toNat (g.pc + 4)) s

/-- jalr: bit 0 of the target is cleared -/
def execJalr (rd rs1 : BitVec 5) (imm : BitVec 12) (s : State) : Out :=
  issueTx { xr := [rs1], xw := [rd] } (fun s => goTo s (putBit (xr s rs1 + immI imm) 0 false) fun s =>
    modRegs s fun g => writeX g rd.toNat (g.pc + 4)) s

/-- beq -/
def execBeq (rs1 rs2 : BitVec 5) (off : BitVec 12) (s : State) : Out :=
  branch (fun a b => a == b) rs1 rs2 off s

/-- bne -/
def execBne (rs1 rs2 : BitVec 5) (off : BitVec 12) (s : State) : Out :=
  branch (fun a b => a != b) rs1 rs2 off s

/-- blt -/
def execBlt (rs1 rs2 : BitVec 5) (off : BitVec 12) (s : State) : Out :=
  branch (fun a b => a.slt b) rs1 rs2 off s

/-- bge -/
def execBge (rs1 rs2 : BitVec 5) (off : BitVec 12) (s : State) : Out :=
  branch (fun a b => !a.slt b) rs1 rs2 off s

/-- bltu -/
def execBltu (rs1 rs2 : BitVec 5) (off : BitVec 12) (s : State) : Out :=
  branch (fun a b => a.ult b) rs1 rs2 off s

/-- bgeu -/
def execBgeu (rs1 rs2 : BitVec 5) (off : BitVec 12) (s : State) : Out :=
  branch (fun a b => !a.ult b) rs1 rs2 off s

/-- lb -/
def execLb (rd rs1 : BitVec 5) (imm : BitVec 12) (s : State) : Out :=
  loadX rd rs1 imm 1 true s

/-- lh -/
def execLh (rd rs1 : BitVec 5) (imm : BitVec 12) (s : State) : Out :=
  loadX rd rs1 imm 2 true s

/-- lw -/
def execLw (rd rs1 : BitVec 5) (imm : BitVec 12) (s : State) : Out :=
  loadX rd rs1 imm 4 true s

/-- ld -/
def execLd (rd rs1 : BitVec 5) (imm : BitVec 12) (s : State) : Out :=
  loadX rd rs1 imm 8 true s

/-- lbu -/
def execLbu (rd rs1 : BitVec 5) (imm : BitVec 12) (s : State) : Out :=
  loadX rd rs1 imm 1 false s

/-- lhu -/
def execLhu (rd rs1 : BitVec 5) (imm : BitVec 12) (s : State) : Out :=
  loadX rd rs1 imm 2 false s

/-- lwu -/
def execLwu (rd rs1 : BitVec 5) (imm : BitVec 12) (s : State) : Out :=
  loadX rd rs1 imm 4 false s

/-- sb -/
def execSb (rs2 rs1 : BitVec 5) (imm : BitVec 12) (s : State) : Out :=
  storeX rs2 rs1 imm 1 s

/-- sh -/
def execSh (rs2 rs1 : BitVec 5) (imm : BitVec 12) (s : State) : Out :=
  storeX rs2 rs1 imm 2 s

/-- sw -/
def execSw (rs2 rs1 : BitVec 5) (imm : BitVec 12) (s : State) : Out :=
  storeX rs2 rs1 imm 4 s

/-- sd -/
def execSd (rs2 rs1 : BitVec 5) (imm : BitVec 12) (s : State) : Out :=
  storeX rs2 rs1 imm 8 s

/-- addi -/
def execAddi (rd rs1 : BitVec 5) (imm : BitVec 12) (s : State) : Out :=
  immX (fun a => a + immI imm) rd rs1 s

/-- slti -/
def execSlti (rd rs1 : BitVec 5) (imm : BitVec 12) (s : State) : Out :=
  immX (fun a => boolW (a.slt (immI imm))) rd rs1 s

/-- sltiu -/
def execSltiu (rd rs1 : BitVec 5) (imm : BitVec 12) (s : State) : Out :=
  immX (fun a => boolW (a.ult (immI imm))) rd rs1 s

/-- xori -/
def execXori (rd rs1 : BitVec 5) (imm : BitVec 12) (s : State) : Out :=
  immX (fun a => a ^^^ immI imm) rd rs1 s

/-- ori -/
def execOri (rd rs1 : BitVec 5) (imm : BitVec 12) (s : State) : Out :=
  immX (fun a => a ||| immI imm) rd rs1 s

/-- andi -/
def execAndi (rd rs1 : BitVec 5) (imm : BitVec 12) (s : State) : Out :=
  immX (fun a => a &&& immI imm) rd rs1 s

/-- slli -/
def execSlli (rd rs1 : BitVec 5) (sh : BitVec 6) (s : State) : Out :=
  immX (fun a => a <<< sh.toNat) rd rs1 s

/-- srli -/
def execSrli (rd rs1 : BitVec 5) (sh : BitVec 6) (s : State) : Out :=
  immX (fun a => a >>> sh.toNat) rd rs1 s

/-- srai -/
def execSrai (rd rs1 : BitVec 5) (sh : BitVec 6) (s : State) : Out :=
  immX (fun a => a.sshiftRight sh.toNat) rd rs1 s

/-- addiw -/
def execAddiw (rd rs1 : BitVec 5) (imm : BitVec 12) (s : State) : Out :=
  immX (fun a => sx32 (lo32 (a + immI imm))) rd rs1 s

/-- slliw -/
def execSlliw (rd rs1 : BitVec 5) (sh : BitVec 5) (s : State) : Out :=
  immX (fun a => sx32 (lo32 a <<< sh.toNat)) rd rs1 s

/-- srliw -/
def execSrliw (rd rs1 : BitVec 5) (sh : BitVec 5) (s : State) : Out :=
  immX (fun a => sx32 (lo32 a >>> sh.toNat)) rd rs1 s

/-- sraiw -/
def execSraiw (rd rs1 : BitVec 5) (sh : BitVec 5) (s : State) : Out :=
  immX (fun a => sx32 ((lo32 a).sshiftRight sh.toNat)) rd rs1 s

/-- add -/
def execAdd (rd rs1 rs2 : BitVec 5) (s : State) : Out :=
  binX (fun a b => a + b) rd rs1 rs2 s

/-- sll -/
def execSll (rd rs1 rs2 : BitVec 5) (s : State) : Out :=
  binX (fun a b => a <<< sh6 b) rd rs1 rs2 s

/-- slt -/
def execSlt (rd rs1 rs2 : BitVec 5) (s : State) : Out :=
  binX (fun a b => boolW (a.slt b)) rd rs1 rs2 s

/-- sltu -/
def execSltu (rd rs1 rs2 : BitVec 5) (s : State) : Out :=
  binX (fun a b => boolW (a.ult b)) rd rs1 rs2 s

/-- xor -/
def execXor (rd rs1 rs2 : BitVec 5) (s : State) : Out :=
  binX (fun a b => a ^^^ b) rd rs1 rs2 s

/-- srl -/
def execSrl (rd rs1 rs2 : BitVec 5) (s : State) : Out :=
  binX (fun a b => a >>> sh6 b) rd rs1 rs2 s

/-- or -/
def execOr (rd rs1 rs2 : BitVec 5) (s : State) : Out :=
  binX (fun a b => a ||| b) rd rs1 rs2 s

/-- and -/
def execAnd (rd rs1 rs2 : BitVec 5) (s : State) : Out :=
  binX (fun a b => a &&& b) rd rs1 rs2 s

/-- sub -/
def execSub (rd rs1 rs2 : BitVec 5) (s : State) : Out :=
  binX (fun a b => a - b) rd rs1 rs2 s

/-- sra -/
def execSra (rd rs1 rs2 : BitVec 5) (s : State) : Out :=
  binX (fun a b => a.sshiftRight (sh6 b)) rd rs1 rs2 s

/-- mul -/
def execMul (rd rs1 rs2 : BitVec 5) (s : State) : Out :=
  binX (fun a b => a * b) rd rs1 rs2 s

/-- mulh -/
def execMulh (rd rs1 rs2 : BitVec 5) (s : State) : Out :=
  binX (fun a b => highOf (a.toInt * b.toInt)) rd rs1 rs2 s

/-- mulhsu -/
def execMulhsu (rd rs1 rs2 : BitVec 5) (s : State) : Out :=
  binX (fun a b => highOf (a.toInt * (b.toNat : Int))) rd rs1 rs2 s

/-- mulhu -/
def execMulhu (rd rs1 rs2 : BitVec 5) (s : State) : Out :=
  binX (fun a b => highOf ((a.toNat * b.toNat : Nat) : Int)) rd rs1 rs2 s

/-- div -/
def execDiv (rd rs1 rs2 : BitVec 5) (s : State) : Out :=
  divX divS rd rs1 rs2 s

/-- divu -/
def execDivu (rd rs1 rs2 : BitVec 5) (s : State) : Out :=
  divX divU rd rs1 rs2 s

/-- rem -/
def execRem (rd rs1 rs2 : BitVec 5) (s : State) : Out :=
  divX remS rd rs1 rs2 s

/-- remu -/
def execRemu (rd rs1 rs2 : BitVec 5) (s : State) : Out :=
  divX remU rd rs1 rs2 s

/-- addw -/
def execAddw (rd rs1 rs2 : BitVec 5) (s : State) : Out :=
  binX (onWords (fun a b => a + b)) rd rs1 rs2 s

/-- sllw -/
def execSllw (rd rs1 rs2 : BitVec 5) (s : State) : Out :=
  binX (onWords (fun a b => a <<< sh5 b)) rd rs1 rs2 s

/-- srlw -/
def execSrlw (rd rs1 rs2 : BitVec 5) (s : State) : Out :=
  binX (onWords (fun a b => a >>> sh5 b)) rd rs1 rs2 s

/-- subw -/
def execSubw (rd rs1 rs2 : BitVec 5) (s : State) : Out :=
  binX (onWords (fun a b => a - b)) rd rs1 rs2 s

/-- sraw -/
def execSraw (rd rs1 rs2 : BitVec 5) (s : State) : Out :=
  binX (onWords (fun a b => a.sshiftRight (sh5 b))) rd rs1 rs2 s

/-- mulw -/
def execMulw (rd rs1 rs2 : BitVec 5) (s : State) : Out :=
  binX (onWords (fun a b => a * b)) rd rs1 rs2 s

/-- divw -/
def execDivw (rd rs1 rs2 : BitVec 5) (s : State) : Out :=
  divX (onWords divS) rd rs1 rs2 s

/-- divuw -/
def execDivuw (rd rs1 rs2 : BitVec 5) (s : State) : Out :=
  divX (onWords divU) rd rs1 rs2 s

/-- remw -/
def execRemw (rd rs1 rs2 : BitVec 5) (s : State) : Out :=
  divX (onWords remS) rd rs1 rs2 s

/-- remuw -/
def execRemuw (rd rs1 rs2 : BitVec 5) (s : State) : Out :=
  divX (onWords remU) rd rs1 rs2 s

end Sys2Proof.Machine
end

