-- ==== Sys2Proof/Machine/Mem.lean ====
section
/-! DEFINITION. The MEM space (chapter 05) but for engine commands and migration: atomics, reductions, fences, signals,
tickets, gecko locks, transactions, cache lines and translations. -/
namespace Sys2Proof.Machine

/-! ### atomics (05 R120 to R122) -/

/-- Scope code of an atomic's class (03 R57). -/
def classScope (sc : BitVec 2) : Nat :=
  match sc.toNat with
  | 0 => 1 | 1 => 4 | 2 => 6 | _ => 10

/-- Acquire and release of an ordering group: 1 acq, 2 rel, 5 ar; none inside a transaction (05 R122). -/
def acqOf (s : State) (ord : BitVec 3) (sc : BitVec 2) : Option Nat :=
  if inTx s then none else if ord = 1 ∨ ord = 5 then some (classScope sc) else none
def relOf (s : State) (ord : BitVec 3) (sc : BitVec 2) : Option Nat :=
  if inTx s then none else if ord = 2 ∨ ord = 5 then some (classScope sc) else none

/-- An atomic of 4 or 8 bytes; `cas` reads rd as the compare value. -/
def atomicX (op : Nat) (cas : Bool) (rd rs1 rs2 : BitVec 5) (ord : BitVec 3) (w : BitVec 1) (sc : BitVec 2)
    (s : State) : Out :=
  let n := if w = 0 then 4 else 8
  issueTx { xr := if cas then [rs1, rs2, rd] else [rs1, rs2], xw := [rd] } (fun s =>
    let fill := fun (p : Part) => { p with data := xn s rs2 % 2 ^ (8 * n), cmp := if cas then xn s rd % 2 ^ (8 * n) else 0 }
    let acq := acqOf s ord sc
    let rel := relOf s ord sc
    alignedAccess s (xr s rs1) n .atomic fun ps s =>
      .next (retire (issueReq s (.atomic op) (.x rd.toNat n true) (ps.map fill) acq rel false))) s

/-- The number of a register pair, the lower register in the low half. -/
def pairOf (s : State) (r : BitVec 5) : Nat := xn s r + 2 ^ 64 * xn s (r + 1)

/-- am.add -/
def execAmAdd (rd rs1 rs2 : BitVec 5) (ord : BitVec 3) (w : BitVec 1) (sc : BitVec 2) (s : State) : Out :=
  atomicX 0 false rd rs1 rs2 ord w sc s

/-- am.and -/
def execAmAnd (rd rs1 rs2 : BitVec 5) (ord : BitVec 3) (w : BitVec 1) (sc : BitVec 2) (s : State) : Out :=
  atomicX 1 false rd rs1 rs2 ord w sc s

/-- am.or -/
def execAmOr (rd rs1 rs2 : BitVec 5) (ord : BitVec 3) (w : BitVec 1) (sc : BitVec 2) (s : State) : Out :=
  atomicX 2 false rd rs1 rs2 ord w sc s

/-- am.xor -/
def execAmXor (rd rs1 rs2 : BitVec 5) (ord : BitVec 3) (w : BitVec 1) (sc : BitVec 2) (s : State) : Out :=
  atomicX 3 false rd rs1 rs2 ord w sc s

/-- am.min -/
def execAmMin (rd rs1 rs2 : BitVec 5) (ord : BitVec 3) (w : BitVec 1) (sc : BitVec 2) (s : State) : Out :=
  atomicX 4 false rd rs1 rs2 ord w sc s

/-- am.max -/
def execAmMax (rd rs1 rs2 : BitVec 5) (ord : BitVec 3) (w : BitVec 1) (sc : BitVec 2) (s : State) : Out :=
  atomicX 5 false rd rs1 rs2 ord w sc s

/-- am.minn -/
def execAmMinn (rd rs1 rs2 : BitVec 5) (ord : BitVec 3) (w : BitVec 1) (sc : BitVec 2) (s : State) : Out :=
  atomicX 6 false rd rs1 rs2 ord w sc s

/-- am.maxn -/
def execAmMaxn (rd rs1 rs2 : BitVec 5) (ord : BitVec 3) (w : BitVec 1) (sc : BitVec 2) (s : State) : Out :=
  atomicX 7 false rd rs1 rs2 ord w sc s

/-- am.swp -/
def execAmSwp (rd rs1 rs2 : BitVec 5) (ord : BitVec 3) (w : BitVec 1) (sc : BitVec 2) (s : State) : Out :=
  atomicX 8 false rd rs1 rs2 ord w sc s

/-- am.cas -/
def execAmCas (rd rs1 rs2 : BitVec 5) (ord : BitVec 3) (w : BitVec 1) (sc : BitVec 2) (s : State) : Out :=
  atomicX 9 true rd rs1 rs2 ord w sc s

/-- am.fadd -/
def execAmFadd (rd rs1 rs2 : BitVec 5) (ord : BitVec 3) (w : BitVec 1) (sc : BitVec 2) (s : State) : Out :=
  atomicX 10 false rd rs1 rs2 ord w sc s

/-- am.cas.q on register pairs; with rd = x0 the reply is discarded (05 R120) -/
def execAmCasQ (rd rs1 rs2 : BitVec 5) (ord : BitVec 3) (sc : BitVec 2) (s : State) : Out :=
  issueTx { xr := [rs1, rs2, rs2 + 1, rd, rd + 1], xw := [rd, rd + 1] } (fun s =>
    let fill := fun (p : Part) => { p with data := pairOf s rs2, cmp := pairOf s rd }
    let acq := acqOf s ord sc
    let rel := relOf s ord sc
    alignedAccess s (xr s rs1) 16 .atomic fun ps s =>
      .next (retire (issueReq s (.atomic 11) (if rd = 0 then .none else .pair rd.toNat) (ps.map fill) acq rel false))) s

/-! ### reductions (05 R123 to R125) -/

/-- Entries of a core's reduction log in use, of every context's (17 R333). -/
def logUsed (c : Core) : Nat :=
  (c.ctxs.map fun e => match e.2.tx with | some t => t.redLog.length | none => 0).sum

/-- A reduction of a transaction at the home that serves it: into the set and the core's log of 512 entries (05 R125, 17
R333). What the home finds is a message, and a committing transaction holds the reduction, which has not issued (17 R337,
R338). -/
def txReduceAt (s : State) (tag : Nat) (p : Part) (v : Word) : State :=
  let away := fun (cause : Nat) => retire (messageAbort s s.turn s.cur cause (BitVec.ofNat 64 (p.va / 512 * 512)))
  if 512 ≤ logUsed (myCore s) ∨ tileFits s s.turn s.cur (tileOf p.pa) = false then
    abortAt s Abort.capacity (BitVec.ofNat 64 p.va)
  else if (dirOf s (lineOf p.pa)).lock then away Abort.locked
  else if pageMoving s p.pa then away Abort.nontx
  else match judge s s.turn s.cur true .reduce p.pa with
    | .hold => park s [.lineDone (lineOf p.pa)]
    | _ =>
      let s := trackTile s s.turn s.cur .reduce p.pa p.va
      retire (modMe s fun c => { c with tx := c.tx.map fun t => { t with redLog := t.redLog ++ [(p.pa, tag, v)] } })

/-- A reduction of a transaction: where its page is now, then at that home (19 R369, R371). -/
def txReduce (s : State) (tag : Nat) (p : Part) (v : Word) : State :=
  match served s s.turn s.cur (me s).mode (myCore s).qrgn p.va p.pa p.n .amo false with
  | (.error q reason, s) => abortRefused s .amo reason { p with pa := q }
  | (.wait, s) =>
    if (pageAt s (throughTails s 2 p.pa)).isSome then
      retire (messageAbort s s.turn s.cur Abort.nontx (BitVec.ofNat 64 (p.va / 512 * 512)))
    else park s [.walk (BitVec.ofNat 64 p.va) Acc.amo.code]
  | (.at_ pa, s) =>
    if paPkg pa = pkgOf s.turn then txReduceAt s tag { p with pa := pa } v
    else abortAt s Abort.xpkg (BitVec.ofNat 64 p.va)

/-- red.op: posted; in a transaction it joins the reduction set, unless the word lies in a scratchpad (05 R137). -/
def reduceX (op : Nat) (rs1 rs2 : BitVec 5) (w : BitVec 1) (s : State) : Out :=
  let n := if w = 0 then 4 else 8
  let tag := op * 2 + w.toNat
  issueTx { xr := [rs1, rs2] } (fun s =>
    let v := xr s rs2
    alignedAccess s (xr s rs1) n .amo fun ps s =>
      match ps with
      | [p] =>
        if inTx s && !p.own && isMain p.pa then .next (txReduce s tag p v)
        else .next (retire (issueReq s (.reduce tag) .none [{ p with data := v.toNat % 2 ^ (8 * n) }] none none false))
      | _ => .next (retire s)) s

/-- red.add -/
def execRedAdd (rs1 rs2 : BitVec 5) (w : BitVec 1) (s : State) : Out :=
  reduceX 0 rs1 rs2 w s

/-- red.min -/
def execRedMin (rs1 rs2 : BitVec 5) (w : BitVec 1) (s : State) : Out :=
  reduceX 1 rs1 rs2 w s

/-- red.max -/
def execRedMax (rs1 rs2 : BitVec 5) (w : BitVec 1) (s : State) : Out :=
  reduceX 2 rs1 rs2 w s

/-- red.fadd -/
def execRedFadd (rs1 rs2 : BitVec 5) (w : BitVec 1) (s : State) : Out :=
  reduceX 3 rs1 rs2 w s

/-! ### fences, signals and waits (05 R126 to R129) -/

/-- The stores of a context that are not performed: those that a fence at ctx scope does not wait for. -/
def pendingStores (s : State) (k n : Nat) : List Nat :=
  (s.reqs.filter fun r => r.core == k && r.ctx == n && r.kind == .store && !reqDone r).map (·.id)

/-- A fence holds its context until the accesses it names are performed. At ctx scope its stores need not be; the context's
later commands, which its instance holds too, follow them (05 R126, 16 R312, R317). -/
def fenceX (kind : Nat) (scope : BitVec 5) (s : State) : Out :=
  issue { extra := [.fence kind scope.toNat] } (fun s =>
    let held := (me s).cmdAfter.filter (undone s) ++ pendingStores s s.turn s.cur
    .next (retire (if kind != 0 && scope == 0 then modMe s fun c => { c with cmdAfter := held } else s))) s

/-- fnc.acq -/
def execFncAcq (scope : BitVec 5) (s : State) : Out :=
  fenceX 0 scope s

/-- fnc.rel -/
def execFncRel (scope : BitVec 5) (s : State) : Out :=
  fenceX 1 scope s

/-- fnc.full -/
def execFncFull (scope : BitVec 5) (s : State) : Out :=
  fenceX 2 scope s

/-- gsig: a release at system scope; the increment waits in the outgoing path -/
def execGsig (rs1 rs2 : BitVec 5) (s : State) : Out :=
  issue { xr := [rs1, rs2] } (fun s =>
    let v := xn s rs2
    alignedAccess s (xr s rs1) 8 .amo fun ps s =>
      .next (retire (issueReq s .signal .none (ps.map fun p => { p with data := v }) none (some 10) false))) s

/-- Where a waited word is: a physical address, or an offset of the own scratchpad above them. -/
def ownWord : Nat := 2 ^ 60
def wordAt (p : Part) : Nat := if p.own then ownWord + p.pa else p.pa

/-- The watch of a wait that issues, for a word at a virtual address. -/
def newWatch (s : State) (p : Part) (va : Nat) : Watch := { loc := wordAt p, named := wordAt p, va := va, order := s.nextId }

/-- The read at issue of a wait: a transaction that wrote the tile aborts with NONTX (05 R138). Later tests use the values
that the home sends (19 R364) and read nothing. -/
def readConflict (s : State) (p : Part) : State :=
  if p.own || !isMain p.pa then s
  else match judge s s.turn s.cur false .read p.pa with
    | .go losers cause => abortLosers s (tileOf p.pa) cause losers
    | _ => s

/-- gwait: WATCH_VALUE or GWAIT_TIMEOUT ends the wait -/
def execGwait (rd rs1 rs2 rs3 : BitVec 5) (s : State) : Out :=
  issue { xr := [rs1, rs2, rs3], xw := [rd] } (fun s =>
    let a := xn s rs1
    let v := xn s rs2
    let deadline := if xr s rs3 = 0 then 0 else ownCycle s s.turn + xn s rs3
    alignedAccess s (xr s rs1) 8 .load fun ps s =>
      match ps with
      | p :: _ => .next (await (readConflict s p) (.word (newWatch s p a) v deadline rd.toNat))
      | [] => .next (retire s)) s

/-- tk.get -/
def execTkGet (rd rs1 : BitVec 5) (s : State) : Out :=
  issue { xr := [rs1], xw := [rd] } (fun s =>
    alignedAccess s (xr s rs1) 8 .amo fun ps s =>
      .next (retire (issueReq s .ticketGet (.x rd.toNat 8 false) ps none none false))) s

/-- tk.wait: WATCH_VALUE ends the wait -/
def execTkWait (rs1 rs2 : BitVec 5) (s : State) : Out :=
  issue { xr := [rs1, rs2] } (fun s =>
    let a := xn s rs1
    let t := xn s rs2 % 2 ^ 32
    alignedAccess s (xr s rs1) 8 .amo fun ps s =>
      match ps with
      | p :: _ => .next (await (readConflict s p) (.ticket (newWatch s p a) t))
      | [] => .next (retire s)) s

/-- tk.adv: a release at system scope -/
def execTkAdv (rs1 : BitVec 5) (s : State) : Out :=
  issue { xr := [rs1] } (fun s =>
    alignedAccess s (xr s rs1) 8 .amo fun ps s =>
      .next (retire (issueReq s .ticketAdv .none ps none (some 10) false))) s

/-! ### gecko locks (05 R130 to R135) -/

/-- The line by which the lock of an address goes: where the page is served now, through tails, and with one walk for a tail
or a stale mark that does not forward (17 R341, 19 R371, R374); none while that walk waits. -/
def lockName (s : State) (va : Word) (pa : Nat) : Option Nat × State :=
  match route s true 2 pa with
  | .serve q => (some (lineOf q), s)
  | .wait => (some (lineOf (throughTails s 2 pa)), s)
  | _ =>
    match walkAgain (dropOwner s (clusterOf s.turn) pa) s.turn s.cur (me s).mode (myCore s).qrgn va.toNat .amo with
    | (.phys q, s) => (some (lineOf (throughTails s 2 q)), s)
    | (.wait, s) => (none, s)
    | (_, s) => (some (lineOf pa), s)

/-- The line of a lock instruction after its checks: alignment, translation, HBM or DDR-5. -/
def lockLine (s : State) (va : Word) (body : Nat → Nat → State → Out) : Out :=
  if va.toNat % 64 ≠ 0 then trap s Cause.misalignedAtomic va
  else match reach s [(0, va, 64, 0)] .amo with
    | (.out o, _) => o
    | (.parts (p :: _), s) =>
      if p.own || !isMain p.pa then trap s Cause.storeAccess va
      else match lockName s va p.pa with
        | (some line, s) => withRoom s [p] (body line p.pa)
        | (none, s) => .next (park s [.walk va Acc.amo.code])
    | (.parts [], s) => .next (retire s)

/-- lk.acq and lk.try: the limits, then the request to the home; with rd = x0 the context waits (05 R130, R135). A fifth
lock, held and requested together, waits for the requests to be decided (log entry 37). -/
def lockRequestX (once : Bool) (rd rs1 : BitVec 5) (t : Nat) (s : State) : Out :=
  let va := xr s rs1
  lockLine s va fun line pa s =>
    let c := me s
    if (!once && c.lockWait.isSome) || decide (4 ≤ c.locks.length) || c.locks.contains line ||
        (lockRequests c).any (fun w => w.line == line) then trap s Cause.lkstate va
    else whenMet (.lockRoom :: if once then [] else [.ghostRoom]) (fun s =>
      let w : LockWait :=
        { line := line, rd := rd.toNat, deadline := if t = 0 then 0 else ownCycle s s.turn + t, born := s.cycle, named := pa,
          pa := pa, order := s.nextId, va := va.toNat }
      let s := send s s.turn s.cur (.lockReq line w.deadline once w.born)
      let s := modMe s fun c => if once then { c with lockTries := c.lockTries ++ [w] } else { c with lockWait := some w }
      let s := modRegs s fun g => emptyX g rd.toNat
      if rd = 0 then .next (await s (.lock line)) else .next (retire s)) s

/-- lk.acq: timeout x[rs2], or qlkto for 0 -/
def execLkAcq (rd rs1 rs2 : BitVec 5) (s : State) : Out :=
  issue { xr := [rs1, rs2], xw := [rd] } (fun s =>
    lockRequestX false rd rs1 (if xr s rs2 = 0 then (myCore s).qlkto.toNat else xn s rs2) s) s

/-- lk.try -/
def execLkTry (rd rs1 : BitVec 5) (s : State) : Out :=
  issue { xr := [rs1], xw := [rd] } (fun s => lockRequestX true rd rs1 0 s) s

/-- The release of a held line: it waits for earlier accesses, the context does not (05 R132). An error response is a
deferred trap, and the lock stays held (05 R130). -/
def giveUpLock (s : State) (va : Word) (line : Nat) : State :=
  match accessError s s.turn (me s).mode (line * 64) 64 true false with
  | some reason => raiseDeferred (logAccess s s.turn s.cur (line * 64) 3 reason) s.turn s.cur (reasonCause reason) va
  | none => releaseLock s s.turn s.cur line false

/-- The home of a line is lost. -/
def homeGone (s : State) (pa : Nat) : Bool := s.lostHomes.contains (paPkg pa * 16 + homeOf pa)

/-- lk.rel: of a line of a lost home it does nothing (17 R348) -/
def execLkRel (rs1 : BitVec 5) (s : State) : Out :=
  issue { xr := [rs1] } (fun s =>
    let va := xr s rs1
    lockLine s va fun line _ s =>
      if homeGone s (line * 64) then .next (retire s)
      else if (me s).locks.contains line then .next (retire (giveUpLock s va line))
      else trap s Cause.lkstate va) s

/-- lk.stat: a snapshot at the home -/
def execLkStat (rd rs1 : BitVec 5) (s : State) : Out :=
  issue { xr := [rs1], xw := [rd] } (fun s =>
    let va := xr s rs1
    lockLine s va fun _ pa s =>
      .next (retire (issueReq s .lockState (.x rd.toNat 8 false)
        [{ pa := pa, va := va.toNat, n := 8 }] none none false))) s

/-! ### transactions (05 R136 to R142) -/

/-- tx.beg: with EN 0 it begins and deepens none (02 R44, 05 R136) -/
def execTxBeg (rd : BitVec 5) (s : State) : Out :=
  issueTx { xw := [rd] } (fun s =>
    let cfg := (myCore s).qtxcfg
    if cfg.getLsbD 0 = false then
      let s := modMe s fun c => { c with abortCause := BitVec.ofNat 7 Abort.disabled, abortAddr := 0 }
      .next (retireX s rd (causeWord Abort.disabled 0 0))
    else match (me s).tx with
    | some t =>
      if t.depth < bitsOf cfg 6 4 then
        .next (retireX (modMe s fun c => { c with tx := some { t with depth := t.depth + 1 } }) rd 0)
      else .next (abortMe s Abort.nest 0 0)
    | none =>
      whenMet [.noPending] (fun s =>
        let s := retireX s rd 0
        .next (modMe s fun c => { c with
          tx := some { depth := 1, saved := c.regs, rd := rd.toNat },
          age := some (c.age.getD s.cycle) })) s) s

/-- tx.end: at depth 1 the context waits for its commit (17 R338) -/
def execTxEnd (s : State) : Out :=
  match (me s).tx with
  | none => trap s Cause.txstate 0
  | some t =>
    if 1 < t.depth then .next (retire (modMe s fun c => { c with tx := some { t with depth := t.depth - 1 } }))
    else whenMet [.fence 2 6] (fun s =>
      .next (await (modMe s fun c => { c with tx := c.tx.map fun t => { t with phase := .preparing [] } }) .commit)) s

/-- tx.abt -/
def execTxAbt (rs1 : BitVec 5) (s : State) : Out :=
  issueTx { xr := [rs1] } (fun s =>
    if inTx s then .next (abortMe s Abort.explicit (xn s rs1) 0) else trap s Cause.txstate 0) s

/-- The word of tx.stat (05 R142). -/
def txWord (c : Context) : Word :=
  let depth := match c.tx with
    | some t => t.depth
    | none => 0
  BitVec.ofNat 64 ((if c.age.isSome then 2 ^ 63 else 0) + depth % 8 * 2 ^ 60 + c.abortCause.toNat * 2 ^ 52 +
    c.abortAddr.toNat % 2 ^ 48)

/-- tx.stat -/
def execTxStat (rd : BitVec 5) (s : State) : Out :=
  issueTx { xw := [rd] } (fun s => .next (retireX s rd (txWord (me s)))) s

/-! ### cache lines (05 R153) -/

/-- A line that is dirty becomes clean in every cache; copies stay. -/
def cleanState : LineSt → LineSt
  | .m => .e
  | .o => .s
  | x => x

def cleanLine (s : State) (line : Nat) : State :=
  let s := mapL1 s line (fun _ => false) fun l => [{ l with st := cleanState l.st }]
  let s := (List.range 16).foldl (fun s cl => setL2 s line cl (cleanState (l2Of s line cl))) s
  let d := dirOf s line
  setDir s line { d with st := cleanState d.st }

/-- Transactions that hold the tile abort with NONTX, and a partial line merges (05 R138, R153). -/
def touchLine (s : State) (line : Nat) : State :=
  let tile := line / 8
  let hs := (openTxs s (paPkg (line * 64))).filter fun h =>
    h.2.2.readSet.contains tile || h.2.2.writeSet.contains tile || h.2.2.redSet.contains tile
  mergeLine (abortLosers s tile Abort.nontx (hs.map fun h => (h.1, h.2.1))) line

/-- The cores that keep a locked line: its holder (05 R153). -/
def keepsLine (s : State) (line k : Nat) : Bool :=
  match lockOf s line with
  | some l => l.held && l.hcore == k
  | none => false

/-- A core's L1 loses a line, unless it is locked there. -/
def dropL1 (s : State) (line : Nat) (ks : Nat → Bool) : State :=
  { s with cores := s.cores.map fun e =>
      if ks e.1 && !keepsLine s line e.1 then (e.1, { e.2 with l1 := e.2.l1.filter fun l => !plainCopy line l }) else e }

def wbLine (s : State) (line : Nat) : State := cleanLine (touchLine s line) line
/-- cl.inv: written back first when it is dirty in this L1. -/
def invLine (s : State) (line : Nat) : State :=
  let s := touchLine s line
  let dirty : Bool := match l1Find (myCore s) line with
    | some l => l.st == .m || l.st == .o
    | none => false
  dropL1 (if dirty then cleanLine s line else s) line fun k => k == s.turn
/-- The cluster of the holder of a line's lock. -/
def holderCluster (s : State) (line : Nat) : Option Nat :=
  match lockOf s line with
  | some l => if l.held && pkgOf l.hcore == paPkg (line * 64) then some (clusterIn l.hcore) else none
  | none => none

/-- cl.flush: out of every cache; a locked line stays clean with its holder. -/
def flushLine (s : State) (line : Nat) : State :=
  let s := cleanLine (touchLine s line) line
  match holderCluster s line with
  | none => setDir (dropCopies s line fun _ => false) line { dirOf s line with st := .i }
  | some cl =>
    let s := dropL1 (dropCopies s line fun x => x == cl) line fun k => pkgOf k == paPkg (line * 64)
    if l2Of s line cl = .i then setDir s line { dirOf s line with st := .i } else s

/-- A cache-line instruction on the line that contains x[rs1]: translated as a load; only lines of this package's
main memory are touched. One that a check turns away is delivered as a load's is (14 R301, R302; log entry 71). -/
def lineOp (f : State → Nat → State) (rs1 : BitVec 5) (s : State) : Out :=
  issue { xr := [rs1] } (fun s =>
    let va := xr s rs1
    match translate s va .load with
    | (.fault code, s) => .next (takeFault s code va)
    | (.wait, s) => .next (park s [.walk va Acc.load.code])
    | (.spm _, s) => .next (retire s)
    | (.phys pa, s) =>
      if isMain pa && paPkg pa == pkgOf s.turn then
        match accessError s s.turn (me s).mode pa 1 false false with
        | some r => .next (raiseDeferred (retire (logAccess s s.turn s.cur pa 1 r)) s.turn s.cur (reasonCause r) va)
        | none => whenMet [.lineDone (lineOf pa)] (fun s => .next (retire (f s (lineOf pa)))) s
      else .next (retire s)) s

/-- cl.wb -/
def execClWb (rs1 : BitVec 5) (s : State) : Out := lineOp wbLine rs1 s
/-- cl.inv -/
def execClInv (rs1 : BitVec 5) (s : State) : Out := lineOp invLine rs1 s
/-- cl.flush -/
def execClFlush (rs1 : BitVec 5) (s : State) : Out := lineOp flushLine rs1 s

/-! ### translations (05 R154) -/

/-- What tlb.inv selects: the page containing an address, every page of a region, or all. -/
inductive InvWhat where
  | page (r : Region) (page : Nat)
  | region (r : Region)
  | all
  | nothing
  deriving DecidableEq, Repr

def sameRegion (r : Region) (t : TlbEntry) : Bool := t.base == r.base && t.pgsz == r.pgsz && t.root == r.root

def invHits (w : InvWhat) (t : TlbEntry) : Bool :=
  match w with
  | .page r p => sameRegion r t && t.page == p
  | .region r => sameRegion r t
  | .all => true
  | .nothing => false

/-- Whether a held fault address is covered. -/
def invCovers (w : InvWhat) (va : Nat) : Bool :=
  let pageNo := fun (r : Region) => if r.pgsz then (va - r.base * 65536) / 1024 else (va - r.base * 65536) / 2 ^ 21
  let inside := fun (r : Region) => decide (r.base ≤ va / 65536) && decide (va / 65536 ≤ r.limit)
  match w with
  | .page r p => inside r && pageNo r == p
  | .region r => inside r
  | .all => true
  | .nothing => false

def invWhat (c : Core) (va : Nat) (sel : Word) : InvWhat :=
  match bitsOf sel 1 0 with
  | 0 => match findRegion c.qrgn va with
    | some r => .page r (if r.pgsz then (va - r.base * 65536) / 1024 else (va - r.base * 65536) / 2 ^ 21)
    | none => .nothing
  | 1 => .region (regionOf c.qrgn (bitsOf sel 10 8))
  | _ => .all

/-- FAULTDONE for the held helpers of a core that the invalidation covers (12 R260). -/
def faultDone (s : State) (w : InvWhat) (k : Nat) : State :=
  [1, 2, 3, 4, 5, 6, 7, 8, 9, 10].foldl (fun s n =>
    match ((getCore s k).ctx n).st with
    | .held va => if invCovers w va.toNat then raiseOn s k { code := Cause.faultdone, value := va, ctx := n } else s
    | _ => s) s

/-- Drop the selected entries of the TLBs in reach: of the core's partition, or with WHAT = 2 all of them (05 R154). The L2 TLB of the cluster drops them at every reach: it may drop any
entry (14 R297), and software may rely on a reach that covers every core (14 R298; log entry 36). -/
def invTlbs (s : State) (w : InvWhat) (reachCode : Nat) : State :=
  let ks := reachCores s s.turn reachCode
  let part := partOf (myCore s)
  let keep := fun (t : TlbEntry) => !((w == .all || t.part == part) && invHits w t)
  let s := ks.foldl (fun s k => faultDone (modCore s k fun c => { c with itlb := c.itlb.filter keep, dtlb := c.dtlb.filter keep }) w k) s
  { s with l2tlb := s.l2tlb.map fun e =>
    if e.1 == clusterOf s.turn || (reachCode == 2 && e.1 / 16 == pkgOf s.turn) then (e.1, e.2.filter keep) else e }

/-- tlb.inv: S mode; ends once the accesses in reach that had translated are performed (14 R298) -/
def execTlbInv (rs1 rs2 : BitVec 5) (s : State) : Out :=
  if privileged s = false then illegal s (wordOfInstr (.tlbInv rs1 rs2))
  else issue { xr := [rs1, rs2] } (fun s =>
    let sel := xr s rs2
    if bitsOf sel 63 11 ≠ 0 ∨ bitsOf sel 7 4 ≠ 0 ∨ bitsOf sel 3 2 = 3 ∨ bitsOf sel 1 0 = 3 then
      illegal s (wordOfInstr (.tlbInv rs1 rs2))
    else whenMet [.reachQuiet (bitsOf sel 3 2)] (fun s =>
      .next (retire (invTlbs s (invWhat (myCore s) (xn s rs1) sel) (bitsOf sel 3 2)))) s) s

/-! ### vector loads and stores (05 R117 to R119) -/

/-- The active lanes of a vector access. -/
def activeLanes (s : State) (km w : Nat) : List Nat := (List.range (laneCount w)).filter (active (regs s) km)

/-- The alignment of every active lane, the lowest failing one deciding; then translation, then the body. -/
def laneAccess (s : State) (ws : List Want) (acc : Acc) (misaligned : Nat) (body : List Part → State → Out) : Out :=
  match ws.find? fun w => w.2.1.toNat % w.2.2.1 != 0 with
  | some w => trap s misaligned w.2.1
  | none => match reach s ws acc with
    | (.out o, _) => o
    | (.parts ps, s) => withRoom s ps (body ps)

/-- Issue through the vector queue (05 R118). -/
def queueVec (s : State) (kind : ReqKind) (dst : Dst) (ps : List Part) : State :=
  let id := s.nextId
  let s := issueReq s kind dst ps none none true
  modMyCore s fun c => { c with vq := c.vq ++ [{ ctx := s.cur, work := .memory id }] }

/-- A vector load: addr gives lane i's address. -/
def loadV (v : BitVec 4) (et : BitVec 3) (km : BitVec 2) (d : Needs) (addr : State → Nat → Word) (s : State) : Out :=
  let w := etBits et.toNat
  issueTx { d with vw := [v.toNat], extra := [.vqRoom] } (fun s =>
    let ws := (activeLanes s km.toNat w).map fun i => (i, addr s i, w / 8, 0)
    laneAccess s ws .load Cause.loadMisaligned fun ps s =>
      .next (retire (queueVec s .load (.v v.toNat (w / 8)) ps))) s

/-- A vector store. -/
def storeV (v : BitVec 4) (et : BitVec 3) (km : BitVec 2) (d : Needs) (addr : State → Nat → Word) (s : State) : Out :=
  let w := etBits et.toNat
  issueTx { d with vr := v.toNat :: d.vr, extra := [.vqRoom] } (fun s =>
    let data := readV (regs s) v.toNat
    let ws := (activeLanes s km.toNat w).map fun i => (i, addr s i, w / 8, lane data w i)
    laneAccess s ws .store Cause.storeMisaligned fun ps s =>
      .next (retire (keepReuse d (if ps.isEmpty then modMyCore s fun c => { c with vq := c.vq ++ [{ ctx := s.cur, work := .done }] }
                     else queueVec s .store .none ps)))) s

def unitAddr (rs1 : BitVec 5) (n : Nat) (s : State) (i : Nat) : Word := xr s rs1 + BitVec.ofNat 64 (n * i)
def strideAddr (rs1 rs2 : BitVec 5) (s : State) (i : Nat) : Word := xr s rs1 + xr s rs2 * BitVec.ofNat 64 i
def indexAddr (rs1 : BitVec 5) (vs : BitVec 4) (w : Nat) (s : State) (i : Nat) : Word :=
  xr s rs1 + BitVec.ofNat 64 (w / 8 * lane (readV (regs s) vs.toNat) w i)

/-- vld -/
def execVld (v : BitVec 4) (rs1 : BitVec 5) (et : BitVec 3) (km : BitVec 2) (_h : BitVec 1) (s : State) : Out :=
  loadV v et km { xr := [rs1] } (unitAddr rs1 (etBits et.toNat / 8)) s
/-- vlds -/
def execVlds (v : BitVec 4) (rs1 rs2 : BitVec 5) (et : BitVec 3) (km : BitVec 2) (_h : BitVec 1) (s : State) : Out :=
  loadV v et km { xr := [rs1, rs2] } (strideAddr rs1 rs2) s
/-- vldx -/
def execVldx (v : BitVec 4) (rs1 : BitVec 5) (vs : BitVec 4) (et : BitVec 3) (km : BitVec 2) (_h : BitVec 1) (s : State) : Out :=
  loadV v et km { xr := [rs1], vr := [vs.toNat] } (indexAddr rs1 vs (etBits et.toNat)) s
/-- vst -/
def execVst (v : BitVec 4) (rs1 : BitVec 5) (et : BitVec 3) (km : BitVec 2) (h : BitVec 1) (s : State) : Out :=
  storeV v et km (Needs.reuse { xr := [rs1] } h v) (unitAddr rs1 (etBits et.toNat / 8)) s
/-- vsts -/
def execVsts (v : BitVec 4) (rs1 rs2 : BitVec 5) (et : BitVec 3) (km : BitVec 2) (h : BitVec 1) (s : State) : Out :=
  storeV v et km (Needs.reuse { xr := [rs1, rs2] } h v) (strideAddr rs1 rs2) s
/-- vstx -/
def execVstx (v : BitVec 4) (rs1 : BitVec 5) (vs : BitVec 4) (et : BitVec 3) (km : BitVec 2) (h : BitVec 1) (s : State) : Out :=
  storeV v et km (Needs.reuse { xr := [rs1], vr := [vs.toNat] } h v) (indexAddr rs1 vs (etBits et.toNat)) s

/-- vbc: one element for every active lane, accessed once; no access without an active lane -/
def execVbc (v : BitVec 4) (rs1 : BitVec 5) (et : BitVec 3) (km : BitVec 2) (_h : BitVec 1) (s : State) : Out :=
  let w := etBits et.toNat
  issueTx { xr := [rs1], vw := [v.toNat], extra := [.vqRoom] } (fun s =>
    let ls := activeLanes s km.toNat w
    let ws : List Want := match ls with
      | [] => []
      | i :: _ => [(i, xr s rs1, w / 8, 0)]
    laneAccess s ws .load Cause.loadMisaligned fun ps s =>
      .next (retire (queueVec s .load (.vb v.toNat (w / 8) ls) ps))) s

end Sys2Proof.Machine
end

