-- ==== Sys2Proof/Machine/Engines.lean ====
section
/-! DEFINITION. Issue of engine commands: copies, publish, cancel, gather and scatter (05 R143 to R152). -/
namespace Sys2Proof.Machine

/-! ### copies (05 R143, R144, R146) -/

/-- A malformed copy operand, the first of the three that breaks a limit (05 R143). -/
inductive Parsed where
  | bad (operand : Word)
  | ok (x : CopyCmd)

/-- The destination of a shadow copy lies in one valid remap entry. -/
def shadowOk (c : Core) (lo n : Nat) : Bool :=
  match remapAt c lo with
  | some e => decide (lo + n ≤ e.log * 64 + e.size * 64)
  | none => false

/-- A copy of a context of a core, before its operands are filled in. -/
def blankCopy (s : State) (op : Nat) (rd : BitVec 5) (w1 w2 w3 : Word) : CopyCmd :=
  { id := s.nextId, core := s.turn, ctx := s.cur, op := op, w1 := w1, w2 := w2, w3 := w3, rd := rd.toNat, tag := 0,
    scope := 0, shadow := false, dstS := false, srcS := false, dst := 0, src := 0, rows := 1, rowBytes := 1,
    spitch := 0, dpitch := 0, mode := (me s).mode, rgn := (myCore s).qrgn, after := commandAfter s s.turn s.cur, order := s.nextId }

/-- The span of a copy's rows from an address. -/
def copySpan (rows rowBytes pitch : Nat) : Nat := (rows - 1) * pitch + rowBytes

/-- The checks of R143 that both shapes share: ranges of the scratchpad, the destination's first, and the shadow destination,
which a one-dimensional copy reports as its flags word and cp.2d as its first word (log entry 96). -/
def checkCopy (c : Core) (x : CopyCmd) : Parsed :=
  if x.dstS && decide (c.spmBytes < x.dst + copySpan x.rows x.rowBytes x.dpitch) then .bad x.w1
  else if x.srcS && decide (c.spmBytes < x.src + copySpan x.rows x.rowBytes x.spitch) then .bad x.w2
  else if x.shadow && (!x.dstS || !shadowOk c x.dst (copySpan x.rows x.rowBytes x.dpitch)) then
    .bad (if x.op = 1 then x.w1 else x.w3)
  else .ok x

/-- One-dimensional copies: destination x[rs1], source x[rs2], flags x[rs3]. -/
def parse1d (s : State) (op : Nat) (rd : BitVec 5) (w1 w2 w3 : Word) : Parsed :=
  if bitsOf w3 26 24 ≠ 0 ∨ 11 < bitsOf w3 31 28 ∨ bitsOf w3 23 0 = 0 then .bad w3
  else checkCopy (myCore s) { blankCopy s op rd w1 w2 w3 with
    tag := bitsOf w3 63 32, scope := bitsOf w3 31 28, shadow := w3.getLsbD 27,
    dstS := op == 2 || op == 4, srcS := op == 3 || op == 4, dst := w1.toNat, src := w2.toNat,
    rowBytes := bitsOf w3 23 0 }

/-- cp.2d: the spaces, the scope and the rows are in the words (05 R143). -/
def parse2d (s : State) (rd : BitVec 5) (w1 w2 w3 : Word) : Parsed :=
  let rows := bitsOf w3 63 48
  let bytes := bitsOf w3 47 32
  if bitsOf w1 61 60 ≠ 0 ∨ bitsOf w1 55 48 ≠ 0 ∨ 11 < bitsOf w1 59 56 then .bad w1
  else if bitsOf w2 62 48 ≠ 0 then .bad w2
  else if rows = 0 ∨ bytes = 0 ∨ (1 < rows ∧ (bitsOf w3 31 16 < bytes ∨ bitsOf w3 15 0 < bytes)) then .bad w3
  else checkCopy (myCore s) { blankCopy s 1 rd w1 w2 w3 with
    scope := bitsOf w1 59 56, shadow := w1.getLsbD 62, dstS := w1.getLsbD 63, srcS := w2.getLsbD 63,
    dst := bitsOf w1 47 0, src := bitsOf w2 47 0, rows := rows, rowBytes := bytes, spitch := bitsOf w3 31 16,
    dpitch := bitsOf w3 15 0 }

/-- The scratchpad ranges of a copy. -/
def copyRanges (x : CopyCmd) : Nat := x.dstS.toNat + x.srcS.toNat

/-- The copies of a core that came from a transaction take their scoreboard ranges in order, while there are free ones
(05 R146). -/
def takeRanges (c : Core) : List CopyCmd → Core
  | [] => c
  | x :: xs =>
    if x.ranged then takeRanges c xs
    else if rangesInUse c + copyRanges x ≤ Config.scoreboardRanges then
      takeRanges { c with cq := c.cq.map fun y => if y.id == x.id then { y with ranged := true } else y } xs
    else c

/-- Issue of a copy: its token is emptied and it joins the engine's queue, or the transaction's held copies. -/
def issueCopy (rd : BitVec 5) (p : Parsed) (s : State) : Out :=
  match p with
  | .bad w => trap s Cause.cparg w
  | .ok x =>
    whenMet [.copyRoom (if inTx s then 0 else copyRanges x)] (fun s =>
      let s := modRegs { s with nextId := s.nextId + 1 } fun g => emptyX g rd.toNat
      .next (retire (if inTx s then
          modMe s fun c => { c with tx := c.tx.map fun t => { t with copies := t.copies ++ [x] } }
        else modMyCore s fun c => { c with cq := c.cq ++ [x] }))) s

def copyNeeds (rd rs1 rs2 rs3 : BitVec 5) : Needs := { xr := [rs1, rs2, rs3], xw := [rd] }

/-- cp.g2g -/
def execCpG2g (rd rs1 rs2 rs3 : BitVec 5) (s : State) : Out :=
  issueTx (copyNeeds rd rs1 rs2 rs3) (fun s => issueCopy rd (parse1d s 0 rd (xr s rs1) (xr s rs2) (xr s rs3)) s) s
/-- cp.2d -/
def execCp2d (rd rs1 rs2 rs3 : BitVec 5) (s : State) : Out :=
  issueTx (copyNeeds rd rs1 rs2 rs3) (fun s => issueCopy rd (parse2d s rd (xr s rs1) (xr s rs2) (xr s rs3)) s) s
/-- cp.g2s -/
def execCpG2s (rd rs1 rs2 rs3 : BitVec 5) (s : State) : Out :=
  issueTx (copyNeeds rd rs1 rs2 rs3) (fun s => issueCopy rd (parse1d s 2 rd (xr s rs1) (xr s rs2) (xr s rs3)) s) s
/-- cp.s2g -/
def execCpS2g (rd rs1 rs2 rs3 : BitVec 5) (s : State) : Out :=
  issueTx (copyNeeds rd rs1 rs2 rs3) (fun s => issueCopy rd (parse1d s 3 rd (xr s rs1) (xr s rs2) (xr s rs3)) s) s
/-- cp.s2s -/
def execCpS2s (rd rs1 rs2 rs3 : BitVec 5) (s : State) : Out :=
  issueTx (copyNeeds rd rs1 rs2 rs3) (fun s => issueCopy rd (parse1d s 4 rd (xr s rs1) (xr s rs2) (xr s rs3)) s) s

/-! ### cancel (05 R147) -/

/-- Copies of a context on a token register. -/
def copyOn (n rd : Nat) (x : CopyCmd) : Bool := x.ctx == n && x.rd == rd && !x.orphan

/-- Bytes that a copy moves, and whether it has moved them all: it is finished then, but for its token. -/
def copyTotal (x : CopyCmd) : Nat := x.rows * x.rowBytes
def copyOver (x : CopyCmd) : Bool := x.pos == copyTotal x && !x.hostWait

/-- cp.cancel: a copy that has not started goes at once, a started one stops at its next KiB, a finished one stays. -/
def execCpCancel (rd : BitVec 5) (s : State) : Out :=
  issue {} (fun s =>
    match (myCore s).cq.find? (copyOn s.cur rd.toNat) with
    | none => .next (retire s)
    | some x =>
      if copyOver x then .next (retire s)
      else if x.started then
        .next (retire (modMyCore s fun c => { c with
          cq := c.cq.map fun y => if y.id == x.id then { y with cancel := true } else y }))
      else
        let s := modMyCore s fun c => { c with cq := c.cq.filter fun y => y.id != x.id }
        .next (retire (fillToken s s.turn s.cur x.rd x.tag false Status.cancelled))) s

/-! ### publish (05 R149, R150) -/

/-- Two ranges of 64-byte units overlap. -/
def unitsOverlap (a b : Nat × Nat) : Bool := decide (a.1 < b.1 + b.2) && decide (b.1 < a.1 + a.2)

/-- A definition of an entry that R150 refuses. -/
def defineBad (c : Core) (entry log twin size : Nat) : Bool :=
  size == 0 || unitsOverlap (log, size) (twin, size) ||
  decide (c.spmBytes < (log + size) * 64) || decide (c.spmBytes < (twin + size) * 64) ||
  (List.range 8).any fun i =>
    let e := fget {} c.remap i
    i != entry && e.valid &&
      (unitsOverlap (log, size) (e.log, e.size) || unitsOverlap (log, size) (e.twin, e.size) ||
       unitsOverlap (twin, size) (e.log, e.size) || unitsOverlap (twin, size) (e.twin, e.size))

/-- cp.pub -/
def execCpPub (rd rs1 : BitVec 5) (s : State) : Out :=
  issue { xr := [rs1], xw := [rd] } (fun s =>
    let w := xr s rs1
    let c := myCore s
    let op := bitsOf w 63 62
    let entry := bitsOf w 2 0
    let log := bitsOf w 23 12
    let twin := bitsOf w 35 24
    let size := bitsOf w 47 36
    if op = 3 ∨ bitsOf w 61 48 ≠ 0 ∨ bitsOf w 11 3 ≠ 0 ∨
        (if op = 1 then defineBad c entry log twin size else !(fget {} c.remap entry).valid) = true then
      trap s Cause.cparg w
    else
      let p : PubCmd := { id := s.nextId, ctx := s.cur, op := op, entry := entry, log := log, twin := twin, size := size,
                          rd := rd.toNat, after := commandAfter s s.turn s.cur, order := s.nextId }
      let s := modRegs { s with nextId := s.nextId + 1 } fun g => emptyX g rd.toNat
      .next (retire (modMyCore s fun c => { c with pubs := c.pubs ++ [p] }))) s

/-! ### gather and scatter (05 R151) -/

/-- A field of a descriptor in the scratchpad. -/
def spmLE (c : Core) (o n : Nat) : Nat := leNat (spmRead c o n)

/-- The command of a descriptor, none when a limit is broken. -/
def parseGather (s : State) (scatter : Bool) (table : Word) (o dom : Nat) (rd : BitVec 5) : Option GatherCmd :=
  let c := myCore s
  let idx := spmLE c o 4
  let buf := spmLE c (o + 4) 4
  let count := spmLE c (o + 8) 4
  let esz := spmLE c (o + 12) 2
  let stride := spmLE c (o + 16) 8
  if idx % 4 ≠ 0 ∨ buf % 8 ≠ 0 ∨ count = 0 ∨ 65536 < count ∨ esz % 8 ≠ 0 ∨ esz = 0 ∨ 4096 < esz ∨
      spmLE c (o + 14) 2 ≠ 0 ∨ stride % 8 ≠ 0 ∨ spmLE c (o + 24) 8 ≠ 0 ∨
      c.spmBytes < idx + 4 * count ∨ c.spmBytes < buf + count * esz then none
  else some { id := s.nextId, ctx := s.cur, scatter := scatter, table := table, descOff := o, idx := idx, buf := buf,
              count := count, esz := esz, stride := stride, rd := rd.toNat, dom := dom, mode := (me s).mode,
              rgn := c.qrgn, after := commandAfter s s.turn s.cur, order := s.nextId }

/-- gth and sct: the descriptor is read at issue, behind the context's own stores to it. -/
def gatherX (scatter : Bool) (rd rs1 rs2 : BitVec 5) (s : State) : Out :=
  issue { xr := [rs1, rs2], xw := [rd] } (fun s =>
    let o := xn s rs2
    if o % 32 ≠ 0 ∨ (myCore s).spmBytes < o + 32 then trap s Cause.gtharg (xr s rs2)
    else whenMet [.spmReady o 32] (fun s => withLevel s fun _ l =>
      match parseGather s scatter (xr s rs1) o l.dom rd with
      | none => trap s Cause.gtharg (xr s rs2)
      | some g => whenMet [.gatherRoom 2] (fun s =>
          let s := modRegs { s with nextId := s.nextId + 1 } fun g => emptyX g rd.toNat
          .next (retire (modMyCore s fun c => { c with gq := c.gq ++ [g] }))) s) s) s

/-- gth -/
def execGth (rd rs1 rs2 : BitVec 5) (s : State) : Out := gatherX false rd rs1 rs2 s
/-- sct -/
def execSct (rd rs1 rs2 : BitVec 5) (s : State) : Out := gatherX true rd rs1 rs2 s

end Sys2Proof.Machine
end

