-- ==== Sys2Proof/Machine/Mig.lean ====
section
/-! DEFINITION. Page migration: pg.mig, pg.stat and the states of a page at its old home (05 R155, R156; 19 R367 to
R380). -/
namespace Sys2Proof.Machine

/-- The token of a migration (19 R370). -/
def pageToken (s : State) (p : Page) (status : Int) : State := fillToken s p.core p.ctx p.rd 0 p.orphan status

/-- Lines of a page that the directory lists. -/
def linesOfPage (s : State) (frame : Nat) (big : Bool) : List Nat :=
  (s.dir.filter fun e => decide (frame * 16 ≤ e.1) && decide (e.1 < (frame + pageFrames big) * 16)).map (·.1)

/-- Transactions that hold a tile of a page abort with NONTX (19 R369). -/
def abortPage (s : State) (frame : Nat) (big : Bool) : State :=
  let inPage := fun (t : Nat) => decide (frame * 2 ≤ t) && decide (t < (frame + pageFrames big) * 2)
  (openTxs s (paPkg (frame * 1024))).foldl (fun s h =>
    match (txTiles h.2.2).find? inPage with
    | some t => abortLosers s t Abort.nontx [(h.1, h.2.1)]
    | none => s) s

/-- Entering eft: partial lines merge and dirty copies are recalled (19 R369). -/
def enterEft (s : State) (frame : Nat) (big : Bool) : State :=
  (linesOfPage s frame big).foldl (fun s line =>
    let s := mergeLine s line
    let d := dirOf s line
    if d.st = .i then s else setDir (dropCopies s line fun _ => false) line { d with st := .i }) (abortPage s frame big)

/-- Entries in use at the home of a frame: tails, stale marks, and migrations that will leave a tail (19 R367). -/
def tailsAt (s : State) (frame : Nat) : Nat :=
  (s.pages.filter fun p => paPkg (p.frame * 1024) == paPkg (frame * 1024) && homeOf (p.frame * 1024) == homeOf (frame * 1024)).length

/-- The pages that meet n frames from one on. -/
def pagesIn (s : State) (frame n : Nat) : List Page :=
  s.pages.filter fun p => decide (p.frame < frame + n) && decide (frame < p.frame + pageFrames p.big)

/-- What pg.mig completes with at once, if it is not accepted (05 R155, 19 R367): the first that applies of MIGARG,
ACCESSERR and MIGBUSY (log entry 72). -/
def migRefusal (s : State) (src dst : Nat) (big : Bool) : Option Int × State :=
  let bytes := 1024 * pageFrames big
  let frame := src / bytes * pageFrames big
  if dst % bytes ≠ 0 ∨ isMain dst = false ∨ isMain src = false ∨ dst = frame * 1024 then (some Status.migarg, s)
  else match accessError s s.turn (me s).mode dst bytes true true with
    | some r => (some (reasonStatus r), logAccess s s.turn s.cur dst 4 r)
    | none => match accessError s s.turn (me s).mode (frame * 1024) bytes false true with
      | some r => (some (reasonStatus r), logAccess s s.turn s.cur src 4 r)
      | none =>
        let target := (pagesIn s (dst / 1024) (pageFrames big)).any fun p => p.st != .stale
        if (pagesIn s frame (pageFrames big)).isEmpty = false ∨ target = true ∨ 256 ≤ tailsAt s frame then (some Status.migbusy, s)
        else (none, s)

/-- What resolving the frame of a page that an instruction names gives. -/
inductive Source where
  | at_ (pa : Nat)
  | status (v : Int)
  | wait
  deriving DecidableEq, Repr

/-- Where the frame of a page that an instruction names is: its owner now, through tails and with one walk for a tail or
stale mark that does not forward (19 R367, R371, R374); the last answer is a status. A page in handover stays where it is;
a walk that waits is made again. -/
def sourceOf (s : State) (va : Nat) (pa : Nat) : Source × State :=
  if route s false 2 pa = .wait then (.at_ (throughTails s 2 pa), s)
  else match served s s.turn s.cur (me s).mode (myCore s).qrgn va pa 1 .load true with
    | (.at_ q, s) => (.at_ q, s)
    | (.wait, s) => (.wait, s)
    | (.error q r, s) => (.status (reasonStatus r), logAccess s s.turn s.cur q 4 r)

/-- The region's page size of an address. -/
def pageIsBig (c : Core) (va : Nat) : Bool :=
  match findRegion c.qrgn va with
  | some r => !r.pgsz
  | none => false

/-- The page enters eft and the token register is empty (19 R368); a stale mark that the destination meets ends (19 R375; log
entry 89). The copy passes follow what an engine command would (16 R317). -/
def startMigration (s : State) (src dst : Nat) (big : Bool) (rd : BitVec 5) : State :=
  let n := pageFrames big
  let frame := src / (1024 * n) * n
  let ended := pagesIn s (dst / 1024) n
  let after := commandAfter s s.turn s.cur
  let s := { s with pages := s.pages.filter fun p => !(p.st == .stale && ended.contains p) }
  let s := enterEft s frame big
  let p : Page := { frame := frame, new := dst / 1024, big := big, st := .eft, todo := List.range n,
                    life := (myCore s).qtaillife.toNat, since := s.cycle, core := s.turn, ctx := s.cur, rd := rd.toNat,
                    mode := (me s).mode, after := after }
  modRegs { s with pages := s.pages ++ [p] } fun g => emptyX g rd.toNat

/-- A committing transaction, whose releases the home awaits, holds a tile of a page: nothing aborts it any more (17
R338). -/
def pageCommits (s : State) (src : Nat) (big : Bool) : Bool :=
  let n := pageFrames big
  let frame := src / (1024 * n) * n
  let inPage := fun (t : Nat) => decide (frame * 2 ≤ t) && decide (t < (frame + n) * 2)
  ((openTxs s (paPkg src)).any fun h => (txTiles h.2.2).any fun t => inPage t && committingAt h.2.2 (homeOf (t * 512))) ||
  s.msgs.any fun m => match m.kind with
    | .txRelease _ tiles => tiles.any inPage
    | _ => false

/-- pg.mig: S mode; the source is translated with load permission (log entry 73); the page enters eft, or the token holds
why not. M mode, which translates nothing, migrates a 2 MiB page (log entry 13). The instruction issues again while a
transaction commits on the page, or the walk for its frame waits. -/
def execPgMig (rd rs1 rs2 : BitVec 5) (s : State) : Out :=
  if privileged s = false then illegal s (wordOfInstr (.pgMig rd rs1 rs2))
  else issue { xr := [rs1, rs2], xw := [rd] } (fun s =>
    let va := xr s rs1
    let dst := xn s rs2
    match translate s va .load with
    | (.fault code, s) => .next (takeFault s code va)
    | (.wait, s) => .next (park s [.walk va Acc.load.code])
    | (.spm _, s) => .next (retireX s rd (wordOf Status.migarg))
    | (.phys pa, s) =>
      let big := (me s).mode == .m || pageIsBig (myCore s) va.toNat
      match sourceOf s va.toNat pa with
      | (.status v, s) => .next (retireX s rd (wordOf v))
      | (.wait, s) => .next (park s [.walk va Acc.load.code])
      | (.at_ src, s) => match migRefusal s src dst big with
        | (some status, s) => .next (retireX s rd (wordOf status))
        | (none, s) =>
          if pageCommits s src big then .next (park s [.walk va Acc.load.code]) else .next (retire (startMigration s src dst big rd))) s

/-- The owner of a page now, with the frame that the last tail on the way recorded; a reason where a tail or a stale mark
does not forward (05 R156, 19 R371, R375). -/
def ownerOf (s : State) (last : Option Nat) : Nat → Nat → Except Nat (Nat × Option Nat)
  | 0, pa => match pageAt s pa with
    | some p => if p.st = .tail then .error Reason.migchain else if p.st = .stale then .error Reason.migstale else .ok (pa, last)
    | none => .ok (pa, last)
  | n + 1, pa => match pageAt s pa with
    | some p =>
      if p.st = .tail then ownerOf s (some p.new) n (pa - p.frame * 1024 + p.new * 1024)
      else if p.st = .stale then .error Reason.migstale else .ok (pa, last)
    | none => .ok (pa, last)

/-- The word of pg.stat at the owner of a page (05 R156): a page that came through a tail and has settled is in state 3,
with its owner as TARGET (log entry 74). LEFT counts the blocks that the pass in hand has still to copy, not those marked for
the next one (log entry 91). -/
def pageWord (s : State) (pa : Nat) (last : Option Nat) : Word :=
  let word := fun (frame code left : Nat) => BitVec.ofNat 64 (frame * 1024 / 4096 % 2 ^ 44 * 4096 + code * 256 + left)
  match pageAt s pa with
  | some p => match p.st with
    | .handover => word p.new 2 0
    | _ => word p.new 1 (min p.todo.length 255)
  | none => match last with
    | some frame => word frame 3 0
    | none => 0

/-- pg.stat: translated with load permission (log entry 73), and read at the page's owner by the reply. An address of the own
scratchpad has no page: the word is 0 (log entry 91). -/
def execPgStat (rd rs1 : BitVec 5) (s : State) : Out :=
  issue { xr := [rs1], xw := [rd] } (fun s =>
    let va := xr s rs1
    match translate s va .load with
    | (.fault code, s) => .next (takeFault s code va)
    | (.wait, s) => .next (park s [.walk va Acc.load.code])
    | (.spm _, s) => .next (retireX s rd 0)
    | (.phys pa, s) =>
      let ps : List Part := [{ pa := pa, va := va.toNat, n := 1 }]
      withRoom s ps fun s => .next (retire (issueReq s .pageState (.x rd.toNat 8 false) ps none none false))) s

end Sys2Proof.Machine
end

