-- ==== Sys2Proof/Machine/Vec.lean ====
section
/-! DEFINITION. The VEC space (chapter 06): lane arithmetic, conversions, reductions, integer operations, compares, data
movement and mask operations. -/
namespace Sys2Proof.Machine

/-! ### issue (06 R158 to R161) -/

/-- Issue through the vector queue; the v and k results count as written at once (06 R158). -/
def issueVec (d : Needs) (body : State → State) (work : State → VqWork) (s : State) : Out :=
  issueTx { d with extra := [.vqRoom] } (fun s =>
    let w := work s
    .next (retire (modMyCore (keepReuse d (body s)) fun c => { c with vq := c.vq ++ [{ ctx := s.cur, work := w }] }))) s

/-- An instruction with a v or k result. -/
def vecOp (d : Needs) (body : State → State) (s : State) : Out := issueVec d body (fun _ => .done) s

/-- An instruction that fills an x register when it executes (06 R159). -/
def vecFill (d : Needs) (rd : BitVec 5) (value : State → Word) (s : State) : Out :=
  issueVec { d with xw := [rd] } (fun s => modRegs s fun g => emptyX g rd.toNat) (fun s => .fillX rd.toNat (value s)) s

/-- The effective rounding mode (06 R161). -/
def vecRm (s : State) (rm : BitVec 3) : Nat := if rm = 7 then (regs s).qrm.toNat else rm.toNat

/-- The draw of a rounding with index d (09 R220). -/
def vecDraw (s : State) (d : Nat) : Nat := srDraw (me s).qsrseed (lidOf s.turn) s.cur (regs s).qsrctr d

/-- Under SR the count advances by one (06 R161). -/
def countSr (s : State) (m : Nat) : State := if m = Rm.sr then modRegs s fun g => { g with qsrctr := g.qsrctr + 1 } else s

def vreg (s : State) (r : BitVec 4) : VWord := readV (regs s) r.toNat
def putV (s : State) (r : BitVec 4) (v : VWord) : State := modRegs s fun g => writeV g r.toNat v

/-- Write the active lanes of vd with results and add their flags (06 R157, R162). -/
def putLanes (s : State) (vd : BitVec 4) (km w : Nat) (res : Nat → Nat × Nat) : State :=
  let old := vreg s vd
  let rs := (List.range (laneCount w)).map fun i => if active (regs s) km i then res i else (lane old w i, 0)
  accrue (putV s vd (ofLanes w (rs.map (·.1)))) (allFlags rs)

/-- An element-wise operation without flags. It parks while its own vd is pending (02 R25); of vabs and vneg, of which 06 R166 says
that they park on nothing but vs1, log entry 97 says so. -/
def lanesOp (d : Needs) (vd : BitVec 4) (km w : Nat) (res : State → Nat → Nat) (s : State) : Out :=
  vecOp { d with vw := [vd.toNat] } (fun s => putLanes s vd km w fun i => (res s i, 0)) s

/-! ### rounding arithmetic (06 R164) -/

/-- An operation that rounds each active lane once: f takes the format, the mode, the draw and the lane. -/
def roundedOp (d : Needs) (vd : BitVec 4) (ft : BitVec 2) (rm : BitVec 3) (km : BitVec 2)
    (f : State → Nat → Nat → Nat → Nat × Nat) (s : State) : Out :=
  vecOp { d with vw := [vd.toNat] } (fun s =>
    let m := vecRm s rm
    countSr (putLanes s vd km.toNat (ftBits ft.toNat) fun i => f s m (vecDraw s i) i) m) s

/-- The value of lane i of a v register. -/
def laneVal (s : State) (ft : BitVec 2) (r : BitVec 4) (i : Nat) : FVal :=
  decodeF (ftFmt ft.toNat) (lane (vreg s r) (ftBits ft.toNat) i)

def two (vs1 vs2 : BitVec 4) : Needs := { vr := [vs1.toNat, vs2.toNat] }
def three (vd vs1 vs2 : BitVec 4) : Needs := { vr := [vs1.toNat, vs2.toNat, vd.toNat] }

/-- vadd -/
def execVadd (vd vs1 vs2 : BitVec 4) (ft : BitVec 2) (rm : BitVec 3) (km : BitVec 2) (h : BitVec 1) (s : State) : Out :=
  roundedOp ((two vs1 vs2).reuse h vs1) vd ft rm km (fun s m r i => fAdd (ftFmt ft.toNat) m r (laneVal s ft vs1 i) (laneVal s ft vs2 i)) s

/-- vsub -/
def execVsub (vd vs1 vs2 : BitVec 4) (ft : BitVec 2) (rm : BitVec 3) (km : BitVec 2) (h : BitVec 1) (s : State) : Out :=
  roundedOp ((two vs1 vs2).reuse h vs1) vd ft rm km (fun s m r i => fSub (ftFmt ft.toNat) m r (laneVal s ft vs1 i) (laneVal s ft vs2 i)) s

/-- vmul -/
def execVmul (vd vs1 vs2 : BitVec 4) (ft : BitVec 2) (rm : BitVec 3) (km : BitVec 2) (h : BitVec 1) (s : State) : Out :=
  roundedOp ((two vs1 vs2).reuse h vs1) vd ft rm km (fun s m r i => fMul (ftFmt ft.toNat) m r (laneVal s ft vs1 i) (laneVal s ft vs2 i)) s

/-- vdiv -/
def execVdiv (vd vs1 vs2 : BitVec 4) (ft : BitVec 2) (rm : BitVec 3) (km : BitVec 2) (h : BitVec 1) (s : State) : Out :=
  roundedOp ((two vs1 vs2).reuse h vs1) vd ft rm km (fun s m r i => fDiv (ftFmt ft.toNat) m r (laneVal s ft vs1 i) (laneVal s ft vs2 i)) s

/-- vsqrt -/
def execVsqrt (vd vs1 : BitVec 4) (ft : BitVec 2) (rm : BitVec 3) (km : BitVec 2) (h : BitVec 1) (s : State) : Out :=
  roundedOp (Needs.reuse { vr := [vs1.toNat] } h vs1) vd ft rm km (fun s m r i => fSqrt (ftFmt ft.toNat) m r (laneVal s ft vs1 i)) s

/-- vfma: vs1 * vs2 + vd -/
def execVfma (vd vs1 vs2 : BitVec 4) (ft : BitVec 2) (rm : BitVec 3) (km : BitVec 2) (h : BitVec 1) (s : State) : Out :=
  roundedOp ((three vd vs1 vs2).reuse h vs1) vd ft rm km (fun s m r i =>
    fMulAdd (ftFmt ft.toNat) m r (laneVal s ft vs1 i) (laneVal s ft vs2 i) (laneVal s ft vd i)) s

/-- vfms: vs1 * vs2 - vd -/
def execVfms (vd vs1 vs2 : BitVec 4) (ft : BitVec 2) (rm : BitVec 3) (km : BitVec 2) (h : BitVec 1) (s : State) : Out :=
  roundedOp ((three vd vs1 vs2).reuse h vs1) vd ft rm km (fun s m r i =>
    fMulAdd (ftFmt ft.toNat) m r (laneVal s ft vs1 i) (laneVal s ft vs2 i) (laneVal s ft vd i).neg) s

/-- vfnma: vd - vs1 * vs2 -/
def execVfnma (vd vs1 vs2 : BitVec 4) (ft : BitVec 2) (rm : BitVec 3) (km : BitVec 2) (h : BitVec 1) (s : State) : Out :=
  roundedOp ((three vd vs1 vs2).reuse h vs1) vd ft rm km (fun s m r i =>
    fMulAdd (ftFmt ft.toNat) m r (laneVal s ft vs1 i).neg (laneVal s ft vs2 i) (laneVal s ft vd i)) s

/-! ### minimum, maximum and sign (06 R165, R166) -/

/-- The smaller or larger lane. -/
def minMaxV (isMax : Bool) (vd vs1 vs2 : BitVec 4) (ft km : BitVec 2) (h : BitVec 1) (s : State) : Out :=
  let w := ftBits ft.toNat
  vecOp (Needs.reuse { vr := [vs1.toNat, vs2.toNat], vw := [vd.toNat] } h vs1) (fun s => putLanes s vd km.toNat w fun i =>
    fMinMax (ftFmt ft.toNat) isMax (lane (vreg s vs1) w i) (lane (vreg s vs2) w i)) s

/-- vmin -/
def execVmin (vd vs1 vs2 : BitVec 4) (ft : BitVec 2) (km : BitVec 2) (h : BitVec 1) (s : State) : Out :=
  minMaxV false vd vs1 vs2 ft km h s
/-- vmax -/
def execVmax (vd vs1 vs2 : BitVec 4) (ft : BitVec 2) (km : BitVec 2) (h : BitVec 1) (s : State) : Out :=
  minMaxV true vd vs1 vs2 ft km h s

/-- vabs: the sign bit is cleared -/
def execVabs (vd vs1 : BitVec 4) (ft : BitVec 2) (km : BitVec 2) (h : BitVec 1) (s : State) : Out :=
  let w := ftBits ft.toNat
  lanesOp (Needs.reuse { vr := [vs1.toNat] } h vs1) vd km.toNat w (fun s i => lane (vreg s vs1) w i % 2 ^ (w - 1)) s
/-- vneg: the sign bit is inverted -/
def execVneg (vd vs1 : BitVec 4) (ft : BitVec 2) (km : BitVec 2) (h : BitVec 1) (s : State) : Out :=
  let w := ftBits ft.toNat
  lanesOp (Needs.reuse { vr := [vs1.toNat] } h vs1) vd km.toNat w (fun s i => (lane (vreg s vs1) w i + 2 ^ (w - 1)) % 2 ^ w) s

/-! ### conversion (06 R167) -/

/-- Bits of a source format (03 R62). -/
def sfBits (sf : Nat) : Nat :=
  match sf with
  | 0 => 16 | 1 => 16 | 2 => 32 | 3 => 64 | 4 => 8 | 5 => 8 | 6 => 8 | 7 => 16 | 8 => 32 | _ => 64

/-- The value of a source lane. -/
def sourceVal (sf x : Nat) : FVal :=
  match sf with
  | 0 => decodeF fp16 x | 1 => decodeF bf16 x | 2 => decodeF fp32 x | 3 => decodeF fp64 x | 4 => decodeF e4m3 x
  | 5 => decodeF e5m2 x
  | _ => ofInt (signedOf (sfBits sf) x)

/-- vcvt: lanes beyond the source's become +0 -/
def execVcvt (vd vs1 : BitVec 4) (sf : BitVec 4) (ft : BitVec 2) (rm : BitVec 3) (km : BitVec 2) (h : BitVec 1)
    (s : State) : Out :=
  let sw := sfBits sf.toNat
  roundedOp (Needs.reuse { vr := [vs1.toNat] } h vs1) vd ft rm km (fun s m r i =>
    if i < laneCount sw then roundVal (ftFmt ft.toNat) m r (sourceVal sf.toNat (lane (vreg s vs1) sw i)) else (0, 0)) s

/-! ### reductions (06 R168) -/

/-- One level of the tree: nodes of 2^j lanes from node number p on; f takes the start lane and the two children. -/
def treeLevel (f : Nat → Nat → Nat → Nat × Nat) (j : Nat) : List (Option Nat) → Nat → List (Option Nat) × Nat
  | some a :: some b :: rest, p =>
    let r := f (p * 2 ^ j) a b
    let t := treeLevel f j rest (p + 1)
    (some r.1 :: t.1, orFlags r.2 t.2)
  | some a :: none :: rest, p => let t := treeLevel f j rest (p + 1); (some a :: t.1, t.2)
  | none :: x :: rest, p => let t := treeLevel f j rest (p + 1); (x :: t.1, t.2)
  | xs, _ => (xs, 0)

/-- The tree from level j on: f takes the level, the start lane and the children. -/
def treeFrom (f : Nat → Nat → Nat → Nat → Nat × Nat) : Nat → Nat → List (Option Nat) → Option Nat × Nat
  | 0, _, xs => (xs.head?.join, 0)
  | n + 1, j, xs =>
    if xs.length ≤ 1 then (xs.head?.join, 0)
    else
      let l := treeLevel (f j) j xs 0
      let t := treeFrom f n (j + 1) l.1
      (t.1, orFlags l.2 t.2)

/-- Reduce the active lanes into lane 0; the other lanes become +0. -/
def reduceV (vd vs1 : BitVec 4) (ft km : BitVec 2) (f : State → Nat → Nat → Nat → Nat → Nat × Nat) (empty : Nat)
    (s : State) : State :=
  let w := ftBits ft.toNat
  let fmt := ftFmt ft.toNat
  let xs := (List.range (laneCount w)).map fun i => if active (regs s) km.toNat i then some (lane (vreg s vs1) w i) else none
  let nv := flagNV (xs.any fun x => match x with | some v => (decodeF fmt v).isSignalling | none => false)
  let (root, fl) := treeFrom (f s) 6 1 xs
  let r := match root with
    | none => empty
    | some v => if (decodeF fmt v).isNaN then canonicalNaN fmt else v
  accrue (putV s vd (ofLanes w [r])) (orFlags nv fl)

/-- vredsum -/
def execVredsum (vd vs1 : BitVec 4) (ft : BitVec 2) (rm : BitVec 3) (km : BitVec 2) (h : BitVec 1) (s : State) : Out :=
  let fmt := ftFmt ft.toNat
  vecOp (Needs.reuse { vr := [vs1.toNat], vw := [vd.toNat] } h vs1) (fun s =>
    let m := vecRm s rm
    countSr (reduceV vd vs1 ft km (fun s j b x y =>
      fAdd fmt m (vecDraw s (64 * j + b)) (decodeF fmt x) (decodeF fmt y)) 0 s) m) s
/-- vredmin -/
def execVredmin (vd vs1 : BitVec 4) (ft : BitVec 2) (km : BitVec 2) (h : BitVec 1) (s : State) : Out :=
  let fmt := ftFmt ft.toNat
  vecOp (Needs.reuse { vr := [vs1.toNat], vw := [vd.toNat] } h vs1) (fun s =>
    reduceV vd vs1 ft km (fun _ _ _ x y => fMinMax fmt false x y) (infOf fmt false) s) s
/-- vredmax -/
def execVredmax (vd vs1 : BitVec 4) (ft : BitVec 2) (km : BitVec 2) (h : BitVec 1) (s : State) : Out :=
  let fmt := ftFmt ft.toNat
  vecOp (Needs.reuse { vr := [vs1.toNat], vw := [vd.toNat] } h vs1) (fun s =>
    reduceV vd vs1 ft km (fun _ _ _ x y => fMinMax fmt true x y) (infOf fmt true) s) s

/-! ### integer arithmetic, logic and shifts (06 R169, R170) -/

/-- An operation on two lanes of w bits, reduced to the width. -/
def intOp (f : Nat → Nat → Nat → Nat) (vd vs1 vs2 : BitVec 4) (et km : BitVec 3) (h : BitVec 1)
    (s : State) : Out :=
  let w := etBits et.toNat
  lanesOp ((two vs1 vs2).reuse h vs1) vd km.toNat w (fun s i => f w (lane (vreg s vs1) w i) (lane (vreg s vs2) w i) % 2 ^ w) s


/-- viadd -/
def execViadd (vd vs1 vs2 : BitVec 4) (et : BitVec 3) (km : BitVec 3) (h : BitVec 1) (s : State) : Out :=
  intOp (fun _ a b => a + b) vd vs1 vs2 et km h s

/-- visub -/
def execVisub (vd vs1 vs2 : BitVec 4) (et : BitVec 3) (km : BitVec 3) (h : BitVec 1) (s : State) : Out :=
  intOp (fun w a b => a + 2 ^ w - b) vd vs1 vs2 et km h s

/-- vimul -/
def execVimul (vd vs1 vs2 : BitVec 4) (et : BitVec 3) (km : BitVec 3) (h : BitVec 1) (s : State) : Out :=
  intOp (fun _ a b => a * b) vd vs1 vs2 et km h s

/-- vand -/
def execVand (vd vs1 vs2 : BitVec 4) (et : BitVec 3) (km : BitVec 3) (h : BitVec 1) (s : State) : Out :=
  intOp (fun _ a b => a &&& b) vd vs1 vs2 et km h s

/-- vor -/
def execVor (vd vs1 vs2 : BitVec 4) (et : BitVec 3) (km : BitVec 3) (h : BitVec 1) (s : State) : Out :=
  intOp (fun _ a b => a ||| b) vd vs1 vs2 et km h s

/-- vxor -/
def execVxor (vd vs1 vs2 : BitVec 4) (et : BitVec 3) (km : BitVec 3) (h : BitVec 1) (s : State) : Out :=
  intOp (fun _ a b => a ^^^ b) vd vs1 vs2 et km h s

/-- vsll -/
def execVsll (vd vs1 vs2 : BitVec 4) (et : BitVec 3) (km : BitVec 3) (h : BitVec 1) (s : State) : Out :=
  intOp (fun w a b => a * 2 ^ (b % w)) vd vs1 vs2 et km h s

/-- vsrl -/
def execVsrl (vd vs1 vs2 : BitVec 4) (et : BitVec 3) (km : BitVec 3) (h : BitVec 1) (s : State) : Out :=
  intOp (fun w a b => a / 2 ^ (b % w)) vd vs1 vs2 et km h s

/-- vsra -/
def execVsra (vd vs1 vs2 : BitVec 4) (et : BitVec 3) (km : BitVec 3) (h : BitVec 1) (s : State) : Out :=
  intOp (fun w a b => wrapTo w (signedOf w a / (2 ^ (b % w) : Int))) vd vs1 vs2 et km h s

/-! ### compares (06 R171) -/

/-- The format of a floating-point element type, none for an integer one. -/
def etFmt (et : Nat) : Option Fmt :=
  match et with
  | 4 => some fp16 | 5 => some bf16 | 6 => some fp32 | 7 => some fp64 | _ => none

/-- The k result of lane tests: bit i is the test of active lane i, every other bit 0. -/
def maskOf (g : Regs) (km n : Nat) (t : Nat → Bool) : Word :=
  (List.range n).foldl (fun m i => if active g km i && t i then putBit m i true else m) 0

/-- A compare: `int` on lanes of w bits, `flt` on values; `quiet` raises NV for signalling NaNs only. -/
def compareV (int : Nat → Nat → Nat → Bool) (flt : FVal → FVal → Bool) (quiet : Bool) (kd : BitVec 3) (vs1 vs2 : BitVec 4)
    (et km : BitVec 3) (h : BitVec 1) (s : State) : Out :=
  let w := etBits et.toNat
  vecOp ((two vs1 vs2).reuse h vs1) (fun s =>
    let x := fun i => lane (vreg s vs1) w i
    let y := fun i => lane (vreg s vs2) w i
    let n := laneCount w
    match etFmt et.toNat with
    | none => modRegs s fun g => writeK g kd.toNat (maskOf g km.toNat n fun i => int w (x i) (y i))
    | some f =>
      let bad := fun i =>
        let a := decodeF f (x i)
        let b := decodeF f (y i)
        if quiet then a.isSignalling || b.isSignalling else a.isNaN || b.isNaN
      let nv := (List.range n).any fun i => active (regs s) km.toNat i && bad i
      accrue (modRegs s fun g => writeK g kd.toNat (maskOf g km.toNat n fun i => flt (decodeF f (x i)) (decodeF f (y i))))
        (flagNV nv)) s


/-- vcmpeq -/
def execVcmpeq (kd : BitVec 3) (vs1 vs2 : BitVec 4) (et : BitVec 3) (km : BitVec 3) (h : BitVec 1) (s : State) : Out :=
  compareV (fun _ a b => a == b) eqVal true kd vs1 vs2 et km h s

/-- vcmpne -/
def execVcmpne (kd : BitVec 3) (vs1 vs2 : BitVec 4) (et : BitVec 3) (km : BitVec 3) (h : BitVec 1) (s : State) : Out :=
  compareV (fun _ a b => a != b) (fun a b => !eqVal a b) true kd vs1 vs2 et km h s

/-- vcmplt -/
def execVcmplt (kd : BitVec 3) (vs1 vs2 : BitVec 4) (et : BitVec 3) (km : BitVec 3) (h : BitVec 1) (s : State) : Out :=
  compareV (fun w a b => decide (signedOf w a < signedOf w b)) ltVal false kd vs1 vs2 et km h s

/-- vcmple -/
def execVcmple (kd : BitVec 3) (vs1 vs2 : BitVec 4) (et : BitVec 3) (km : BitVec 3) (h : BitVec 1) (s : State) : Out :=
  compareV (fun w a b => decide (signedOf w a ≤ signedOf w b)) (fun a b => ltVal a b || eqVal a b) false kd vs1 vs2 et km h s

/-- vcmpltn -/
def execVcmpltn (kd : BitVec 3) (vs1 vs2 : BitVec 4) (et : BitVec 3) (km : BitVec 3) (h : BitVec 1) (s : State) : Out :=
  compareV (fun _ a b => decide (a < b)) (fun a b => ltVal a b || a.isNaN || b.isNaN) true kd vs1 vs2 et km h s

/-! ### data movement (06 R172 to R175) -/

/-- vperm -/
def execVperm (vd vs1 vs2 : BitVec 4) (et : BitVec 3) (km : BitVec 3) (h : BitVec 1) (s : State) : Out :=
  let w := etBits et.toNat
  lanesOp ((two vs1 vs2).reuse h vs1) vd km.toNat w (fun s i => lane (vreg s vs1) w (lane (vreg s vs2) w i % laneCount w)) s
/-- vslide: the count is x[xs], signed -/
def execVslide (vd vs1 : BitVec 4) (xs : BitVec 4) (et : BitVec 3) (km : BitVec 3) (h : BitVec 1) (s : State) : Out :=
  let w := etBits et.toNat
  lanesOp (Needs.reuse { xr := [xs.setWidth 5], vr := [vs1.toNat] } h vs1) vd km.toNat w (fun s i =>
    let j : Int := (i : Int) + (xr s (xs.setWidth 5)).toInt
    if 0 ≤ j ∧ j < (laneCount w : Int) then lane (vreg s vs1) w j.toNat else 0) s
/-- vzip -/
def execVzip (vd vs1 vs2 : BitVec 4) (et : BitVec 3) (km : BitVec 3) (h : BitVec 1) (s : State) : Out :=
  let w := etBits et.toNat
  lanesOp ((two vs1 vs2).reuse h vs1) vd km.toNat w (fun s i => lane (vreg s (if i % 2 = 0 then vs1 else vs2)) w (i / 2)) s
/-- vunzip -/
def execVunzip (vd vs1 vs2 : BitVec 4) (et : BitVec 3) (km : BitVec 3) (h : BitVec 1) (s : State) : Out :=
  let w := etBits et.toNat
  lanesOp ((two vs1 vs2).reuse h vs1) vd km.toNat w (fun s i =>
    let n := laneCount w
    if 2 * i < n then lane (vreg s vs1) w (2 * i) else lane (vreg s vs2) w (2 * i - n)) s
/-- vmerge: km chooses, every lane is written -/
def execVmerge (vd vs1 vs2 : BitVec 4) (et : BitVec 3) (km : BitVec 3) (h : BitVec 1) (s : State) : Out :=
  let w := etBits et.toNat
  lanesOp ((two vs1 vs2).reuse h vs1) vd 0 w (fun s i => lane (vreg s (if (readK (regs s) km.toNat).getLsbD i then vs1 else vs2)) w i) s
/-- vmv: a byte mask when km is not 0 -/
def execVmv (vd vs1 : BitVec 4) (km : BitVec 3) (h : BitVec 1) (s : State) : Out :=
  lanesOp (Needs.reuse { vr := [vs1.toNat] } h vs1) vd km.toNat 8 (fun s i => lane (vreg s vs1) 8 i) s
/-- vins -/
def execVins (vd : BitVec 4) (xs xi : BitVec 4) (et : BitVec 3) (_h : BitVec 1) (s : State) : Out :=
  let w := etBits et.toNat
  lanesOp { xr := [xs.setWidth 5, xi.setWidth 5], vr := [vd.toNat] } vd 0 w (fun s i =>
    if i = xn s (xi.setWidth 5) % laneCount w then xn s (xs.setWidth 5) % 2 ^ w else lane (vreg s vd) w i) s
/-- The word that vext reads: sign-extended for an integer type. -/
def extValue (s : State) (vs xi : BitVec 4) (et : BitVec 3) : Word :=
  let w := etBits et.toNat
  let x := lane (vreg s vs) w (xn s (xi.setWidth 5) % laneCount w)
  if et.toNat < 4 then wordOf (signedOf w x) else BitVec.ofNat 64 x
/-- vext -/
def execVext (rd : BitVec 5) (vs xi : BitVec 4) (et : BitVec 3) (s : State) : Out :=
  vecFill { xr := [xi.setWidth 5], vr := [vs.toNat] } rd (fun s => extValue s vs xi et) s

/-! ### mask operations (06 R176) -/

def maskOp (f : Word → Word → Word) (kd ks1 ks2 : BitVec 3) (s : State) : Out :=
  vecOp {} (fun s => modRegs s fun g => writeK g kd.toNat (f (readK g ks1.toNat) (readK g ks2.toNat))) s

/-- kand -/
def execKand (kd ks1 ks2 : BitVec 3) (s : State) : Out := maskOp (fun a b => a &&& b) kd ks1 ks2 s
/-- kor -/
def execKor (kd ks1 ks2 : BitVec 3) (s : State) : Out := maskOp (fun a b => a ||| b) kd ks1 ks2 s
/-- kxor -/
def execKxor (kd ks1 ks2 : BitVec 3) (s : State) : Out := maskOp (fun a b => a ^^^ b) kd ks1 ks2 s
/-- knot -/
def execKnot (kd ks1 : BitVec 3) (s : State) : Out := maskOp (fun a _ => ~~~a) kd ks1 ks1 s
/-- kpop -/
def execKpop (rd : BitVec 5) (ks1 : BitVec 3) (s : State) : Out :=
  vecFill {} rd (fun s =>
    BitVec.ofNat 64 ((List.range 64).filter fun i => (readK (regs s) ks1.toNat).getLsbD i).length) s
/-- kfirst -/
def execKfirst (rd : BitVec 5) (ks1 : BitVec 3) (s : State) : Out :=
  vecFill {} rd (fun s =>
    BitVec.ofNat 64 (((List.range 64).find? fun i => (readK (regs s) ks1.toNat).getLsbD i).getD 64)) s

end Sys2Proof.Machine
end

