-- ==== Sys2Proof/Machine/Mtx.lean ====
section
/-! DEFINITION. Issue of the MTX space (chapter 07): the checks of R184 and the command that enters the core's matrix
queue. -/
namespace Sys2Proof.Machine

/-! ### operand words (07 R186) -/

/-- A KIND 1 address names the scratchpad window of a core of the issuer's cluster and launch. -/
def windowOk (s : State) (addr : Nat) : Bool :=
  let k := pkgOf s.turn * 4096 + addr / 2 ^ 18 % 4096
  addr / 2 ^ 44 == 2 && decide (addr % 2 ^ 44 < 2 ^ 30) && clusterOf k == clusterOf s.turn && (launchCores s s.turn).contains k

/-- The offset in its scratchpad that an operand word names. -/
def opOffset (w : Word) : Nat := if opKind w = 1 then opAddr w % 2 ^ 18 else opAddr w

/-- What an even word breaks for a form: `k1` allows KIND 1, `rot` a rotation; the address is a multiple of `al` and
`n` bytes from it lie in the grant. -/
def areaBad (s : State) (w : Word) (k1 rot : Bool) (al n : Nat) : Bool :=
  bitsOf w 63 56 != 0 || !(opKind w == 0 || (k1 && opKind w == 1)) || (!rot && opRot w != 0) ||
  (opKind w == 1 && !windowOk s (opAddr w)) || opOffset w % al != 0 || decide ((myCore s).spmBytes < opOffset w + n)

/-- A KIND 2 word: a first register and nothing else (07 R189). -/
def vectorWordBad (w : Word) : Bool := bitsOf w 63 56 != 0 || opRot w != 0 || decide (15 < opAddr w)

/-- The value of the first check that fails. -/
def firstBad : List (Bool × Word) → Option Word
  | [] => none
  | (b, w) :: cs => if b then some w else firstBad cs

/-! ### the multiplies (07 R184, R187, R191) -/

/-- The checks of a multiply, register by register in ascending order (log entry 14). -/
def multiplyChecks (s : State) (code : Nat) (rd : BitVec 5) (a0 a1 b0 b1 : Word) : List (Bool × Word) :=
  let k := opKlen a1
  let g := mtxGroup code
  let qe := mtxIsQe code
  let grouped := a1.getLsbD 51
  let paired := a1.getLsbD 52
  let pitchBad := fun (w : Word) => opRowp w % 16 != 0 || opTilep w % 16 != 0
  [ (if opKind a0 = 2 then qe || vectorWordBad a0
     else areaBad s a0 true (!qe) 16 (if qe then 260 else reachA a1 k (mtxElem code)) ||
       (opRot a0 != 0 && k % 64 != 0), a0),
    (bitsOf a1 63 57 != 0 || bitsOf a1 47 44 != 0 || k == 0 || decide (4096 < k) || k % mtxKUnit code != 0 ||
     (grouped && paired) || (paired && k % 128 != 0) || (a1.getLsbD 56 && (rd == 0 || rd == 31)) ||
     (if opKind a0 = 2 then k != g || opRowp a1 != 0 || opTilep a1 != 0
      else if qe then opRowp a1 != 0 || opTilep a1 != 0
      else pitchBad a1), a1),
    (if grouped then areaBad s b0 false false 16 1
     else if opKind b0 = 2 then qe || vectorWordBad b0
     else areaBad s b0 true true 16 (reachB b1 (rowsOfB a1) (mtxElemB code)), b0),
    (bitsOf b1 63 44 != 0 || opKlen b1 != k ||
     (if opKind b0 = 2 && !grouped then k != g || opRowp b1 != 0 || opTilep b1 != 0 else pitchBad b1), b1) ]

/-- A command of the executing context with nothing filled in. -/
def blankMtx (s : State) (code : Nat) (rd : BitVec 5) : MtxCmd :=
  { id := s.nextId, ctx := s.cur, mode := (me s).mode, code := code, rd := rd.toNat, m := 0, a0 := 0, a1 := 0, b0 := 0, b1 := 0, va := [], vb := [],
    mask := BitVec.allOnes 64, sa := 0, sb := 0, rm := 0, seed := (me s).qsrseed, count := (regs s).qsrctr,
    qhbase := (me s).qhbase, window := (myCore s).qpair.toNat,
    after := commandAfter s s.turn s.cur, order := s.nextId }

/-- A core whose launch has MTX = 0 denies MTX instructions (03 R52, 11 R234). -/
def mtxDenied (s : State) : Bool :=
  match (myCore s).launch with
  | some id => match launchOf s id with
    | some l => !l.mtx
    | none => false
  | none => false

/-- Issue of an MTX instruction: UNSUPP, MXDENIED, presence (03 R52, 07 R181). -/
def issueMtx (i : Instr) (d : Needs) (body : State → Out) (s : State) : Out :=
  if inTx s then .next (abortMe s Abort.unsupp 0 0)
  else if mtxDenied s then trap s Cause.mxdenied (BitVec.ofNat 64 (wordOfInstr i).toNat)
  else whenMet d.conds body s

/-- A command whose turn at the head has come joins the cluster pairing point if it is paired (07 R196). -/
def atPoint (s : State) (k : Nat) : State :=
  modCore s k fun c => { c with mq := match c.mq with
    | x :: xs => (if x.code ≤ 9 && x.a1.getLsbD 52 && x.waitingSince.isNone then { x with waitingSince := some (ownCycle s k) } else x) :: xs
    | [] => [] }

/-- The command enters the queue once there is room; `rm` is its effective rounding mode, `more` a second token. -/
def enterMtx (bad : Option Word) (x : MtxCmd) (rm : Nat) (more : List Nat) (s : State) : Out :=
  match bad with
  | some w => trap s Cause.mxarg w
  | none =>
    let c := myCore s
    whenMet ((more.map fun r => Cond.xSettled r) ++ [.mqRoom ((mtxReads c x).length + (mtxWrites c x).length)]) (fun s =>
      let s := countSr { s with nextId := s.nextId + 1 } rm
      let s := modRegs s fun g => more.foldl emptyX (emptyX g x.rd)
      .next (retire (atPoint (modMyCore s fun c => { c with mq := c.mq ++ [{ x with rm := rm }] }) s.turn))) s

/-- The sixteen registers of a KIND 2 operand, from its first one on (07 R189). -/
def vectorOperand (s : State) (w : Word) : List VWord :=
  if opKind w = 2 then (List.range 16).map fun i => readV (regs s) ((opAddr w + i) % 16) else []

/-- A multiply. -/
def multiply (i : Instr) (code : Nat) (rd rs1 rs2 fs : BitVec 5) (s : State) : Out :=
  issueMtx i { xr := [rs1, rs1 + 1, rs2, rs2 + 1], fr := if code = 8 then [] else [fs, fs + 1], xw := [rd] } (fun s =>
    let a0 := xr s rs1
    let a1 := xr s (rs1 + 1)
    let b0 := xr s rs2
    let b1 := xr s (rs2 + 1)
    let vs := if !mtxIsQe code && (opKind a0 == 2 || opKind b0 == 2) then (List.range 16).map Cond.vPresent else []
    whenMet vs (fun s =>
      enterMtx (firstBad (multiplyChecks s code rd a0 a1 b0 b1))
        { blankMtx s code rd with
          a0 := a0, a1 := a1, b0 := b0, b1 := b1, va := vectorOperand s a0,
          vb := if a1.getLsbD 51 then [] else vectorOperand s b0,
          sa := readF (regs s) fs.toNat, sb := readF (regs s) (fs.toNat + 1) } 0
        (if a1.getLsbD 56 then [rd.toNat + 1] else []) s) s) s

/-- mm.bf16 -/
def execMmBf16 (rd rs1 rs2 fs : BitVec 5) (s : State) : Out := multiply (.mmBf16 rd rs1 rs2 fs) 0 rd rs1 rs2 fs s
/-- mm.fp16 -/
def execMmFp16 (rd rs1 rs2 fs : BitVec 5) (s : State) : Out := multiply (.mmFp16 rd rs1 rs2 fs) 1 rd rs1 rs2 fs s
/-- mm.e4e4 -/
def execMmE4e4 (rd rs1 rs2 fs : BitVec 5) (s : State) : Out := multiply (.mmE4e4 rd rs1 rs2 fs) 2 rd rs1 rs2 fs s
/-- mm.e5e5 -/
def execMmE5e5 (rd rs1 rs2 fs : BitVec 5) (s : State) : Out := multiply (.mmE5e5 rd rs1 rs2 fs) 3 rd rs1 rs2 fs s
/-- mm.e4e5 -/
def execMmE4e5 (rd rs1 rs2 fs : BitVec 5) (s : State) : Out := multiply (.mmE4e5 rd rs1 rs2 fs) 4 rd rs1 rs2 fs s
/-- mm.e5e4 -/
def execMmE5e4 (rd rs1 rs2 fs : BitVec 5) (s : State) : Out := multiply (.mmE5e4 rd rs1 rs2 fs) 5 rd rs1 rs2 fs s
/-- mm.qe4 -/
def execMmQe4 (rd rs1 rs2 fs : BitVec 5) (s : State) : Out := multiply (.mmQe4 rd rs1 rs2 fs) 6 rd rs1 rs2 fs s
/-- mm.qbf -/
def execMmQbf (rd rs1 rs2 fs : BitVec 5) (s : State) : Out := multiply (.mmQbf rd rs1 rs2 fs) 7 rd rs1 rs2 fs s
/-- mm.i8: no scales are read -/
def execMmI8 (rd rs1 rs2 fs : BitVec 5) (s : State) : Out := multiply (.mmI8 rd rs1 rs2 fs) 8 rd rs1 rs2 fs s
/-- mm.fp32 -/
def execMmFp32 (rd rs1 rs2 fs : BitVec 5) (s : State) : Out := multiply (.mmFp32 rd rs1 rs2 fs) 9 rd rs1 rs2 fs s

/-! ### accumulator commands (07 R199 to R201) -/

/-- ma.zero -/
def execMaZero (rd : BitVec 5) (acc : BitVec 2) (s : State) : Out :=
  issueMtx (.maZero rd acc) { xw := [rd] } (fun s => enterMtx none { blankMtx s 16 rd with m := acc.toNat } 0 [] s) s

/-- The checks of the pair of ma.ld and ma.st; `st` allows G, BIN and HOFF. -/
def areaChecks (s : State) (st : Bool) (w0 w1 : Word) : List (Bool × Word) :=
  let fmt := bitsOf w1 18 16
  let n := fmtBytes fmt
  let g := w1.getLsbD 51
  let table := st && g
  let bin := w1.getLsbD 19
  let hoff := bitsOf w1 49 32
  [ (areaBad s w0 (!table) (!table) 16 (if table || decide (5 < fmt) then 1 else areaReach w1 n), w0),
    (bitsOf w1 63 52 != 0 || w1.getLsbD 50 || bitsOf w1 31 20 != 0 || decide (5 < fmt) || opRowp w1 % 16 != 0 ||
     decide (opRowp w1 < 64 * n) || (!st && (g || bin)) || (g && bin) || (!bin && hoff != 0) || hoff % 64 != 0 ||
     (bin && decide ((myCore s).spmBytes < hoff + 256)), w1) ]

/-- ma.ld -/
def execMaLd (rd : BitVec 5) (acc : BitVec 2) (rs1 : BitVec 5) (s : State) : Out :=
  issueMtx (.maLd rd acc rs1) { xr := [rs1, rs1 + 1], xw := [rd] } (fun s =>
    let w0 := xr s rs1
    let w1 := xr s (rs1 + 1)
    enterMtx (firstBad (areaChecks s false w0 w1)) { blankMtx s 17 rd with m := acc.toNat, a0 := w0, a1 := w1 } 0 [] s) s

/-- ma.st -/
def execMaSt (rd : BitVec 5) (acc : BitVec 2) (rs1 : BitVec 5) (rm : BitVec 3) (s : State) : Out :=
  issueMtx (.maSt rd acc rs1 rm) { xr := [rs1, rs1 + 1], xw := [rd] } (fun s =>
    let w0 := xr s rs1
    let w1 := xr s (rs1 + 1)
    enterMtx (firstBad (areaChecks s true w0 w1)) { blankMtx s 18 rd with m := acc.toNat, a0 := w0, a1 := w1 }
      (vecRm s rm) [] s) s

/-- ma.mv -/
def execMaMv (rd : BitVec 5) (accD accS : BitVec 2) (s : State) : Out :=
  issueMtx (.maMv rd accD accS) { xw := [rd] } (fun s =>
    enterMtx none { blankMtx s 19 rd with m := accS.toNat * 4 + accD.toNat } 0 [] s) s

/-! ### the long accumulator (07 R203 to R205) -/

/-- la.clr -/
def execLaClr (rd rs1 : BitVec 5) (s : State) : Out :=
  issueMtx (.laClr rd rs1) { xr := [rs1], xw := [rd] } (fun s =>
    enterMtx (firstBad [(areaBad s (xr s rs1) false false 8 88, xr s rs1)]) { blankMtx s 20 rd with a0 := xr s rs1 } 0 [] s) s

/-- la.fma and la.add: the vector operands and the mask are read at issue. -/
def laneSum (i : Instr) (code : Nat) (rd rs1 : BitVec 5) (va : BitVec 4) (vb : Option (BitVec 4)) (s : State) : Out :=
  issueMtx i { xr := [rs1, rs1 + 1], vr := va.toNat :: (vb.toList.map (·.toNat)), xw := [rd] } (fun s =>
    let w0 := xr s rs1
    let w1 := xr s (rs1 + 1)
    let km := bitsOf w1 6 4
    enterMtx (firstBad [(areaBad s w0 false false 8 88, w0),
        (bitsOf w1 63 7 != 0 || bitsOf w1 3 2 != 0 || bitsOf w1 1 0 == 3, w1)])
      { blankMtx s code rd with
        a0 := w0, a1 := w1, m := bitsOf w1 1 0, va := [vreg s va], vb := (vb.toList.map (vreg s)),
        mask := if km = 0 then BitVec.allOnes 64 else readK (regs s) km } 0 [] s) s

/-- la.fma -/
def execLaFma (rd rs1 : BitVec 5) (va vb : BitVec 4) (s : State) : Out := laneSum (.laFma rd rs1 va vb) 21 rd rs1 va (some vb) s
/-- la.add -/
def execLaAdd (rd rs1 : BitVec 5) (va : BitVec 4) (s : State) : Out := laneSum (.laAdd rd rs1 va) 22 rd rs1 va none s

/-- la.rnd -/
def execLaRnd (rd rs1 : BitVec 5) (fmt : BitVec 2) (rm : BitVec 3) (s : State) : Out :=
  issueMtx (.laRnd rd rs1 fmt rm) { xr := [rs1, rs1 + 1], xw := [rd] } (fun s =>
    let w0 := xr s rs1
    let w1 := xr s (rs1 + 1)
    enterMtx (firstBad [(areaBad s w0 true false 8 88, w0),
        (areaBad s w1 true false (ftBytes fmt.toNat) (ftBytes fmt.toNat), w1)])
      { blankMtx s 23 rd with a0 := w0, a1 := w1, m := fmt.toNat } (vecRm s rm) [] s) s

/-- The offset of the issuer's own scratchpad that a word names, none for another core's. -/
def ownOffset (s : State) (w : Word) : Option Nat :=
  if opKind w = 0 then some (opAddr w)
  else if pkgOf s.turn * 4096 + opAddr w / 2 ^ 18 % 4096 = s.turn then some (opAddr w % 2 ^ 18)
  else none

/-- Two objects of n bytes overlap without being the same (07 R205). -/
def partlySame (s : State) (a b : Word) (n : Nat) : Bool :=
  match ownOffset s a, ownOffset s b with
  | some x, some y => x != y && decide (x < y + n) && decide (y < x + n)
  | _, _ => false

/-- la.mrg and hx.mrg: a source of KIND 0 or 1 into a target of n bytes. -/
def mergeX (i : Instr) (code al n : Nat) (rd rs1 rs2 : BitVec 5) (s : State) : Out :=
  issueMtx i { xr := [rs1, rs2], xw := [rd] } (fun s =>
    let w := xr s rs1
    let v := xr s rs2
    enterMtx (firstBad [(areaBad s w false false al n, w), (areaBad s v true false al n || partlySame s w v n, v)])
      { blankMtx s code rd with a0 := w, b0 := v } 0 [] s) s

/-- la.mrg -/
def execLaMrg (rd rs1 rs2 : BitVec 5) (s : State) : Out := mergeX (.laMrg rd rs1 rs2) 24 8 88 rd rs1 rs2 s

/-! ### histograms (07 R207) -/

/-- hx.bin -/
def execHxBin (rd rs1 : BitVec 5) (va : BitVec 4) (ft : BitVec 2) (s : State) : Out :=
  issueMtx (.hxBin rd rs1 va ft) { xr := [rs1], vr := [va.toNat], xw := [rd] } (fun s =>
    enterMtx (firstBad [(areaBad s (xr s rs1) false false 64 256, xr s rs1)])
      { blankMtx s 25 rd with a0 := xr s rs1, m := ft.toNat, va := [vreg s va] } 0 [] s) s
/-- hx.clr -/
def execHxClr (rd rs1 : BitVec 5) (s : State) : Out :=
  issueMtx (.hxClr rd rs1) { xr := [rs1], xw := [rd] } (fun s =>
    enterMtx (firstBad [(areaBad s (xr s rs1) false false 64 256, xr s rs1)]) { blankMtx s 26 rd with a0 := xr s rs1 } 0 [] s) s
/-- hx.mrg -/
def execHxMrg (rd rs1 rs2 : BitVec 5) (s : State) : Out := mergeX (.hxMrg rd rs1 rs2) 27 64 256 rd rs1 rs2 s

end Sys2Proof.Machine
end

