-- ==== Sys2Proof/Machine/MtxExec.lean ====
section
/-! DEFINITION. The matrix unit: operands, multiplies, accumulators, the long accumulator and histograms (chapters 07 and
09), grants (11 R244), pairing and completion. -/
namespace Sys2Proof.Machine

/-! ### scratchpads as the unit reaches them (07 R186, 14 R289) -/

/-- Core and offset of an operand word of core k. -/
def targetOf (k : Nat) (w : Word) : Nat := if opKind w = 1 then pkgOf k * 4096 + opAddr w / 2 ^ 18 % 4096 else k

/-- The physical address of a KIND 1 word. -/
def opPa (k : Nat) (w : Word) : Nat := pkgOf k * 2 ^ 48 + opAddr w

/-- Why a command fails: its token's status, and the address and the reason of the error response that it met (reason 0:
none). -/
abbrev MtxFail := Int × Nat × Nat

/-- What an access of n bytes at a KIND 1 word meets: the windows and the target's grant (07 R185; 14 R289, R301). -/
def viewError (s : State) (k : Nat) (x : MtxCmd) (w : Word) (n : Nat) (write : Bool) : Option MtxFail :=
  if opKind w ≠ 1 then none
  else if (getCore s (targetOf k w)).quarantined then some (Status.accesserr, opPa k w, Reason.notlaunch)
  else (accessError s k x.mode (opPa k w) n write false).map fun r => (Status.accesserr, opPa k w, r)

/-- The first of two failures. -/
def orFail (a : Option MtxFail) (b : Option MtxFail) : Option MtxFail := match a with
  | some r => some r
  | none => b

/-- The error response of a failed command is logged (14 R303). -/
def logFail (s : State) (k : Nat) (x : MtxCmd) (r : MtxFail) : State :=
  if r.2.2 = 0 then s else logAccess s k x.ctx r.2.1 4 r.2.2

/-- The core that serves an operand: the running rank of the issuer's launch, or the remap state of its saved image. -/
def servingCore (s : State) (k t : Nat) : Core :=
  if (getCore s t).launch == (getCore s k).launch then getCore s t
  else match savedOf s t (getCore s k).launch with
    | some r => { imageRemap s r with spmBytes := r.spmBytes }
    | none => {}

/-- A saved rank's remap table with given selectors. -/
def bindImage (s : State) (r : SavedRank) (sels : List Bool) : State :=
  { s with mem := (List.range 8).foldl (fun m j =>
      let a := r.base + 0x120 + 8 * j
      let w := BitVec.ofNat 64 (readLE m a 8)
      writeLE m a 8 (putBit w 62 (sels.getD j (w.getLsbD 62))).toNat) s.mem }

/-- The cores and saved images as a command of core k sees them that bound to selectors when its reads began (05 R150). -/
def seenBy (s : State) (k : Nat) (bound : FMap (List Bool)) : State :=
  bound.foldl (fun s b =>
    if (getCore s b.1).launch == (getCore s k).launch then setCore s b.1 (boundCore (getCore s b.1) b.2)
    else match savedOf s b.1 (getCore s k).launch with
      | some r => bindImage s r b.2
      | none => s) s

/-- A byte of an operand. -/
def viewByte (s : State) (k : Nat) (w : Word) (rel : Nat) : Byte :=
  let t := targetOf k w
  let c := getCore s t
  let o := opOffset w + rel
  if c.launch == (getCore s k).launch then spmByte c o
  else match savedOf s t (getCore s k).launch with
    | some r => byteAt s.mem (imageAddr r (imageRemap s r) o)
    | none => 0

/-- n bytes from an operand word's address plus rel, as a number. -/
def viewGet (s : State) (k : Nat) (w : Word) (rel : Nat) : Nat → Nat
  | 0 => 0
  | n + 1 => (viewByte s k w rel).toNat + 256 * viewGet s k w (rel + 1) n

def viewPut (s : State) (k : Nat) (w : Word) (rel : Nat) (bs : List Byte) : State :=
  let t := targetOf k w
  let o := opOffset w + rel
  if (getCore s t).launch == (getCore s k).launch then setCore s t (spmWrite (getCore s t) false o bs)
  else match savedOf s t (getCore s k).launch with
    | some r => imagePut s k 15 r (imageRemap s r) o bs
    | none => s

/-! ### elements (07 R188, R189) -/

/-- The place of byte b of row j of a slice with elements of n bytes. -/
def rotPos (rot n j b : Nat) : Nat := (b / 16 + rot * j) % (4 * n) * 16 + b % 16

/-- A format of the unit's operands: a floating-point one, or INT8. -/
def mtxFmt : Nat → Option Fmt
  | 0 => some bf16 | 1 => some fp16 | 2 => some e4m3 | 3 => some e5m2 | 4 => some e4m3 | 5 => some e5m2
  | 6 => some e4m3 | 7 => some e4m3 | 9 => some fp32 | _ => none
def mtxFmtB : Nat → Option Fmt
  | 0 => some bf16 | 1 => some fp16 | 2 => some e4m3 | 3 => some e5m2 | 4 => some e5m2 | 5 => some e4m3
  | 6 => some e4m3 | 7 => some bf16 | 9 => some fp32 | _ => none

/-- The bytes of a KIND 2 operand as one number. -/
def vectorBits (vs : List VWord) : Nat := joinLanes 512 (vs.map (·.toNat))

/-- Element (m, k) of A, of n bytes. -/
def elemA (s : State) (k : Nat) (x : MtxCmd) (n m j : Nat) : Nat :=
  if opKind x.a0 = 2 then vectorBits x.va / 2 ^ (8 * n * (m * opKlen x.a1 + j)) % 2 ^ (8 * n)
  else viewGet s k x.a0 (j / 64 * opTilep x.a1 + m * opRowp x.a1 + rotPos (opRot x.a0) n m (n * (j % 64))) n

/-- Element (r, j) of a B operand word. -/
def elemB (s : State) (k : Nat) (x : MtxCmd) (w : Word) (n r j : Nat) : Nat :=
  if opKind w = 2 then vectorBits x.vb / 2 ^ (8 * n * (64 * r + j)) % 2 ^ (8 * n)
  else viewGet s k w (r / 64 * opTilep x.b1 + r % 64 * opRowp x.b1 + rotPos (opRot w) n (r % 64) (n * j)) n

/-! ### QE8 (09 R222 to R224) -/

/-- The bits of bytes, bit 7 of each byte first. -/
def streamBits : List Byte → List Bool
  | [] => []
  | b :: bs => b.getLsbD 7 :: b.getLsbD 6 :: b.getLsbD 5 :: b.getLsbD 4 :: b.getLsbD 3 :: b.getLsbD 2 :: b.getLsbD 1 ::
      b.getLsbD 0 :: streamBits bs

/-- The next n bits, the first the most significant. -/
def takeBits : Nat → List Bool → Nat → Option (Nat × List Bool)
  | 0, bs, acc => some (acc, bs)
  | _ + 1, [], _ => none
  | n + 1, b :: bs, acc => takeBits n bs (2 * acc + b.toNat)

/-- An exponent token after the header b: none when bits run out, else the field (above 15 for a bad token). -/
def expToken (b : Nat) : List Bool → Option (Nat × List Bool)
  | false :: bs => some (b, bs)
  | true :: false :: bs => some (b + 1, bs)
  | true :: true :: false :: bs => some (b + 2, bs)
  | true :: true :: true :: false :: bs => some (b + 3, bs)
  | true :: true :: true :: true :: bs => takeBits 4 bs 0
  | _ => none

/-- What a stream of elements gives: a status when bits run out (`short`) or a token is bad, else elements and the rest. -/
def qeElems (b : Nat) (short : Int) : Nat → List Bool → Except Int (List Nat × List Bool)
  | 0, bs => .ok ([], bs)
  | n + 1, bs =>
    match takeBits 4 bs 0 with
    | none => .error short
    | some (raw, bs) => match expToken b bs with
      | none => .error short
      | some (e, bs) =>
        if 15 < e then .error Status.qe8token
        else match qeElems b short n bs with
          | .error st => .error st
          | .ok (es, rest) => .ok ((raw / 8 * 128 + e * 8 + raw % 8) :: es, rest)

def qeBlocks (short : Int) : Nat → List Bool → Except Int (List Nat × List Bool)
  | 0, bs => .ok ([], bs)
  | n + 1, bs =>
    match takeBits 4 bs 0 with
    | none => .error short
    | some (b, bs) => match qeElems b short 32 bs with
      | .error st => .error st
      | .ok (es, bs) => match qeBlocks short n bs with
        | .error st => .error st
        | .ok (fs, rest) => .ok (es ++ fs, rest)

/-- Row m of a QE8 operand of K elements: its E4M3 bytes. The bytes after its code and padding are not read; one that
lies outside the grant of the rank that serves the stream is a fault all the same (09 R224). -/
def qeRow (s : State) (k : Nat) (x : MtxCmd) (m : Nat) : Except MtxFail (List Nat) :=
  let lo := viewGet s k x.a0 (4 * m) 4
  let hi := viewGet s k x.a0 (4 * m + 4) 4
  let grant := (servingCore s k (targetOf k x.a0)).spmBytes - opOffset x.a0
  let outside : MtxFail := if opKind x.a0 = 1 then (Status.accesserr, opPa k x.a0 + max lo grant, Reason.notlaunch)
    else (Status.qe8overrun, 0, 0)
  if hi < lo then .error (Status.qe8overrun, 0, 0)
  else
    let want := min (hi - lo) 6400
    let n := min want (grant - lo)
    let bits := streamBits ((List.range n).map fun i => viewByte s k x.a0 (lo + i))
    match qeBlocks Status.qe8overrun (opKlen x.a1 / 32) bits with
    | .error st => .error (if st = Status.qe8overrun ∧ n < want then outside else (st, 0, 0))
    | .ok (es, rest) =>
      if (rest.take (rest.length % 8)).any id then .error (Status.qe8token, 0, 0)
      else if grant < hi ∧ lo < hi then .error outside else .ok es

/-- The rows from a list of row numbers, the first fault deciding. -/
def qeRows (s : State) (k : Nat) (x : MtxCmd) : List Nat → Except MtxFail (List (Nat × List Nat))
  | [] => .ok []
  | m :: ms => match qeRow s k x m with
    | .error st => .error st
    | .ok es => match qeRows s k x ms with
      | .error st => .error st
      | .ok rs => .ok ((m, es) :: rs)

/-! ### group tables (07 R194) -/

/-- A group: first row, rows, operand word, histogram word. -/
abbrev Group := Nat × Nat × Word × Nat

def groupsFrom (c : Core) (addr : Nat) : Nat → Nat → Nat → List Group
  | 0, _, _ => []
  | n + 1, g, r =>
    let rows := spmLE' c (addr + 0x18 + 16 * g) 4
    (r, rows, BitVec.ofNat 64 (spmLE' c (addr + 0x10 + 16 * g) 8), spmLE' c (addr + 0x1C + 16 * g) 4) ::
      groupsFrom c addr n (g + 1) (r + rows)
where
  spmLE' (c : Core) (o n : Nat) : Nat := leNat (spmRead c o n)

/-- The group table at an address of core k, none where it breaks R194. `st` marks ma.st; `reach` gives the bytes that a
group of so many rows reaches. Bits of HIST that R194 does not name must be 0, and the offset is checked with V = 0 too (log
entry 92). -/
def groupTable (s : State) (k addr : Nat) (st : Bool) (reach : Nat → Nat) : Option (List Group) :=
  let c := getCore s k
  let ng := leNat (spmRead c addr 4)
  let gs := groupsFrom c addr ng 0 0
  let bad := fun (g : Group) =>
    decide (64 < g.2.1) ||
    (g.2.1 != 0 && (areaBad { s with turn := k } g.2.2.1 true true 16 (reach g.2.1) ||
      (if st then
        bitsOf (BitVec.ofNat 64 g.2.2.2) 30 18 != 0 || g.2.2.2 % 64 != 0 ||
          (decide (2 ^ 31 ≤ g.2.2.2) && decide (c.spmBytes < g.2.2.2 % 2 ^ 18 + 256))
       else g.2.2.2 != 0)))
  if c.spmBytes < addr + 16 ∨ ng = 0 ∨ 64 < ng ∨ c.spmBytes < addr + 16 + 16 * ng ∨
      leNat (spmRead c (addr + 4) 12) ≠ 0 ∨ 64 < (gs.map (·.2.1)).sum ∨ gs.any bad = true then none
  else some (gs.filter fun g => g.2.1 != 0)

/-! ### multiplies (07 R192, R193; 09 R225) -/

/-- GroupRound: the exact sum of a group rounded to FP32 once. -/
def groupRound (c : Nat) (ts : List FVal) : Nat :=
  (roundVal fp32 Rm.rne 0 (ts.foldl (fun a b => (addExact false a b).1) (decodeF fp32 c))).1

/-- One element: groups of g products in ascending k. -/
def dotFp (scale : FVal) (g groups c : Nat) (a b : Nat → FVal) : Nat :=
  (List.range groups).foldl (fun c i => groupRound c ((List.range g).map fun t =>
    (mulExact (mulExact scale (a (g * i + t))).1 (b (g * i + t))).1)) c

def dotInt (n c : Nat) (a b : Nat → Nat) : Nat :=
  wrapTo 32 ((List.range n).foldl (fun t i => t + signedOf 8 (a i) * signedOf 8 (b i)) (c : Int))

/-- Element (i, j) of accumulator n. -/
def accAt (c : Core) (n i j : Nat) : Nat := (fget 0 c.acc (4096 * n + 64 * i + j)).toNat

/-- Replace rows of accumulator n. -/
def setAccRows (c : Core) (n : Nat) (rows : List (Nat × List Nat)) : Core :=
  { c with acc := rows.foldl (fun m r =>
      let base := 4096 * n + 64 * r.1
      below base m ++ (r.2.mapIdx fun j v => (base + j, BitVec.ofNat 32 v)).filter (fun e => e.2 != 0) ++ above (base + 63) m) c.acc }

/-- The element of B that a row of A meets: of the command itself, or of the two halves of a pair (07 R196). -/
abbrev BGet := Nat → Nat → Nat

/-- A row of the result. -/
def multiplyRow (s : State) (k : Nat) (x : MtxCmd) (a : Nat → Nat) (b : BGet) (i : Nat) : List Nat :=
  let klen := opKlen x.a1
  let n := bitsOf x.a1 49 48
  let scale := (mulExact (decodeF fp32 x.sa.toNat) (decodeF fp32 x.sb.toNat)).1
  (List.range 64).map fun j =>
    let c := if x.a1.getLsbD 50 then 0 else accAt (getCore s k) n i j
    match mtxFmt x.code, mtxFmtB x.code with
    | some fa, some fb =>
      dotFp scale (mtxGroup x.code) (klen / mtxGroup x.code) c (fun t => decodeF fa (a t)) (fun t => decodeF fb (b t j))
    | _, _ => dotInt klen c a (fun t => b t j)

/-- The rows that a multiply computes with their B operand words (07 R195), or the status of a broken table. -/
def multiplyGroups (s : State) (k : Nat) (x : MtxCmd) : Except MtxFail (List (Nat × Nat × Word)) :=
  if x.a1.getLsbD 51 then
    match groupTable s k (opAddr x.b0) false (fun _ => reachB x.b1 (opKlen x.a1) (mtxElemB x.code)) with
    | none => .error (Status.grparg, 0, 0)
    | some gs => .ok (gs.map fun g => (g.1, g.2.1, g.2.2.1))
  else .ok [(0, 64, x.b0)]

/-- The first operand of KIND 1 that cannot be served; nothing is read where no row is computed (07 R195). -/
def operandsFail (s : State) (k : Nat) (x : MtxCmd) (gs : List (Nat × Nat × Word)) : Option MtxFail :=
  if gs.isEmpty then none
  else gs.foldl (fun a g => orFail a (viewError s k x g.2.2 (reachB x.b1 (rowsOfB x.a1) (mtxElemB x.code)) false))
    (viewError s k x x.a0 (if mtxIsQe x.code then 260 else reachA x.a1 (opKlen x.a1) (mtxElem x.code)) false)

/-- The result of a multiply: the rows of its accumulator, or why it fails. `bOf` gives the B of an operand word. Of several
failures the group table's comes first, then those of the operands, A before the Bs, then those of QE8 rows (log entry 93);
rows of A that no group covers are not read (log entry 94). -/
def multiplyResult (s : State) (k : Nat) (x : MtxCmd) (bOf : Word → BGet) : Except MtxFail (List (Nat × List Nat)) :=
  match multiplyGroups s k x with
  | .error st => .error st
  | .ok gs => match operandsFail s k x gs with
    | some r => .error r
    | none =>
      let rows := gs.flatMap fun g => (List.range g.2.1).map fun i => (g.1 + i, g.2.2)
      if mtxIsQe x.code then
        match qeRows s k x (rows.map (·.1)) with
        | .error st => .error st
        | .ok qs => .ok (rows.map fun r =>
            let es := fget [] qs r.1
            (r.1, multiplyRow s k x (fun t => es.getD t 0) (bOf r.2) r.1))
      else .ok (rows.map fun r => (r.1, multiplyRow s k x (fun t => elemA s k x (mtxElem x.code) r.1 t) (bOf r.2) r.1))

/-! ### histograms (07 R206) -/

/-- The bin of an encoding; `sat` marks a value that overflowed or saturated. -/
def binOf (f : Fmt) (base : BitVec 8) (sat : Bool) (bits : Nat) : Nat :=
  if sat then 62
  else match decodeF f bits with
    | .nan _ => 63
    | .inf _ => 62
    | .fin _ m e =>
      if m < 2 ^ (f.p - 1) then 0
      else
        let b := e + (f.p : Int) - 1 - base.toInt
        if b < 1 then 1 else if 61 < b then 61 else b.toNat

/-- Count one value in bin b of the histogram at an offset of a core's scratchpad, saturating. -/
def binOne (c : Core) (off b : Nat) : Core :=
  spmWrite c false (off + 4 * b) (leBytes 4 (min (leNat (spmRead c (off + 4 * b) 4) + 1) 0xFFFFFFFF))

/-- Add counts to the histogram at an offset of a core's scratchpad, saturating. -/
def binAll (c : Core) (off : Nat) (bins : List Nat) : Core :=
  (List.range 64).foldl (fun c b =>
    let n := (bins.filter (· == b)).length
    if n = 0 then c
    else spmWrite c false (off + 4 * b) (leBytes 4 (min (leNat (spmRead c (off + 4 * b) 4) + n) 0xFFFFFFFF))) c

/-! ### ma.ld and ma.st (07 R200, R201) -/

def areaFmt : Nat → Option Fmt
  | 0 => some fp16 | 1 => some bf16 | 3 => some e4m3 | 4 => some e5m2 | _ => none

/-- An element as the accumulator holds it. -/
def loadElem (fmt v : Nat) : Nat :=
  match areaFmt fmt with
  | some f => (roundVal fp32 Rm.rne 0 (decodeF f v)).1
  | none => v

/-- An element as the area holds it, and whether it overflowed or saturated. -/
def storeElem (fmt rm draw v : Nat) : Nat × Bool :=
  match areaFmt fmt with
  | none => (if fmt = 2 && (decodeF fp32 v).isNaN then canonicalNaN fp32 else v, false)
  | some f =>
    let r := roundVal f rm draw (decodeF fp32 v)
    (r.1, r.2 &&& Flag.of != 0 || (f.e4m3 && (decodeF fp32 v).isInf))

def binFmt (fmt : Nat) : Fmt := (areaFmt fmt).getD fp32

/-- Store rows of an accumulator, element by element: row r goes to row r - first of the area, and each element is
counted in the histogram, if there is one, after it is written (07 R201). -/
def storeRows (s : State) (k : Nat) (x : MtxCmd) (w : Word) (hist : Option Nat) (first rows : Nat) : State :=
  let fmt := bitsOf x.a1 18 16
  let n := fmtBytes fmt
  (List.range rows).foldl (fun s i =>
    (List.range 64).foldl (fun s j =>
      let r := first + i
      let v := accAt (getCore s k) (x.m % 4) r j
      let e := storeElem fmt x.rm (srDraw x.seed (lidOf k) x.ctx x.count (64 * r + j)) v
      let s := viewPut s k w (i * opRowp x.a1 + rotPos (opRot w) n i (n * j)) (leBytes n e.1)
      match hist with
      | some off => modCore s k fun c => binOne c off (binOf (binFmt fmt) x.qhbase e.2 e.1)
      | none => s) s) s

/-! ### the long accumulator (07 R202 to R205; 09 R227, R228) -/

/-- V as an integer, and the status. -/
def laGet (s : State) (k : Nat) (w : Word) : Int × Nat :=
  (signedOf 640 (viewGet s k w 0 80), viewGet s k w 80 8 % 16)
def laPut (s : State) (k : Nat) (w : Word) (v : Int) (st : Nat) : State :=
  viewPut s k w 0 (leBytes 80 (wrapTo 640 v) ++ leBytes 8 st)
/-- Wrap: OVF when the exact sum leaves the range. -/
def laWrap (v : Int) (st : Nat) : Int × Nat :=
  if v < -(2 ^ 639 : Int) ∨ (2 ^ 639 : Int) ≤ v then (signedOf 640 (wrapTo 640 v), st ||| 8) else (v, st)

/-- Add one value. -/
def laAdd1 (t : FVal) (a : Int × Nat) : Int × Nat :=
  match t with
  | .nan _ => (a.1, a.2 ||| 1)
  | .inf false => (a.1, a.2 ||| 2)
  | .inf true => (a.1, a.2 ||| 4)
  | .fin n m e =>
    let u : Int := (m * 2 ^ (e + 300).toNat : Nat)
    laWrap (a.1 + (if n then -u else u)) a.2

/-- The addends of la.fma and la.add, lane by lane. -/
def laTerms (x : MtxCmd) : List FVal :=
  let f := ftFmt x.m
  let w := ftBits x.m
  let a := x.va.headD 0
  (List.range (laneCount w)).filterMap fun i =>
    if x.mask.getLsbD i then
      some (match x.vb with
        | b :: _ => (mulExact (decodeF f (lane a w i)) (decodeF f (lane b w i))).1
        | [] => decodeF f (lane a w i))
    else none

/-- la.rnd's result (07 R204). -/
def laRound (f : Fmt) (rm draw : Nat) (v : Int) (st : Nat) : Nat :=
  if st % 2 = 1 ∨ 8 ≤ st ∨ st / 2 % 4 = 3 then canonicalNaN f
  else if st / 2 % 2 = 1 then infOf f false
  else if st / 4 % 2 = 1 then infOf f true
  else (roundTo f rm draw (decide (v < 0)) v.natAbs (-300) false).1

/-! ### one command -/

/-- A command that has failed: its error response is logged and its status is that of the failure. -/
def failWith (s : State) (k : Nat) (x : MtxCmd) (r : MtxFail) : State × Int := (logFail s k x r, r.1)

/-- Run a command unless it fails. -/
def unlessFail (s : State) (k : Nat) (x : MtxCmd) (bad : Option MtxFail) (run : State × Int) : State × Int :=
  match bad with
  | some r => failWith s k x r
  | none => run

/-- The effect of a command that is no multiply: the state after it and its status. -/
def runOther (s : State) (k : Nat) (x : MtxCmd) : State × Int :=
  let c := getCore s k
  let n := x.m % 4
  match x.code with
  | 16 => (setCore s k (setAccRows c n ((List.range 64).map fun i => (i, []))), 0)
  | 17 =>
    let fmt := bitsOf x.a1 18 16
    let e := fmtBytes fmt
    let row := fun (i : Nat) => (List.range 64).map fun j =>
      loadElem fmt (viewGet s k x.a0 (i * opRowp x.a1 + rotPos (opRot x.a0) e i (e * j)) e)
    unlessFail s k x (viewError s k x x.a0 (areaReach x.a1 e) false)
      (setCore s k (setAccRows c n ((List.range 64).map fun i => (i, row i))), 0)
  | 18 =>
    let e := fmtBytes (bitsOf x.a1 18 16)
    if x.a1.getLsbD 51 then
      match groupTable s k (opAddr x.a0) true (fun r => (r - 1) * opRowp x.a1 + 64 * e) with
      | none => (s, Status.grparg)
      | some gs =>
        unlessFail s k x
          (gs.foldl (fun a g => orFail a (viewError s k x g.2.2.1 ((g.2.1 - 1) * opRowp x.a1 + 64 * e) true)) none)
          (gs.foldl (fun s g =>
            storeRows s k x g.2.2.1 (if 2 ^ 31 ≤ g.2.2.2 then some (g.2.2.2 % 2 ^ 18) else none) g.1 g.2.1) s, 0)
    else
      unlessFail s k x (viewError s k x x.a0 (areaReach x.a1 e) true)
        (storeRows s k x x.a0 (if x.a1.getLsbD 19 then some (bitsOf x.a1 49 32) else none) 0 64, 0)
  | 19 =>
    (setCore s k (setAccRows c n ((List.range 64).map fun i => (i, (List.range 64).map fun j => accAt c (x.m / 4) i j))), 0)
  | 20 => (laPut s k x.a0 0 0, 0)
  | 21 => let a := (laTerms x).foldl (fun a t => laAdd1 t a) (laGet s k x.a0); (laPut s k x.a0 a.1 a.2, 0)
  | 22 => let a := (laTerms x).foldl (fun a t => laAdd1 t a) (laGet s k x.a0); (laPut s k x.a0 a.1 a.2, 0)
  | 23 =>
    let a := laGet s k x.a0
    unlessFail s k x (orFail (viewError s k x x.a0 88 false) (viewError s k x x.a1 (ftBytes x.m) true))
      (viewPut s k x.a1 0 (leBytes (ftBytes x.m)
        (laRound (ftFmt x.m) x.rm (srDraw x.seed (lidOf k) x.ctx x.count 0) a.1 a.2)), 0)
  | 24 =>
    let a := laGet s k x.a0
    let b := laGet s k x.b0
    let r := laWrap (a.1 + b.1) (a.2 ||| b.2)
    unlessFail s k x (viewError s k x x.b0 88 false) (laPut s k x.a0 r.1 r.2, 0)
  | 25 =>
    let w := ftBits x.m
    (setCore s k (binAll c (opAddr x.a0) ((lanes (x.va.headD 0) w).map (binOf (ftFmt x.m) x.qhbase false))), 0)
  | 26 => (viewPut s k x.a0 0 (List.replicate 256 0), 0)
  | _ =>
    let sums := (List.range 64).map fun b => min (viewGet s k x.a0 (4 * b) 4 + viewGet s k x.b0 (4 * b) 4) 0xFFFFFFFF
    unlessFail s k x (viewError s k x x.b0 256 false) (viewPut s k x.a0 0 (sums.flatMap (leBytes 4)), 0)

/-! ### the head of a queue -/

def headCmd (s : State) (k : Nat) : Option MtxCmd := (getCore s k).mq.head?
def modHead (s : State) (k : Nat) (f : MtxCmd → MtxCmd) : State :=
  modCore s k fun c => { c with mq := match c.mq with
    | x :: xs => f x :: xs
    | [] => [] }

/-- Grants that a command takes (07 R197). -/
def grantsOf (x : MtxCmd) : Nat := if x.code ≤ 9 then (opKlen x.a1 + 63) / 64 else 1

/-- The operands of KIND 1 that a command reads, with the bytes that it reaches. -/
def windowReads (s : State) (k : Nat) (x : MtxCmd) : List (Word × Nat) :=
  (if x.code ≤ 9 then
    (x.a0, if mtxIsQe x.code then 260 else reachA x.a1 (opKlen x.a1) (mtxElem x.code)) ::
      (match multiplyGroups s k x with
        | .ok gs => gs.map fun g => (g.2.2, reachB x.b1 (rowsOfB x.a1) (mtxElemB x.code))
        | .error _ => [])
  else if x.code = 17 then [(x.a0, areaReach x.a1 (fmtBytes (bitsOf x.a1 18 16)))]
  else if x.code = 23 then [(x.a0, 88)]
  else if x.code = 24 then [(x.b0, 88)]
  else if x.code = 27 then [(x.b0, 256)]
  else []).filter fun o => opKind o.1 == 1

/-- Those of them that saved images serve. -/
def imageReads (s : State) (k : Nat) (x : MtxCmd) : List (SavedRank × Nat × Nat) :=
  (windowReads s k x).filterMap fun o =>
    if (getCore s (targetOf k o.1)).launch == (getCore s k).launch then none
    else (savedOf s (targetOf k o.1) (getCore s k).launch).map fun r => (r, opOffset o.1, o.2)

/-- A home holds an image that the command reads for a commit (17 R338). -/
def imagesHeld (s : State) (k : Nat) (x : MtxCmd) : Bool :=
  (imageReads s k x).any fun o => heldForCommit s (o.1.base + 0x16000) o.1.spmBytes

/-- The same of the other half of a pair. -/
def partnerHeld (s : State) (x : MtxCmd) : Bool :=
  match x.pair with
  | some j => (match headCmd s j with
    | some y => imagesHeld s j y
    | none => false)
  | none => false

/-- A transaction that has written bytes of an image meets the command's read of them as that of any agent (16 R323). -/
def readImages (s : State) (k : Nat) (x : MtxCmd) : State :=
  (imageReads s k x).foldl (fun s o => (imageGet s k x.ctx o.1 (imageRemap s o.1) o.2.1 o.2.2).2) s

def paired (x : MtxCmd) : Bool := decide (x.code ≤ 9) && x.a1.getLsbD 52

/-- Eligible for a grant (11 R244). -/
def mtxEligible (s : State) (k : Nat) : Bool :=
  match headCmd s k with
  | none => false
  | some x => x.status.isNone && decide (x.step < grantsOf x) && !(paired x && x.pair.isNone) &&
      !(getCore s k).quarantined && !imagesHeld s k x && !partnerHeld s x &&
      !engineWaits s k x.order x.after false (mtxReads (getCore s k) x) (mtxWrites (getCore s k) x)

/-- The command has run with a status. -/
def finishHead (s : State) (k : Nat) (status : Int) : State :=
  modHead s k fun x => { x with status := some status, consumed := true }

/-- Write a multiply's result, or only its status. -/
def writeResult (s : State) (k : Nat) (x : MtxCmd) (r : Except MtxFail (List (Nat × List Nat))) : State :=
  match r with
  | .error e => finishHead (logFail s k x e) k e.1
  | .ok rows => finishHead (modCore s k fun c => setAccRows c (bitsOf x.a1 49 48) rows) k 0

/-- The error response of a half of a pair that fails. -/
def logResult (s : State) (k : Nat) (x : MtxCmd) (r : Except MtxFail (List (Nat × List Nat))) : State :=
  match r with
  | .error e => logFail s k x e
  | .ok _ => s

/-- A pair runs once both have had their grants: both results or PAIRFAIL for both (07 R196). -/
def finishPair (s : State) (k j : Nat) (x y : MtxCmd) : State :=
  let (lo, hi) := if k < j then ((k, x), (j, y)) else ((j, y), (k, x))
  let half := opKlen x.a1 / 2
  let b : BGet := fun r c =>
    if r < half then elemB (seenBy s lo.1 lo.2.bound) lo.1 lo.2 lo.2.b0 (mtxElemB x.code) r c
    else elemB (seenBy s hi.1 hi.2.bound) hi.1 hi.2 hi.2.b0 (mtxElemB x.code) (r - half) c
  match multiplyResult (seenBy s k x.bound) k x (fun _ => b), multiplyResult (seenBy s j y.bound) j y (fun _ => b) with
  | .ok rx, .ok ry => writeResult (writeResult s k x (.ok rx)) j y (.ok ry)
  | rx, ry => finishHead (finishHead (logResult (logResult s k x rx) j y ry) k Status.pairfail) j Status.pairfail

/-- The last unit of work of a head has been granted: its operands are read now, all at one moment, of the many that the spec
allows for the words of a KIND 1 stream (log entry 95). -/
def runHead (s : State) (k : Nat) (x : MtxCmd) : State :=
  let s := readImages s k x
  if 9 < x.code then
    let r := runOther s k x
    finishHead r.1 k r.2
  else match x.pair with
    | none =>
      let v := seenBy s k x.bound
      writeResult s k x (multiplyResult v k x fun w => elemB v k x w (mtxElemB x.code))
    | some j => match headCmd s j with
      | some y => if y.pair = some k ∧ y.step = grantsOf y ∧ y.status.isNone then finishPair (readImages s j y) k j x y else s
      | none => s

/-- The cores whose scratchpads a multiply reads. -/
def readTargets (s : State) (k : Nat) (x : MtxCmd) : List Nat :=
  let of := fun (w : Word) => if opKind w = 2 then [] else [targetOf k w]
  of x.a0 ++ (if x.a1.getLsbD 51 then [k] else []) ++
    (match multiplyGroups s k x with | .ok gs => gs.flatMap fun g => of g.2.2 | .error _ => [])

/-- With its first grant a multiply binds to the selectors of the cores that it reads (07 R183, 05 R150). -/
def beginReads (s : State) (k : Nat) (x : MtxCmd) : MtxCmd :=
  if x.step = 0 ∧ x.code ≤ 9 then
    { x with bound := (readTargets s k x).foldl (fun b t => bindTo b t (servingCore s k t)) x.bound }
  else x

/-- One unit of work for core k (07 R197). -/
def grantUnit (s : State) (k : Nat) : State :=
  match headCmd s k with
  | some x =>
    let y := beginReads s k x
    let x := { y with step := y.step + 1 }
    let s := modHead s k fun _ => x
    if x.step = grantsOf x then runHead s k x else s
  | none => s

/-! ### events -/

def mtxWeight (s : State) (k : Nat) : Nat := (getCore s k).qmxw.toNat

/-- The first core of an octet from PTR upward that passes a test. -/
def firstFrom (ptr : Nat) (t : Nat → Bool) : Option Nat := ((List.range 8).map fun i => (ptr + i) % 8).find? t

/-- MATRIX_GRANT: the arbiter of an octet takes a new weight into account and grants one unit of work (11 R244). -/
def execMatrixGrant (octet : Nat) (s : State) : Out :=
  let core := fun (c : Nat) => octet * 8 + c
  let a := fget {} s.arb octet
  let cr := fun (c : Nat) => min (a.credit.getD c 1) (mtxWeight s (core c))
  let el := fun (c : Nat) => mtxEligible s (core c)
  let grant := fun (c : Nat) (credit : Nat → Nat) =>
    let left := credit c - 1
    let a' : Arb := { ptr := if left = 0 then (c + 1) % 8 else c,
                      credit := (List.range 8).map fun i => if i = c then left else credit i }
    Host.Outcome.next (grantUnit { s with arb := fset s.arb octet a' } (core c))
  match firstFrom a.ptr fun c => el c && decide (0 < cr c) with
  | some c => grant c cr
  | none => match firstFrom a.ptr el with
    | some c => grant c fun i => mtxWeight s (core i)
    | none => .next { s with arb := fset s.arb octet { a with credit := (List.range 8).map cr } }

/-- The token of a command: with rd = x0 the status is discarded (03 R64). -/
def mtxToken (s : State) (k : Nat) (x : MtxCmd) (rd : Nat) (status : Int) : State :=
  if rd = 0 then s else fillToken s k x.ctx rd 0 x.orphan status

/-- MTX_COMPLETION: the head's token, and the operands-consumed token if it is still due (07 R181, R187). -/
def execMtxCompletion (core : Nat) (s : State) : Out :=
  match headCmd s core with
  | none => .next s
  | some x => match x.status with
    | none => .next s
    | some st =>
      if x.orphan && x.rd != 0 && st != 0 && !canRaise s core x.ctx then .next s
      else
      let s := modCore s core fun c => { c with mq := c.mq.drop 1 }
      let s := mtxToken s core x x.rd st
      let s := if x.code ≤ 9 && x.a1.getLsbD 56 && !x.told && !x.orphan then mtxToken s core x (x.rd + 1) st else s
      .next (raiseRetire (atPoint s core) core)

/-- OPERANDS_CONSUMED: a multiply with C = 1 has read A and B (07 R187). -/
def execOperandsConsumed (core : Nat) (s : State) : Out :=
  match headCmd s core with
  | none => .next s
  | some x =>
    if x.code ≤ 9 && x.a1.getLsbD 56 && x.consumed && !x.told && x.status == some 0 then
      let s := modHead s core fun x => { x with told := true }
      .next (if x.orphan then s else mtxToken s core x (x.rd + 1) 0)
    else .next s

/-- An unpaired command at the pairing point. -/
def atPairing (s : State) (k : Nat) : Option MtxCmd :=
  match headCmd s k with
  | some x => if paired x && x.pair.isNone && x.status.isNone && x.waitingSince.isSome then some x else none
  | none => none

/-- For how long the command of a core has been at the pairing point, in cycles of its island (20 R396). -/
def waitedFor (s : State) (k : Nat) (x : MtxCmd) : Nat := ownCycle s k - x.waitingSince.getD 0

/-- The command of a core had not waited past its window when another arrived, so long ago (07 R196). -/
def inWindow (s : State) (k : Nat) (x : MtxCmd) (ago : Nat) : Bool := decide (waitedFor s k x ≤ x.window + ago)

/-- Two commands may pair: of one launch and tag, from different octets of one cluster, each within the window of the other
(07 R196). -/
def mayPair (s : State) (k j : Nat) : Bool :=
  match atPairing s k, atPairing s j with
  | some x, some y => j != k && clusterOf j == clusterOf k && octetOf j != octetOf k &&
      (getCore s j).launch == (getCore s k).launch && bitsOf x.a1 55 53 == bitsOf y.a1 55 53 &&
      inWindow s k x (waitedFor s j y) && inWindow s j y (waitedFor s k x)
  | _, _ => false

/-- Of two candidates the one that arrived earlier; the lower core when they arrived together. -/
def earlierAt (s : State) (a b : Option Nat) : Option Nat :=
  match a, b with
  | some i, some j =>
    let t := fun (k : Nat) => match headCmd s k with | some x => waitedFor s k x | none => 0
    if t i < t j ∨ (t i = t j ∧ j < i) then some j else some i
  | none, b => b
  | a, none => a

/-- The earliest-arrived partner of a core's command. -/
def partnerOf (s : State) (k : Nat) : Option Nat :=
  ((s.cores.map (·.1)).filter (mayPair s k)).foldl (fun b j => earlierAt s b (some j)) none

/-- PAIRING: the command pairs with its earliest-arrived partner, whose own earliest-arrived partner it must be; a mismatch of c
or KLEN fails both (07 R196). -/
def execPairing (core : Nat) (s : State) : Out :=
  match partnerOf s core, atPairing s core with
  | some j, some x => match headCmd s j with
    | some y =>
      if partnerOf s j ≠ some core then .next s
      else if x.code ≠ y.code ∨ opKlen x.a1 ≠ opKlen y.a1 then
        .next (finishHead (finishHead s core Status.pairfail) j Status.pairfail)
      else .next (modHead (modHead s core fun x => { x with pair := some j }) j fun y => { y with pair := some core })
    | none => .next s
  | _, _ => .next s

/-- PAIRTIMEOUT: no partner has arrived within qpair.WINDOW cycles (07 R196). -/
def execPairtimeout (core : Nat) (s : State) : Out :=
  match atPairing s core with
  | some x =>
    if x.window ≤ waitedFor s core x ∧ partnerOf s core = none then .next (finishHead s core Status.pairtimeout) else .next s
  | none => .next s

end Sys2Proof.Machine
end

