-- ==== Sys2Proof/Machine/Touch.lean ====
section
/-! DEFINITION. How an engine reaches one byte: translation with the descriptors of issue, windows, migrating pages,
scratchpads, host windows (05 R143, R148; 14 R289, R298, R301; 19 R371, R374). -/
namespace Sys2Proof.Machine

/-! ### places -/

/-- Where a byte lies for an engine: in the scratchpad of a core, or in the image of that of its saved rank with number
`num`. -/
inductive Place where
  | own (off : Nat)
  | spm (core off : Nat)
  | image (core num off : Nat)
  | mem (pa : Nat)
  | host (pa : Nat)
  | wait
  | fault
  deriving DecidableEq, Repr

/-- Main memory, through the migration protocol: a MIGCHAIN or MIGSTALE walks the tables once more (19 R374). -/
def placeMain (s : State) (k n : Nat) (mode : Mode) (rgn : FMap Word) (va pa : Nat) (write whole : Bool) : Place × State :=
  match served s k n mode rgn va pa 1 (if write then .store else .load) whole with
  | (.wait, s) => (.wait, s)
  | (.error q r, s) => (.fault, logAccess s k n q 4 r)
  | (.at_ q, s) => if heldForCommit s q 1 then (.wait, s) else (.mem q, s)

/-- A byte of the image of a saved rank of core t, either version of which a home may hold for a commit (17 R338). -/
def placeImage (s : State) (t : Nat) (r : SavedRank) (off : Nat) : Place :=
  let at_ := fun shadow => r.base + 0x16000 + remapOff (imageRemap s r) shadow off
  if heldForCommit s (at_ false) 1 || heldForCommit s (at_ true) 1 then .wait else .image t r.num off

/-- A byte of the own scratchpad of the rank that a context belongs to: that of a saved rank is in its image. -/
def placeOwn (s : State) (k n off : Nat) : Place :=
  if n < 16 then .own off
  else match rankSaved (getCore s k) n with
    | some r => placeImage s k r off
    | none => .wait

/-- The place of a physical byte after the checks of an engine access. -/
def placePhys (s : State) (k n : Nat) (mode : Mode) (rgn : FMap Word) (va pa : Nat) (write whole : Bool) : Place × State :=
  match accessError (viewFor s k n) k mode pa 1 write whole with
  | some r => (.fault, logAccess s k n pa 4 r)
  | none =>
    if isMain pa then placeMain s k n mode rgn va pa write whole
    else if isSpm pa then
      let t := windowCore pa
      if (getCore s t).launch == launchAs s k n then (.spm t (windowByte pa), s)
      else match savedOf s t (launchAs s k n) with
        | some r => (placeImage s t r (windowByte pa), s)
        | none => (.fault, s)
    else (.host pa, s)

/-- The place of a virtual byte. -/
def placeOf (s : State) (k n : Nat) (mode : Mode) (rgn : FMap Word) (va : Nat) (write whole : Bool) : Place × State :=
  match translateWith s k n mode rgn va (if write then .store else .load) with
  | (.fault _, s) => (.fault, s)
  | (.wait, s) => (.wait, s)
  | (.spm off, s) => (placeOwn s k n off, s)
  | (.phys pa, s) => placePhys s k n mode rgn va pa write whole

/-- The view of its remap table that the image of a saved rank holds. -/
def imageView (s : State) (t num : Nat) : Core :=
  match rankSaved (getCore s t) (16 * num) with
  | some r => imageRemap s r
  | none => {}

/-- The bindings of a reader that reads a place: to the selectors of the core whose scratchpad it is, which a saved rank keeps in
its image (16 R322). -/
def placeBind (bound : FMap (List Bool)) (s : State) (k : Nat) : Place → FMap (List Bool)
  | .own _ => bindTo bound k (getCore s k)
  | .spm t _ => bindTo bound t (getCore s t)
  | .image t num _ => bindTo bound t (imageView s t num)
  | _ => bound

/-- A byte at a place, for a reader bound to selectors. -/
def placeRead (s : State) (k n : Nat) (bound : FMap (List Bool)) : Place → Byte × State
  | .own off => (spmByte (viewOf bound k (getCore s k)) off, s)
  | .spm t off => (spmByte (viewOf bound t (getCore s t)) off, s)
  | .image t num off => match rankSaved (getCore s t) (16 * num) with
    | some r => let x := imageGet s k n r (viewOf bound t (imageRemap s r)) off 1; (x.1.headD 0, x.2)
    | none => (0, s)
  | .mem pa => let r := agentRead s k n pa 1; (BitVec.ofNat 8 r.1, r.2)
  | _ => (0, s)

/-- Write a byte at a place; a shadow copy writes the unselected version. -/
def placeWrite (s : State) (k n : Nat) (shadow : Bool) (b : Byte) : Place → State
  | .own off => setCore s k (spmWrite (getCore s k) shadow off [b])
  | .spm t off => setCore s t (spmWrite (getCore s t) false off [b])
  | .image t num off => match rankSaved (getCore s t) (16 * num) with
    | some r => imagePut s k n r (imageRemap s r) off [b]
    | none => s
  | .mem pa => agentWrite s k n pa [b]
  | _ => s

/-- What stops an engine before a byte. -/
inductive Halt where
  | none
  | wait
  | fault
  | host (pa : Nat) (write : Bool)
  deriving DecidableEq, Repr

def haltOf (write : Bool) : Place → Halt
  | .host pa => .host pa write
  | .wait => .wait
  | .fault => .fault
  | _ => .none

/-! ### the hand-back area (12 R261) -/

/-- The hand-back slots in use of the rank of a context, and the base of its area. -/
def handBack (s : State) (k n : Nat) : List Nat × Nat :=
  let c := getCore s k
  if n < 16 then (c.slots, c.initSp.toNat)
  else match rankSaved c n with
    | some r => (r.slots, readLE s.mem (r.base + 0x58) 8)
    | none => ([], 0)

/-- The lowest free hand-back slot. -/
def freeSlot (used : List Nat) : Option Nat := (List.range 32).find? fun i => !used.contains i

/-- A request of an engine command of core k to a host window. -/
def engineToHost (s : State) (k : Nat) (cmd : Option (Nat × Nat)) (pa len : Nat) (write : Bool) (data : List Byte) : State :=
  toHost s { id := 0, pkg := pkgOf k, tenant := tenantOf (getCore s k), type := if write then 0x11 else 0x10,
             window := paOff pa / 2 ^ 38, offset := paOff pa % 2 ^ 38, len := len, data := data, cmd := cmd, seq := 0 }

/-- Write bytes at virtual addresses of context 0's space for U mode, byte by byte; what stops a byte that cannot be
written now, or at all. -/
def writeVirtual (s : State) (k n : Nat) (mode : Mode) : Nat → List Byte → Except Halt State
  | _, [] => .ok s
  | va, b :: bs =>
    match placeOf s k n mode (rgnAs s k n) va true false with
    | (p, s) => match haltOf true p with
      | .none => writeVirtual (placeWrite s k n false b p) k n mode (va + 1) bs
      | .host pa _ => writeVirtual (engineToHost s k none pa 1 true [b]) k n mode (va + 1) bs
      | h => .error h

/-- Words and match value of a remainder descriptor. -/
def remainderBytes (w1 w2 w3 : Word) (match_ : Nat) : List Byte :=
  leBytes 8 w1.toNat ++ leBytes 8 w2.toNat ++ leBytes 8 w3.toNat ++ leBytes 4 match_ ++ leBytes 4 0

/-- An engine fault of core k: the remainder goes to the lowest free slot and ENGFAULT is raised; none while no slot is
free, or the area's page is in handover or held for a commit. An area that cannot be written, or a core that has none (14
R295), is direct containment with ACCESSERR (12 R261); a saved rank's command is held until its restore (log entry 75). -/
def engineFault (s : State) (k n reg tag : Nat) (rem : List Byte) : Option State :=
  let area := handBack s k n
  match freeSlot area.1 with
  | none => none
  | some slot =>
    let va := area.2 + 32 * slot
    let lost := if n < 16 then some (containDirect s k n Cause.accesserr (BitVec.ofNat 64 va)) else none
    if area.2 = 0 then lost
    else match writeVirtual s k (n / 16 * 16) .u va rem with
      | .error .wait => none
      | .error _ => lost
      | .ok s =>
        let u : UpcallRec := { code := Cause.engfault, value := BitVec.ofNat 64 va, tag := tag, reg := reg, ctx := n % 16, slot := some slot }
        if n < 16 then some (raiseOn (modCore s k fun c => { c with slots := c.slots ++ [slot] }) k u)
        else some (raiseSaved (modCore s k fun c => c.modSaved n fun r => { r with slots := r.slots ++ [slot] }) k n u)

end Sys2Proof.Machine
end

