-- ==== Sys2Proof/Machine/EngineExec.lean ====
section
/-! DEFINITION. The copy engine, publish and the gather engine (05 R144 to R152, 11 R246, R247). -/
namespace Sys2Proof.Machine

/-! ### copies -/

def modCopy (s : State) (k id : Nat) (f : CopyCmd → CopyCmd) : State :=
  modCore s k fun c => { c with cq := c.cq.map fun x => if x.id == id then f x else x }
def dropCopy (s : State) (k id : Nat) : State := modCore s k fun c => { c with cq := c.cq.filter fun x => x.id != id }

/-- Source and destination addresses of the next byte. -/
def copySrc (x : CopyCmd) : Nat := (x.src + x.pos / x.rowBytes * x.spitch + x.pos % x.rowBytes) % 2 ^ 64
def copyDst (x : CopyCmd) : Nat := (x.dst + x.pos / x.rowBytes * x.dpitch + x.pos % x.rowBytes) % 2 ^ 64

/-- The row covers the whole line of the next destination byte. -/
def coversLine (x : CopyCmd) : Bool :=
  let col := x.pos % x.rowBytes
  let a := copyDst x % 64
  decide (a ≤ col) && decide (col - a + 64 ≤ x.rowBytes)

/-- The next source byte of a copy: one that it has read already, or the byte at its source, to whose core's selectors
the copy binds. -/
def copyByte (s : State) (x : CopyCmd) : (Halt × Byte) × State :=
  match x.hostData with
  | b :: _ => ((.none, b), s)
  | [] =>
    let r := if x.srcS then (Place.own (copySrc x), s) else placeOf s x.core x.ctx x.mode x.rgn (copySrc x) false false
    match r with
    | (.host pa, s) => ((.host pa false, 0), s)
    | (p, s) =>
      let bound := placeBind x.bound s x.core p
      let r := placeRead s x.core x.ctx bound p
      ((haltOf false p, r.1), modCopy r.2 x.core x.id fun y => { y with bound := bound })

/-- Move one byte of a copy: what halts it, or the byte is moved. A line that the copy has written whole is no longer
poisoned (12 R273). -/
def copyStep (s : State) (x : CopyCmd) : Halt × State :=
  match copyByte s x with
  | ((.none, b), s) =>
    let (p, s) := if x.dstS then (Place.own (copyDst x), s)
      else placeOf s x.core x.ctx x.mode x.rgn (copyDst x) true (coversLine x)
    match haltOf true p with
    | .none =>
      let s := placeWrite s x.core x.ctx x.shadow b p
      let s := match p with
        | .mem pa => if coversLine x && pa % 64 == 63 then unpoison s (pa - 63) 64 else s
        | _ => s
      (.none, modCopy s x.core x.id fun y => { y with pos := y.pos + 1, hostData := y.hostData.drop 1 })
    | h => (h, s)
  | ((h, _), s) => (h, s)

/-- Up to n bytes of the head copy of a core. -/
def copyRun (s : State) (k : Nat) : Nat → Halt × State
  | 0 => (.none, s)
  | n + 1 => match (getCore s k).cq.head? with
    | none => (.none, s)
    | some x =>
      if x.pos = copyTotal x then (.none, s)
      else match copyStep s x with
        | (.none, s) => copyRun s k n
        | r => r

/-- Bytes from the next destination byte to the end of its aligned word or of its row. -/
def copyWordRest (x : CopyCmd) : Nat := min (8 - copyDst x % 8) (x.rowBytes - x.pos % x.rowBytes)

/-- The head copy of a core writes one aligned word as one event (16 R311): a wait inside it leaves the whole word for
later, a fault leaves the bytes before it. The bytes that a host window has sent stay. -/
def copyWord (s : State) (k n : Nat) : Halt × State :=
  match copyRun s k n with
  | (.wait, _) => (.wait, s)
  | (.host pa false, _) => (.host pa false, s)
  | r => r

/-- Words of the head copy up to the end of its KiB. -/
def copyWords (s : State) (k : Nat) : Nat → Halt × State
  | 0 => (.none, s)
  | n + 1 => match (getCore s k).cq.head? with
    | none => (.none, s)
    | some x =>
      if x.goal ≤ x.pos then (.none, s)
      else match copyWord s k (copyWordRest x) with
        | (.none, s) => copyWords s k n
        | r => r

/-- Where the KiB that starts at the position of a copy ends: 1,024 destination bytes on, at the end of a word (11 R246,
16 R311; log entry 68). -/
def copyGoal (x : CopyCmd) : Nat :=
  let p := x.pos + 1024
  if copyTotal x ≤ p then copyTotal x else p - min (copyDst { x with pos := p } % 8) (p % x.rowBytes)

/-- The bytes of the source word that a copy has read in part. -/
def copySplit (x : CopyCmd) : Nat :=
  let a := copySrc x % 8
  let ahead := (copyDst x + 2 ^ 64 - copySrc x) % 2 ^ 64
  if x.pos % x.rowBytes = 0 ∨ a = 0 ∨ (x.srcS = x.dstS ∧ 1 ≤ ahead ∧ ahead ≤ 7) then 0
  else min (8 - a) (x.rowBytes - x.pos % x.rowBytes)

/-- The source bytes for a write to a host window, from the position of the copy: up to n, as far as they can be read now. -/
def copyAhead (s : State) (x : CopyCmd) : Nat → List Byte × State
  | 0 => ([], s)
  | n + 1 => match copyByte s x with
    | ((.none, b), s) =>
      let r := copyAhead s { x with pos := x.pos + 1, hostData := x.hostData.drop 1 } n
      (b :: r.1, r.2)
    | (_, s) => ([], s)

/-- A copy that stops inside a source word has read the whole word, but where it writes into that word itself (16
R311). -/
def copyCarry (s : State) (x : CopyCmd) : State :=
  if x.hostData.isEmpty then
    let r := copyAhead s x (copySplit x)
    if r.1.length = copySplit x then modCopy r.2 x.core x.id fun y => { y with hostData := r.1 } else s
  else s

/-- Bytes of a host access that start at an address of a copy, after the bytes it has read: to the end of the row and of
the 64-byte line. -/
def hostRun (s : State) (x : CopyCmd) (pa : Nat) (write : Bool) : Nat :=
  let at_ := if write then x.pos else x.pos + x.hostData.length
  let n := min (x.rowBytes - at_ % x.rowBytes) (64 - pa % 64)
  if (accessError s x.core x.mode pa n write false).isNone then n else 1

/-- The match value of a copy (05 R148). -/
def copyMatch (op : Nat) : Nat :=
  (wordOfInstr (match op with
    | 0 => .cpG2g 0 0 0 0 | 1 => .cp2d 0 0 0 0 | 2 => .cpG2s 0 0 0 0 | 3 => .cpS2g 0 0 0 0 | _ => .cpS2s 0 0 0 0)).toNat

/-- The remainder of a copy: advanced by its bytes, or for cp.2d by its complete rows (05 R148). -/
def copyRemainder (x : CopyCmd) : List Byte :=
  if x.op = 1 then
    let j := x.pos / x.rowBytes
    remainderBytes (x.w1 + BitVec.ofNat 64 (j * x.dpitch)) (x.w2 + BitVec.ofNat 64 (j * x.spitch))
      (putBits x.w3 48 16 (x.rows - j)) (copyMatch 1)
  else
    remainderBytes (x.w1 + BitVec.ofNat 64 x.pos) (x.w2 + BitVec.ofNat 64 x.pos) (putBits x.w3 0 24 (x.rowBytes - x.pos))
      (copyMatch x.op)

/-- Report a copy's fault: the token, the remainder and the upcall; while no slot is free or the queue is full the
engine holds the command (12 R259, R261). -/
def reportCopy (s : State) (x : CopyCmd) : State :=
  if !canRaise s x.core x.ctx then s
  else if x.orphan then raiseRetire (fillToken (dropCopy s x.core x.id) x.core x.ctx x.rd x.tag true Status.engfault) x.core
  else match engineFault (dropCopy s x.core x.id) x.core x.ctx x.rd x.tag (copyRemainder x) with
    | none => s
    | some s => fillToken s x.core x.ctx x.rd x.tag false Status.engfault

/-- A cp.pub issued earlier whose old readers are still reading holds a shadow copy into its entry (05 R150). -/
def shadowHeld (c : Core) (x : CopyCmd) : Bool :=
  x.shadow && c.pubs.any fun p => decide (p.order < x.order) &&
    (let e := fget {} c.remap p.entry; decide (e.log * 64 ≤ x.dst) && decide (x.dst < e.log * 64 + e.size * 64))

/-- A turn of a copy moves its bytes to the end of the KiB, or to where it halts. A write to a host window reads the source
word in which it ends as a whole, and the copy keeps the rest of it (16 R311). -/
def advanceCopy (s : State) (k : Nat) (x : CopyCmd) : State :=
  let s := modCopy s k x.id fun y => { y with
    started := true, goal := if y.goal ≤ y.pos then copyGoal y else y.goal,
    bound := if y.srcS then bindTo y.bound k (getCore s k) else y.bound }
  match copyWords s k 1024 with
  | (h, s) => match (getCore s k).cq.head? with
    | none => s
    | some x => match h with
      | .fault => reportCopy (modCopy s k x.id fun y => { y with failed := true }) { x with failed := true }
      | .host pa false =>
        engineToHost (modCopy s k x.id fun y => { y with hostWait := true }) k (some (k, x.id)) pa (hostRun s x pa false) false []
      | .host pa true =>
        let n := hostRun s x pa true
        let r := copyAhead s x (n + copySplit { x with pos := x.pos + n })
        engineToHost (modCopy r.2 k x.id fun y => { y with hostWait := true, hostData := r.1 }) k (some (k, x.id)) pa
          (min n r.1.length) true (r.1.take n)
      | _ => copyCarry s x

/-- The turn of core k's head copy. A cancelled one stops at the end of its KiB (05 R147); one that waits on the
scoreboard, or has no ranges yet, ends the turn. -/
def copyTurn (s : State) (k : Nat) (x : CopyCmd) : State :=
  if x.hostWait || x.pos == copyTotal x then s
  else if x.failed then reportCopy s x
  else if x.cancel && decide (x.goal ≤ x.pos) then
    if x.orphan && !canRaise s k x.ctx then s
    else raiseRetire (fillToken (dropCopy s k x.id) k x.ctx x.rd x.tag x.orphan Status.cancelled) k
  else if !x.ranged || engineWaits s k x.order x.after x.shadow (copyReads x) (copyWrites x) || shadowHeld (getCore s k) x then s
  else advanceCopy s k x

/-- A migration of a core of the octet has blocks to move, which go ahead of every FIFO (19 R367). -/
def migrating (s : State) (octet : Nat) : Bool := s.pages.any fun p => p.core / 8 == octet && (p.st == .eft || p.st == .eftHold)

/-- COPY_ENGINE_TURN: the next core of the octet after the one served last with a command (11 R246). -/
def execCopyEngineTurn (octet : Nat) (s : State) : Out :=
  let last := fget 7 s.copyLast octet
  if migrating s octet then .next s
  else match ((List.range 8).map fun i => octet * 8 + (last + 1 + i) % 8).find? fun k => !(getCore s k).cq.isEmpty with
  | none => .next s
  | some k =>
    let s := modCore s k fun c => takeRanges c c.cq
    match (getCore s k).cq.head? with
    | none => .next s
    | some x => .next (copyTurn { s with copyLast := fset s.copyLast octet (k % 8) } k x)

/-- COPY_COMPLETION: every byte is written; the token is a release at the copy's scope (05 R144), and CANCELLED where a
cancel reached the copy before its end (05 R147). -/
def execCopyCompletion (core : Nat) (s : State) : Out :=
  match (getCore s core).cq.head? with
  | none => .next s
  | some x =>
    if copyOver x && !(x.cancel && x.orphan && !canRaise s core x.ctx) then
      .next (raiseRetire (fillToken (dropCopy s core x.id) core x.ctx x.rd x.tag x.orphan
        (if x.cancel then Status.cancelled else 0)) core)
    else .next s

/-! ### publish (05 R150) -/

/-- A range of offsets meets the logical range of an entry. -/
def meetsEntry (e : Remap) (r : Nat × Nat) : Bool := overlaps (e.log * 64, e.size * 64) r

/-- An operand of a multiply names the issuer's scratchpad through its window (07 R183). -/
def readsOwnWindow (k : Nat) (x : MtxCmd) : Bool :=
  (opKind x.a0 == 1 && targetOf k x.a0 == k) || x.a1.getLsbD 51 || (opKind x.b0 == 1 && targetOf k x.b0 == k)

/-- The bindings to core k of readers that have begun to read entry i of its table and have not consumed it (05 R150):
copies, gathers and matrix commands of the core, loads of more than one lane, and readers through the window, whose ranges
the core does not know. -/
def readersOf (s : State) (k i : Nat) : List (List Bool) :=
  let c := getCore s k
  let e := fget {} c.remap i
  let mine := fun (b : FMap (List Bool)) => if fhas b k then [fget [] b k] else []
  ((c.cq.filter fun x => x.started && (copyReads x).any (meetsEntry e)).flatMap fun x => mine x.bound) ++
  (((ownGathers c).filter fun g => g.status.isNone && (gatherReads g).any (meetsEntry e)).flatMap fun g => mine g.bound) ++
  ((c.mq.filter fun x => x.status.isNone && !x.consumed && ((mtxReads c x).any (meetsEntry e) || readsOwnWindow k x)).flatMap fun x => mine x.bound) ++
  (s.cores.flatMap fun o => if o.1 == k then [] else
    (o.2.cq.flatMap fun x => mine x.bound) ++ ((o.2.gq.filter fun g => g.status.isNone).flatMap fun g => mine g.bound) ++
    ((o.2.mq.filter fun x => x.status.isNone && !x.consumed).flatMap fun x => mine x.bound)) ++
  ((s.reqs.filter fun r => !reqDone r && r.parts.any fun p => !p.done && (if p.own then r.core == k && meetsEntry e (p.pa, p.n)
    else isSpm p.pa && windowCore p.pa == k && meetsEntry e (windowByte p.pa, p.n))).flatMap fun r => mine r.bound)

/-- A publish's earlier shadow copies into the entry. -/
def shadowBefore (c : Core) (p : PubCmd) : Bool :=
  c.cq.any fun x => x.shadow && decide (x.order < p.order) && (copyWrites x).any (meetsEntry (fget {} c.remap p.entry))

def setRemap (s : State) (k i : Nat) (e : Remap) : State := modCore s k fun c => { c with remap := fset c.remap i e }

/-- The command ends and its token is 0. -/
def endPub (s : State) (k : Nat) (p : PubCmd) : State :=
  fillToken (modCore s k fun c => { c with pubs := c.pubs.filter fun q => q.id != p.id }) k p.ctx p.rd 0 p.orphan 0

/-- One action of a cp.pub, if it can act. -/
def pubAct (s : State) (k : Nat) (p : PubCmd) : Option State :=
  let c := getCore s k
  let e := fget {} c.remap p.entry
  if p.op = 0 then
    if p.flipped then
      if (readersOf s k p.entry).any (fun b => b.getD p.entry e.sel != e.sel) then none else some (endPub s k p)
    else if shadowBefore c p || !followed s k p.after then none
    else
      let s := setRemap s k p.entry { e with sel := !e.sel }
      some (modCore s k fun c => { c with pubs := c.pubs.map fun q => if q.id == p.id then { q with flipped := true } else q })
  else if !(readersOf s k p.entry).isEmpty || !followed s k p.after then none
  else
    let e' : Remap := if p.op = 1 then { valid := true, sel := false, log := p.log, twin := p.twin, size := p.size } else {}
    some (endPub (setRemap s k p.entry e') k p)

/-- The first command of a list that can act, with none before it on the same entry. -/
def firstPub (s : State) (k : Nat) : List Nat → List PubCmd → State
  | _, [] => s
  | busy, p :: ps =>
    if busy.contains p.entry then firstPub s k busy ps
    else match pubAct s k p with
      | some s => s
      | none => firstPub s k (p.entry :: busy) ps

/-- PUBLISH_FLIP -/
def execPublishFlip (core : Nat) (s : State) : Out := .next (firstPub s core [] (getCore s core).pubs)

/-! ### gather and scatter (05 R152, 11 R247) -/

def modGather (s : State) (k id : Nat) (f : GatherCmd → GatherCmd) : State :=
  modCore s k fun c => { c with gq := c.gq.map fun x => if x.id == id then f x else x }

def gatherTotal (g : GatherCmd) : Nat := g.count * g.esz

/-- Index i of a command, in the scratchpad of its rank. -/
def gatherIndex (s : State) (k : Nat) (g : GatherCmd) (i : Nat) : Nat :=
  leNat ((List.range 4).map fun j => (placeRead s k g.ctx g.bound (placeOwn s k g.ctx (g.idx + 4 * i + j))).1)

/-- The table's virtual address of a byte position, and its scratchpad offset. -/
def gatherVa (s : State) (k : Nat) (g : GatherCmd) (pos : Nat) : Nat :=
  (g.table.toNat + gatherIndex s k g (pos / g.esz) * g.stride + pos % g.esz) % 2 ^ 64
def gatherOff (g : GatherCmd) (pos : Nat) : Nat := g.buf + pos

def findGather (s : State) (k id : Nat) : Option GatherCmd := (getCore s k).gq.find? fun g => g.id == id

/-- The next source byte of a gather command: one that it has read already, or the byte at its source. -/
def gatherByte (s : State) (k : Nat) (g : GatherCmd) : (Halt × Byte) × State :=
  match g.hostData with
  | b :: _ => ((.none, b), s)
  | [] =>
    let r := if g.scatter then (placeOwn s k g.ctx (gatherOff g g.pos), s)
      else placeOf s k g.ctx g.mode g.rgn (gatherVa s k g g.pos) false false
    match r with
    | (.host pa, s) => ((.host pa false, 0), s)
    | (p, s) =>
      let bound := placeBind g.bound s k p
      let r := placeRead s k g.ctx bound p
      ((haltOf false p, r.1), modGather r.2 k g.id fun y => { y with bound := bound })

/-- Move one byte. -/
def gatherStep (s : State) (k : Nat) (g : GatherCmd) : Halt × State :=
  match gatherByte s k g with
  | ((.none, b), s) =>
    let r := if g.scatter then placeOf s k g.ctx g.mode g.rgn (gatherVa s k g g.pos) true false
      else (placeOwn s k g.ctx (gatherOff g g.pos), s)
    match haltOf true r.1 with
    | .none => (.none, modGather (placeWrite r.2 k g.ctx false b r.1) k g.id fun y =>
        { y with pos := y.pos + 1, hostData := y.hostData.drop 1 })
    | h => (h, r.2)
  | ((h, _), s) => (h, s)

/-- Up to n bytes of a gather command. -/
def gatherRun (s : State) (k id : Nat) : Nat → Halt × State
  | 0 => (.none, s)
  | n + 1 => match findGather s k id with
    | none => (.none, s)
    | some g =>
      if g.pos = gatherTotal g then (.none, s)
      else match gatherStep s k g with
        | (.none, s) => gatherRun s k id n
        | r => r

/-- Bytes from the next destination byte to the end of its aligned word or of its element. -/
def gatherWordRest (s : State) (k : Nat) (g : GatherCmd) : Nat :=
  let a := if g.scatter then gatherVa s k g g.pos else gatherOff g g.pos
  min (8 - a % 8) (g.esz - g.pos % g.esz)

/-- Words of a gather command, each one event (16 R311), up to a position. -/
def gatherWords (s : State) (k id goal : Nat) : Nat → Halt × State
  | 0 => (.none, s)
  | n + 1 => match findGather s k id with
    | none => (.none, s)
    | some g =>
      if g.pos = gatherTotal g ∨ goal < g.pos + gatherWordRest s k g then (.none, s)
      else match gatherRun s k id (gatherWordRest s k g) with
        | (.none, s) => gatherWords s k id goal n
        | (.wait, _) => (.wait, s)
        | (.host pa false, _) => (.host pa false, s)
        | r => r

/-- Up to n source bytes of a gather command, as far as they can be read now. -/
def gatherAhead (s : State) (k : Nat) (g : GatherCmd) : Nat → List Byte × State
  | 0 => ([], s)
  | n + 1 => match gatherByte s k g with
    | ((.none, b), s) =>
      let r := gatherAhead s k { g with pos := g.pos + 1, hostData := g.hostData.drop 1 } n
      (b :: r.1, r.2)
    | (_, s) => ([], s)

/-- The bytes of the source word that a command has read in part at a position. -/
def gatherSplit (s : State) (k : Nat) (g : GatherCmd) (pos : Nat) : Nat :=
  let a := (if g.scatter then gatherOff g pos else gatherVa s k g pos) % 8
  if pos % g.esz = 0 ∨ a = 0 then 0 else min (8 - a) (g.esz - pos % g.esz)

/-- A command that stops inside a source word has read the whole word (16 R311). -/
def gatherCarry (s : State) (k : Nat) (g : GatherCmd) : State :=
  if g.hostData.isEmpty then
    let r := gatherAhead s k g (gatherSplit s k g g.pos)
    if r.1.length = gatherSplit s k g g.pos then modGather r.2 k g.id fun y => { y with hostData := r.1 } else s
  else s

/-- Match values of gth and sct. -/
def gatherMatch (scatter : Bool) : Nat := (wordOfInstr (if scatter then .sct 0 0 0 else .gth 0 0 0)).toNat

/-- The descriptor with IDX, BUF and COUNT advanced by whole elements. -/
def advancedDescriptor (g : GatherCmd) : List Byte :=
  let i := g.pos / g.esz
  leBytes 4 (g.idx + 4 * i) ++ leBytes 4 (g.buf + i * g.esz) ++ leBytes 4 (g.count - i) ++ leBytes 2 g.esz ++ leBytes 2 0 ++
    leBytes 8 g.stride ++ leBytes 8 0

/-- Report a faulting element: the command ends with ENGFAULT, the advanced descriptor is written over the original one
(log entry 16), and its remainder names it (05 R152). The token waits for the end of the phase. -/
def reportGather (s : State) (k : Nat) (g : GatherCmd) : State :=
  if !canRaise s k g.ctx then s
  else if g.orphan then modGather s k g.id fun y => { y with status := some Status.engfault }
  else
    let rem := remainderBytes g.table (BitVec.ofNat 64 g.descOff) 0 (gatherMatch g.scatter)
    match engineFault s k g.ctx g.rd 0 rem with
    | none => s
    | some s =>
      let bs := advancedDescriptor g
      let s := (List.range bs.length).foldl (fun s i => placeWrite s k g.ctx false ((bs[i]?).getD 0) (placeOwn s k g.ctx (g.descOff + i))) s
      modGather s k g.id fun y => { y with status := some Status.engfault }

/-- The turn of one gather command. -/
def gatherTurn (s : State) (k : Nat) (g : GatherCmd) : State :=
  if g.failed then reportGather s k g
  else
    let own := if g.ctx < 16 then getCore s k else imageView s k (g.ctx / 16)
    let s := modGather s k g.id fun y => { y with bound := bindTo y.bound k own }
    match gatherWords s k g.id (g.pos + 1024) 1024 with
    | (h, s) => match findGather s k g.id with
      | none => s
      | some g =>
        if g.pos = gatherTotal g then modGather s k g.id fun y => { y with status := some 0 }
        else match h with
          | .fault => reportGather (modGather s k g.id fun y => { y with failed := true }) k { g with failed := true }
          | .host pa w =>
            let at_ := if w then g.pos else g.pos + g.hostData.length
            let n := min (g.esz - at_ % g.esz) (8 - pa % 8)
            let r := if w then gatherAhead s k g (n + gatherSplit s k g (g.pos + n)) else (g.hostData, s)
            engineToHost (modGather r.2 k g.id fun y => { y with hostWait := true, hostData := r.1 }) k (some (k, g.id)) pa
              (if w then min n r.1.length else n) w (if w then r.1.take n else [])
          | _ => gatherCarry s k g

/-- A command of a saved rank waits for the earlier ones of the rank, for the acquires before it, and while a home holds its
image for a commit (17 R338). -/
def savedGatherWaits (s : State) (k : Nat) (g : GatherCmd) : Bool :=
  !followed s k g.after ||
  (match rankSaved (getCore s k) g.ctx with
    | some r => imageHeld s k g.ctx || heldForCommit s (r.base + 0x16000) r.spmBytes
    | none => true) ||
  (getCore s k).gq.any fun x => x.ctx / 16 == g.ctx / 16 && decide (x.order < g.order) && x.status.isNone &&
    (anyOverlap (gatherWrites x) (gatherReads g ++ gatherWrites g) || anyOverlap (gatherReads x) (gatherWrites g))

/-- A command that the engine may advance now. -/
def gatherReady (s : State) (k : Nat) (g : GatherCmd) : Bool :=
  !g.hostWait && !(if g.ctx < 16 then engineWaits s k g.order g.after false (gatherReads g) (gatherWrites g) else savedGatherWaits s k g)

/-- The command of a core that the engine serves next for a domain: its first in issue order that is not done (11
R247). -/
def gatherHead (c : Core) (dom : Nat) : Option GatherCmd := c.gq.find? fun g => g.dom == dom && g.active && g.status.isNone

/-- The commands that a cluster's engine may advance for a domain, cores ascending. -/
def gathersFor (s : State) (cluster dom : Nat) : List (Nat × GatherCmd) :=
  (s.cores.filter fun e => clusterOf e.1 == cluster).filterMap fun e => match gatherHead e.2 dom with
    | some g => if gatherReady s e.1 g then some (e.1, g) else none
    | none => none

/-- The core of a domain's rank 0. -/
def firstMember (d : Dom) : Nat := d.members.headD 0

/-- GATHER_ENGINE_TURN: the next domain in an exchange phase, ascending by its first core, and one command of it. -/
def execGatherEngineTurn (cluster : Nat) (s : State) : Out :=
  let ds := sortBy (fun a b => decide (firstMember a ≤ firstMember b))
    (s.doms.filter fun d => d.t0.isSome && !(gathersFor s cluster d.id).isEmpty)
  let last := fget 0 s.gatherLast cluster
  let pick := match ds.find? fun d => decide (last < firstMember d + 1) with
    | some d => some d
    | none => ds.head?
  match pick with
  | none => .next s
  | some d => match (gathersFor s cluster d.id).head? with
    | none => .next s
    | some (k, g) =>
      let s := wakeCluster s (cluster / 16) (cluster % 16)
      .next (tryComplete (gatherTurn { s with gatherLast := fset s.gatherLast cluster (firstMember d + 1) } k g) d.id)

end Sys2Proof.Machine
end

