-- ==== Sys2Proof/Machine/Image.lean ====
section
/-! DEFINITION. Context records and images (12 R269), and the completion of ctx.save and ctx.load (04 R93 to R95). -/
namespace Sys2Proof.Machine

/-! ### the record -/

/-- WAIT and ST of a context (12 R269): parked contexts, and waits that issue again, are live at their PC. The wait
that an upcall interrupted is kept in WAIT of a live context 0 (12 R258). -/
def waitWord (w : Wait) : Nat :=
  match w with
  | .barrier _ level (some p) _ _ => 2 ^ 60 + level % 4 * 2 ^ 58 + p % 2 ^ 32
  | .word _ _ deadline _ => 2 ^ 61 + deadline % 2 ^ 60
  | _ => 0

def stOf (c : Context) : Nat × Nat :=
  match c.st with
  | .free => (0, 0)
  | .reserved => (0, 0)
  | .held _ => (3, 0)
  | .waiting w => if waitWord w = 0 then (1, 0) else (2, waitWord w)
  | _ => (1, match c.keptWait with | some w => waitWord w | none => 0)

def stateWord (c : Context) : Nat :=
  (stOf c).1 * 2 ^ 61 + c.mode.code * 2 ^ 59 + c.regs.qrm.toNat * 2 ^ 56 + c.regs.frm.toNat * 2 ^ 53 +
    c.regs.fflags.toNat * 2 ^ 48 + c.regs.vpres.toNat * 2 ^ 32 + c.regs.xpres.toNat / 2 * 2

def miscWord (c : Context) : Nat :=
  (c.scause.getLsbD 63).toNat * 2 ^ 63 + bitsOf c.scause 15 0 * 2 ^ 40 + c.qhbase.toNat * 2 ^ 32 +
    bitsOf (sstatusRead c) 31 0

/-- The 1,536 bytes of a context record. -/
def recordBytes (c : Context) : List Byte :=
  let g := c.regs
  leBytes 8 (stOf c).2 ++
  ((List.range 31).flatMap fun i => leBytes 8 (readX g (i + 1)).toNat) ++
  ((List.range 32).flatMap fun i => leBytes 4 (readF g i).toNat) ++
  ((List.range 8).flatMap fun i => leBytes 8 (readK g i).toNat) ++
  ((List.range 16).flatMap fun i => leBytes 64 (readV g i).toNat) ++
  leBytes 8 g.pc.toNat ++ leBytes 8 (stateWord c) ++ leBytes 8 c.qsrseed.toNat ++ leBytes 8 g.qsrctr.toNat ++
  leBytes 8 (miscWord c) ++ leBytes 8 c.sepc.toNat ++ leBytes 8 c.stval.toNat ++ leBytes 8 c.sscratch.toNat

/-- n bytes at an offset of a record. -/
def fieldOf (bs : List Byte) (off n : Nat) : Nat := leNat ((bs.drop off).take n)

def regsOfRecord (bs : List Byte) : Regs :=
  let st := fieldOf bs 0x5C8 8
  { x := (List.range 31).map fun i => (i + 1, BitVec.ofNat 64 (fieldOf bs (8 + 8 * i) 8)),
    xpres := BitVec.ofNat 32 (st / 2 * 2 + 1),
    f := (List.range 32).map fun i => (i, BitVec.ofNat 32 (fieldOf bs (0x100 + 4 * i) 4)),
    v := (List.range 16).map fun i => (i, BitVec.ofNat 512 (fieldOf bs (0x1C0 + 64 * i) 64)),
    vpres := BitVec.ofNat 16 (st / 2 ^ 32),
    k := (List.range 8).map fun i => (i, BitVec.ofNat 64 (fieldOf bs (0x180 + 8 * i) 8)),
    fflags := BitVec.ofNat 5 (st / 2 ^ 48), frm := BitVec.ofNat 3 (st / 2 ^ 53), qrm := BitVec.ofNat 3 (st / 2 ^ 56),
    qsrctr := BitVec.ofNat 64 (fieldOf bs 0x5D8 8), pc := epcOf (BitVec.ofNat 64 (fieldOf bs 0x5C0 8)) }

def recordMode (bs : List Byte) : Nat := fieldOf bs 0x5C8 8 / 2 ^ 59 % 4

/-- A live context from a record; what a record does not hold comes from `old`. -/
def contextOfRecord (old : Context) (bs : List Byte) : Context :=
  let misc := BitVec.ofNat 64 (fieldOf bs 0x5E0 8)
  { old with
    regs := regsOfRecord bs, qsrseed := BitVec.ofNat 64 (fieldOf bs 0x5D0 8), qhbase := BitVec.ofNat 8 (bitsOf misc 39 32),
    mode := Mode.ofCode (recordMode bs), mstatus := sstatusWrite old.mstatus (BitVec.ofNat 64 (bitsOf misc 31 0)),
    sepc := BitVec.ofNat 64 (fieldOf bs 0x5E8 8), scause := putBit (BitVec.ofNat 64 (bitsOf misc 55 40)) 63 (misc.getLsbD 63),
    stval := BitVec.ofNat 64 (fieldOf bs 0x5F0 8), sscratch := BitVec.ofNat 64 (fieldOf bs 0x5F8 8), st := .live }

/-! ### waits from a record -/

/-- The instruction at a context's PC: it says what the wait of a record is for. -/
def instrAt (s : State) (k n : Nat) (c : Context) (pc : Word) : Option Instr :=
  match (translateWith s k n c.mode (getCore s k).qrgn pc.toNat .fetch).1 with
  | .phys pa => if isMain pa then some (decodeOrIllegal (BitVec.ofNat 32 (readLE s.mem pa 4))) else none
  | _ => none

/-- The register and reason of a barrier wait. -/
def barrierAt (s : State) (k n : Nat) (c : Context) (pc : Word) : Nat × BarWhy :=
  match instrAt s k n c pc with
  | some (.barAwt rd) => (rd.toNat, .awt)
  | some (.xchBeg rs1) =>
    let w := readX c.regs rs1.toNat
    (0, .xchBeg (bitsOf w 17 0) (bitsOf w 31 18))
  | some .xchEnd => (0, .xchEnd)
  | _ => (0, .awt)

/-- The location of a virtual address that a wait watches. -/
def watchedAt (s : State) (k n : Nat) (c : Context) (va : Nat) : Option Nat :=
  match (translateWith s k n c.mode (getCore s k).qrgn va .load).1 with
  | .phys pa => some pa
  | .spm off => some (ownWord + off)
  | _ => none

/-- The wait that a record holds; none where its instruction simply issues again. -/
def waitOfRecord (s : State) (k n : Nat) (c : Context) (pc : Word) (w : Nat) : Option Wait :=
  if w / 2 ^ 60 = 1 then
    let level := w / 2 ^ 58 % 4
    let dom := match levelAt (getCore s k) level with | some l => l.dom | none => 0
    let b := barrierAt s k n c pc
    some (.barrier dom level (some (w % 2 ^ 32)) b.1 b.2)
  else if w / 2 ^ 60 = 2 then
    match instrAt s k n c pc with
    | some (.gwait rd rs1 rs2 _) =>
      let va := readX c.regs rs1.toNat
      match watchedAt s k n c va.toNat with
      | some at_ => some (.word { loc := at_, named := at_, va := va.toNat, order := s.nextId } (readX c.regs rs2.toNat).toNat (w % 2 ^ 60) rd.toNat)
      | none => none
    | _ => none
  else none

/-- Resume a wait; a phase that has completed meanwhile ends it at once (04 R103). -/
def resumeRecord (s : State) (k n : Nat) (c : Context) (w : Nat) : Context :=
  match waitOfRecord s k n c c.regs.pc w with
  | some (.barrier d level (some p) rd why) =>
    match levelAt (getCore s k) level with
    | some l => if phaseOver l p then waitOver c rd p why else if domBroken s d then c else { c with st := .waiting (.barrier d level (some p) rd why) }
    | none => { c with st := .waiting (.barrier d level (some p) rd why) }
  | some w => { c with st := .waiting w }
  | none => c

/-! ### the lines of an image -/

def placePut (s : State) (k n : Nat) (bs : List Byte) : Place → State
  | .own off => setCore s k (spmWrite (getCore s k) false off bs)
  | .spm t off => setCore s t (spmWrite (getCore s t) false off bs)
  | .image t num off => match rankSaved (getCore s t) (16 * num) with
    | some r => imagePut s k n r (imageRemap s r) off bs
    | none => s
  | .mem pa => agentWrite s k n pa bs
  | _ => s

def placeGet (s : State) (k n len : Nat) : Place → List Byte × State
  | .own off => (spmRead (getCore s k) off len, s)
  | .spm t off => (spmRead (getCore s t) off len, s)
  | .image t num off => match rankSaved (getCore s t) (16 * num) with
    | some r => imageGet s k n r (imageRemap s r) off len
    | none => ([], s)
  | .mem pa => let r := agentRead s k n pa len; (leBytes len r.1, r.2)
  | _ => ([], s)

/-- The first translation fault among the lines of an image. -/
def imageFault (s : State) (k : Nat) (op : CtxOp) (acc : Acc) : Option Nat :=
  (List.range 24).findSome? fun i =>
    match (translateWith s k op.issuer op.mode (getCore s k).qrgn (op.va.toNat + 64 * i) acc).1 with
    | .fault code => some code
    | _ => none

def modCtxOp (s : State) (k id : Nat) (f : CtxOp → CtxOp) : State :=
  modCore s k fun c => { c with ctxops := c.ctxops.map fun o => if o.id == id then f o else o }

/-- The operation is over: its token receives the status. -/
def endCtxOp (s : State) (k : Nat) (op : CtxOp) (status : Int) : State :=
  fillToken (modCore s k fun c => { c with ctxops := c.ctxops.filter fun o => o.id != op.id }) k op.issuer op.rd 0 op.orphan status

/-- What stopped a run over the lines of an image. -/
inductive LineEnd where
  | all
  | wait
  | error
  deriving DecidableEq, Repr

/-- Write the lines of an image from line op.pos on. -/
def putLines (s : State) (k : Nat) (op : CtxOp) (bs : List Byte) : Nat → LineEnd × State
  | 0 => (.all, s)
  | m + 1 =>
    let i := 23 - m
    if i < op.pos then putLines s k op bs m
    else match placeOf s k op.issuer op.mode (getCore s k).qrgn (op.va.toNat + 64 * i) true false with
      | (.wait, s) => (.wait, s)
      | (.fault, s) => (.error, s)
      | (.host pa, s) =>
        (.wait, engineToHost (modCtxOp s k op.id fun o => { o with hostWait := true, pos := i }) k (some (k, op.id)) pa 64 true
          ((bs.drop (64 * i)).take 64))
      | (p, s) => putLines (placePut s k op.issuer ((bs.drop (64 * i)).take 64) p) k op bs m

/-- Read the lines of an image from line op.pos on, after the bytes already read. -/
def getLines (s : State) (k : Nat) (op : CtxOp) (got : List Byte) : Nat → LineEnd × List Byte × State
  | 0 => (.all, got, s)
  | m + 1 =>
    let i := 23 - m
    if i < op.pos then getLines s k op got m
    else match placeOf s k op.issuer op.mode (getCore s k).qrgn (op.va.toNat + 64 * i) false false with
      | (.wait, s) => (.wait, got, modCtxOp s k op.id fun o => { o with pos := i, data := got })
      | (.fault, s) => (.error, got, s)
      | (.host pa, s) =>
        (.wait, got, engineToHost (modCtxOp s k op.id fun o => { o with hostWait := true, pos := i, data := got }) k (some (k, op.id)) pa 64 false [])
      | (p, s) =>
        let r := placeGet s k op.issuer 64 p
        getLines r.2 k op (got ++ r.1) m

/-! ### completion -/

/-- The barrier wait of a context whose phase is known, or no barrier wait; with the register it leaves pending. -/
def barrierSettled (c : Context) : Bool × Nat :=
  match c.st with
  | .waiting (.barrier _ _ (some _) rd .awt) => (true, rd)
  | .waiting (.barrier _ _ none _ _) => (false, 0)
  | _ => (true, 0)

/-- Every reply to the context's own requests has arrived, the tokens of its commands among them (04 R94; log entry
17). -/
def repliesIn (s : State) (k n : Nat) : Bool :=
  let c := getCtx s k n
  let b := barrierSettled c
  (openReqs s k n).isEmpty && !nputOpen s k n && !((getCore s k).vq.any fun e => e.ctx == n && !e.orphan) &&
  b.1 && (c.regs.xpend &&& ~~~(if b.2 = 0 then 0 else BitVec.ofNat 32 (2 ^ b.2))) == 0 && c.regs.vpend == 0 && c.regs.fpend == 0

/-- A deferred trap that awaits a U-mode context is taken before the context is saved (12 R257; log entry 19). -/
def takeFirstDeferred (s : State) (k n : Nat) : State :=
  let c := getCtx s k n
  match c.mode, c.deferred with
  | .u, d :: _ => modCtx (enterTrap s k n d.code d.value) k n fun c => { c with deferred := c.deferred.tail }
  | _, _ => s

/-- CTX_SAVE_COMPLETION (04 R94) -/
def execCtxSaveCompletion (core ctx : Nat) (s : State) : Out :=
  match (getCore s core).ctxops.find? fun o => o.target == ctx && !o.load with
  | none => .next s
  | some op =>
    let c := getCtx s core ctx
    if op.hostWait ∨ followed s core op.after = false then .next s
    else if c.locks ≠ [] ∨ lockRequests c ≠ [] ∨ c.tx.isSome then .next (endCtxOp s core op Status.ctxbusy)
    else if repliesIn s core ctx = false then .next s
    else match imageFault s core op .store with
      | some code => .next (endCtxOp s core op (Status.ofCause code))
      | none =>
        let s := takeFirstDeferred s core ctx
        match putLines s core op (recordBytes (getCtx s core ctx)) 24 with
        | (.all, s) => .next (endCtxOp (wakeHwaits (modCtx s core ctx Context.ended) core) core op 0)
        | (.wait, s) => .next s
        | (.error, s) => .next (endCtxOp s core op Status.accesserr)

/-- The reserved helper stays free after a failed ctx.load. -/
def failLoad (s : State) (k : Nat) (op : CtxOp) (status : Int) : State :=
  endCtxOp (modCtx s k op.target fun c => { c with st := .free }) k op status

/-- The helper of a loaded image: M-mode registers at reset, no pending marks (04 R95, 12 R269). A held helper's fault
address is not in the record: a free value. -/
def loadHelper (s : State) (k n : Nat) (bs : List Byte) : State :=
  let c := contextOfRecord {} bs
  let st := fieldOf bs 0x5C8 8 / 2 ^ 61
  if st = 3 then
    let r := freshValue s
    setCtx r.2 k n { c with st := .held r.1 }
  else if st = 2 then setCtx s k n (resumeRecord s k n c (fieldOf bs 0 8))
  else setCtx s k n c

/-- CTX_LOAD_COMPLETION (04 R95) -/
def execCtxLoadCompletion (core ctx : Nat) (s : State) : Out :=
  match (getCore s core).ctxops.find? fun o => o.target == ctx && o.load with
  | none => .next s
  | some op =>
    if op.hostWait ∨ followed s core op.after = false then .next s
    else match imageFault s core op .load with
      | some code => .next (failLoad s core op (Status.ofCause code))
      | none => match getLines s core op op.data 24 with
        | (.wait, _, s) => .next s
        | (.error, _, s) => .next (failLoad s core op Status.accesserr)
        | (.all, bs, s) =>
          if op.mode.code < recordMode bs then .next (failLoad s core op Status.ctxbusy)
          else .next (endCtxOp (loadHelper s core ctx bs) core op 0)

end Sys2Proof.Machine
end

