-- ==== Sys2Proof/Machine/Fill.lean ====
section
/-! DEFINITION. Fills: replies to requests, results of the F unit and of the vector queue, nput, and the end of a parcel
(02 R24, R27; 04 R89 to R91; 05 R115, R118; 06 R158, R159; 12 R270). -/
namespace Sys2Proof.Machine

/-! ### registers -/

/-- Replace the lanes of n bytes that the parts name. -/
def mergeLanes (old : VWord) (n : Nat) (vals : List (Nat × Nat)) : VWord :=
  ofLanes (8 * n) ((List.range (laneCount (8 * n))).map fun i =>
    match vals.find? fun e => e.1 == i with
    | some e => e.2
    | none => lane old (8 * n) i)

/-- The lanes that a reply writes. -/
def dstLanes (d : Dst) (ps : List Part) : List (Nat × Nat) :=
  match d with
  | .vb _ _ dests => match ps with
    | p :: _ => dests.map fun i => (i, p.res)
    | [] => []
  | _ => ps.map fun p => (p.lane, p.res)

/-- The value that an x destination receives. -/
def dstWord (bytes : Nat) (signed : Bool) (ps : List Part) : Word :=
  match ps with
  | p :: _ => if signed then signExtendBytes bytes p.res else BitVec.ofNat 64 (p.res % 2 ^ (8 * bytes))
  | [] => 0

/-- A reply writes its registers, sets presence and clears the pending mark (02 R24). -/
def fillDst (g : Regs) (d : Dst) (ps : List Part) : Regs :=
  match d with
  | .none => g
  | .x r bytes signed => replyX g r (dstWord bytes signed ps)
  | .pair r => match ps with
    | p :: _ => replyX (replyX g r (BitVec.ofNat 64 p.res)) (r + 1) (BitVec.ofNat 64 (p.res / 2 ^ 64))
    | [] => g
  | .f r => match ps with
    | p :: _ => { writeF g r (BitVec.ofNat 32 p.res) with fpend := putBit g.fpend r false }
    | [] => g
  | .v r n => replyV g r (mergeLanes (readV g r) n (dstLanes d ps))
  | .vb r n _ => replyV g r (mergeLanes (readV g r) n (dstLanes d ps))

/-- A failed reply leaves its registers empty and clears the pending marks (12 R257). -/
def failDst (g : Regs) (d : Dst) : Regs :=
  match d with
  | .none => g
  | .x r _ _ => failX g r
  | .pair r => failX (failX g r) (r + 1)
  | .f r => { g with fpend := putBit g.fpend r false }
  | .v r _ => failV g r
  | .vb r _ _ => failV g r

/-! ### images (12 R270) -/

/-- Set a bit of STATE. -/
def imagePresent (s : State) (k n bit : Nat) : State :=
  match rankSaved (getCore s k) n with
  | none => s
  | some r =>
    let a := recordBase r n + 0x5C8
    agentWrite s k n a (leBytes 8 (readLE s.mem a 8 ||| 2 ^ bit))

/-- Write bytes of a v register slot. -/
def imageLane (s : State) (k n reg off len v : Nat) : State :=
  match rankSaved (getCore s k) n with
  | none => s
  | some r => agentWrite s k n (recordBase r n + 0x1C0 + 64 * reg + off) (leBytes len v)

/-- A reply to a saved context: the slots, then presence, then DONE. One that fills no x or v register has an entry with REG 0
(log entry 98). -/
def imageDst (s : State) (k n : Nat) (d : Dst) (ps : List Part) : State :=
  match d with
  | .none => redirectDone s k n false 0
  | .x r bytes signed => if r = 0 then redirectDone s k n false 0 else imageFill s k n r (dstWord bytes signed ps)
  | .pair r => if r = 0 then redirectDone s k n false 0 else match ps with
    | p :: _ => imageFill (imageFill s k n r (BitVec.ofNat 64 p.res)) k n (r + 1) (BitVec.ofNat 64 (p.res / 2 ^ 64))
    | [] => s
  | .f r => match rankSaved (getCore s k) n, ps with
    | some sr, p :: _ => redirectDone (agentWrite s k n (recordBase sr n + 0x100 + 4 * r) (leBytes 4 p.res)) k n false 0
    | _, _ => s
  | .v r m => lanesTo s r m
  | .vb r m _ => lanesTo s r m
where
  lanesTo (s : State) (r m : Nat) : State :=
    redirectDone (imagePresent ((dstLanes d ps).foldl (fun s e => imageLane s k n r (m * e.1) m e.2) s) k n (32 + r)) k n true r

/-- A failed reply to a saved context: its registers stay empty. -/
def imageFailed (s : State) (k n : Nat) : Dst → State
  | .x r _ _ => redirectDone s k n false r
  | .pair r => if r = 0 then redirectDone s k n false 0 else redirectDone (redirectDone s k n false r) k n false (r + 1)
  | .v r _ => redirectDone s k n true r
  | .vb r _ _ => redirectDone s k n true r
  | .none => redirectDone s k n false 0
  | .f _ => redirectDone s k n false 0

/-! ### replies -/

def dropReq (s : State) (id : Nat) : State := { s with reqs := s.reqs.filter fun r => r.id != id }

/-- A page in handover serves no lk.stat (19 R368); pg.stat reads its state. -/
def inHandover (s : State) (pa : Nat) : Bool :=
  match pageAt s pa with
  | some p => p.st == .handover
  | none => false

/-- What a lk.stat or pg.stat reads at the owner of its page. -/
def snapshot (s : State) (r : Req) (q : Nat) (last : Option Nat) : State :=
  match r.kind with
  | .lockState => if inHandover s q then s else partDone s r.id 0 (lockStatus s (lineOf q) r.core r.ctx).toNat
  | .pageState => partDone s r.id 0 (pageWord s q last).toNat
  | _ => s

/-- Read what a lk.stat or pg.stat asks for, at the owner of the page after the checks of an access; an answer MIGCHAIN or
MIGSTALE is resolved as that of any request (05 R133, R156; 19 R371, R374). -/
def takeSnapshot (s : State) (r : Req) : State :=
  match r.parts with
  | [] => s
  | p :: _ =>
    if reqDone r || p.answer.isSome then s
    else
      let write := r.kind == .lockState
      match accessError (viewFor s r.core r.ctx) r.core r.mode p.pa p.n write false with
      | some reason => errorPart s r p reason
      | none => match ownerOf s none 2 p.pa with
        | .error reason => mapReq (noteForwards s (pkgOf r.core) 2 p.pa) r.id fun r =>
            { r with parts := r.parts.map fun p => { p with answer := some reason } }
        | .ok (q, last) =>
          match forwardError s r.core r.mode p.pa q p.n write false with
          | some reason => errorPart s r p reason
          | none => snapshot (followPage (noteForwards s (pkgOf r.core) 2 p.pa) r.core p.pa q) r q last

/-- Deliver a finished request and forget it. -/
def deliver (s : State) (r : Req) : State :=
  let s := dropReq s r.id
  if r.orphan then (if r.ctx < 16 then s else redirectDone s r.core r.ctx false 0)
  else match r.fail with
    | some (cause, value) =>
      let s := if r.ctx < 16 then modCtx s r.core r.ctx fun c => { c with regs := failDst c.regs r.dst }
        else imageFailed s r.core r.ctx r.dst
      raiseDeferred s r.core r.ctx cause value
    | none =>
      if r.ctx < 16 then modCtx s r.core r.ctx fun c => { c with regs := fillDst c.regs r.dst r.parts }
      else imageDst s r.core r.ctx r.dst r.parts

/-- A destination in f, which F_RESULT_WRITTEN writes. -/
def dstIsF : Dst → Bool
  | .f _ => true
  | _ => false

/-- REPLY -/
def execReply (id : Nat) (s : State) : Out :=
  match findReq s id with
  | none => .next s
  | some r =>
    if r.queued ∨ imageHeld s r.core r.ctx = true then .next s
    else
      let s := takeSnapshot s r
      match findReq s id with
      | none => .next s
      | some r =>
        if reqDone r = false ∨ (dstIsF r.dst = true ∧ r.fail = none ∧ r.orphan = false) then .next s
        else .next (deliver s r)

/-- F_RESULT_WRITTEN -/
def execFResultWritten (core ctx reg : Nat) (s : State) : Out :=
  match s.reqs.find? fun r => r.core == core && r.ctx == ctx && r.dst == .f reg && reqDone r && r.fail.isNone &&
      !r.orphan && !r.queued with
  | none => .next s
  | some r => if imageHeld s core ctx then .next s else .next (deliver s r)

/-! ### the vector queue -/

/-- What the head of the vector queue does. -/
def runVq (s : State) (k : Nat) (e : VqEntry) : State :=
  if e.orphan then s
  else match e.work with
    | .done => s
    | .fillX rd v => modCtx s k e.ctx fun c => { c with regs := replyX c.regs rd v }
    | .memory id => match findReq s id with
      | none => s
      | some r => partsAtIssue (mapReq s id fun r => { r with queued := false }) id r.parts.length

/-- VECTOR_QUEUE_EXECUTE -/
def execVectorQueueExecute (core : Nat) (s : State) : Out :=
  match (getCore s core).vq with
  | [] => .next s
  | e :: es => .next (runVq (modCore s core fun c => { c with vq := es }) core e)

/-! ### nput (04 R89, R90) -/

def isNput : MsgKind → Bool
  | .nput _ _ => true
  | _ => false

/-- The launch of a message's issuer. -/
def msgLaunch (s : State) (m : Msg) : Option Nat :=
  if m.ctx < 16 then (getCore s m.core).launch
  else (rankSaved (getCore s m.core) m.ctx).map fun r => r.launch

/-- NPUTLOST on the issuing core; without a rank, or with a full queue, it is discarded and logged. -/
def lostFill (s : State) (m : Msg) (desc : Word) : State :=
  let u : UpcallRec := { code := Cause.nputlost, value := desc, ctx := m.ctx % 16 }
  if m.ctx < 16 then
    if (getCore s m.core).launch.isSome then raiseOn s m.core u else postFor s m.core m.ctx 5 0 0 desc 0
  else match rankSaved (getCore s m.core) m.ctx with
    | some r => (saveUpcall s m.core r u).getD (postFor s m.core (m.ctx % 16) 5 0 0 desc 0)
    | none => s

/-- The fill of a live context's register; a pending mark stays. -/
def nputRegs (g : Regs) (d v : Word) : Regs :=
  let r := bitsOf d 16 12
  if d.getLsbD 17 = false then writeX g r v
  else
    let g := { g with v := fset g.v r (mergeLanes (readV g r) 8 [(bitsOf d 20 18, v.toNat)]), latch := latchAfter g r }
    if d.getLsbD 21 then { g with vpres := putBit g.vpres r true } else g

/-- The fill of a saved context's image. -/
def nputImage (s : State) (k n : Nat) (d v : Word) : State :=
  let r := bitsOf d 16 12
  if d.getLsbD 17 = false then imageFill s k n r v
  else
    let s := imageLane s k n r (8 * bitsOf d 20 18) 8 v.toNat
    if d.getLsbD 21 then redirectDone (imagePresent s k n (32 + r)) k n true r else s

/-- The saved context is live in its image. -/
def imageLive (s : State) (r : SavedRank) (n : Nat) : Bool := readLE s.mem (recordBase r n + 0x5C8) 8 / 2 ^ 61 != 0

/-- A fill of a context that is being saved goes into the image: a save that has sent the register's line to a host window
sends it again (04 R89, R94). -/
def resendLine (n : Nat) (d : Word) (o : CtxOp) : CtxOp :=
  let line := if d.getLsbD 17 then 7 + bitsOf d 16 12 else bitsOf d 16 12 / 8
  if o.load || o.target != n || decide (o.pos < line) then o
  else if o.hostWait then { o with redo := some (min line (o.redo.getD line)) }
  else { o with pos := line }

/-- The fill of a live context's register. -/
def fillLive (s : State) (t n : Nat) (d v : Word) : State :=
  modCore (modCtx s t n fun c => { c with regs := nputRegs c.regs d v }) t fun c => { c with ctxops := c.ctxops.map (resendLine n d) }

/-- An nput reaches its target core. -/
def landNput (s : State) (m : Msg) (d v : Word) : State :=
  let t := nputTarget m.core d
  let s := wakeCore s t
  let n := bitsOf d 11 8
  let co := getCore s t
  if co.launch == msgLaunch s m && (co.launch.isSome || (t == m.core && decide (m.ctx < 16))) then
    if helperIsFree co n then lostFill s m d else fillLive s t n d v
  else match savedOf s t (msgLaunch s m) with
    | some r => if imageLive s r n then nputImage s t (16 * r.num + n) d v else lostFill s m d
    | none => lostFill s m d

/-- What an nput is behind: an earlier one of the same cores, what it orders as a release (04 R90), a lock request of the context
before it, whose grant is an acquire (16 R317), and a commit on the image that it goes to (17 R338). -/
def nputHeld (s : State) (m : Msg) (d : Word) : Bool :=
  (s.msgs.any fun o => decide (o.id < m.id) && o.core == m.core &&
    (match o.kind with | .nput d' _ => nputTarget o.core d' == nputTarget m.core d | _ => false)) ||
  earlierOpen s m.core m.ctx m.id || (lockRequests (getCtx s m.core m.ctx)).any (fun w => decide (w.order < m.id)) ||
  (match savedOf s (nputTarget m.core d) (msgLaunch s m) with
    | some r => imageHeld s (nputTarget m.core d) (16 * r.num)
    | none => false)

/-- NPUT_FILL -/
def execNputFill (id : Nat) (s : State) : Out :=
  match findMsg s id with
  | none => .next s
  | some m => match m.kind with
    | .nput d v => if nputHeld s m d then .next s else .next (landNput (dropMsg s id) m d v)
    | _ => .next s

/-! ### the end of a parcel (01 R15, 04 R91, 12 R262) -/

/-- The pending pnext of a core. -/
def pendingPnext (s : State) (k : Nat) : Option Req :=
  s.reqs.find? fun r => r.core == k && r.ctx == 0 && r.kind == .compute && r.queued

/-- The accesses and remote requests of context 0 before a request have completed. -/
def completedBefore (s : State) (k order : Nat) : Bool :=
  s.reqs.all (fun r => !(r.core == k && r.ctx == 0 && decide (r.order < order) && !r.orphan)) &&
  !farReleaseBefore s k 0 order && ((lockRequests (getCtx s k 0)).all fun w => !farFrom k w.named || decide (order < w.order)) &&
  s.msgs.all fun m => !(m.core == k && m.ctx == 0 && decide (m.id < order) && isNput m.kind)

/-- ecall of context 0 waits for its accesses. -/
def awaitsParcelEnd (s : State) (k : Nat) : Bool :=
  (getCtx s k 0).st == .parked [.accessesDone] && condHolds s k 0 .accessesDone

/-- PARCEL_END -/
def execParcelEnd (core : Nat) (s : State) : Out :=
  match pendingPnext s core with
  | some r => if completedBefore s core r.order then .next (deliver s r) else .next s
  | none =>
    if awaitsParcelEnd s core then .next (endParcel s core)
    else .next (raiseRetire s core)

end Sys2Proof.Machine
end

