-- ==== Sys2Proof/Machine/Home.lean ====
section
/-! DEFINITION. Requests served at their homes: main memory of any package, tails and redirects, partial lines, evictions,
scratchpad ports (05 R121 to R124; 14 R289; 17 R327 to R331; 19 R362 to R375), and waits on words (05 R127 to R129). -/
namespace Sys2Proof.Machine

/-! ### checks -/

/-- The machine as the checks of a request see it. -/
def requesterView (s : State) (r : Req) : State := viewFor s r.core r.ctx

/-- The error response of a part: that of a forwarded one is of its destination (19 R362). -/
def partError (s : State) (r : Req) (p : Part) (whole : Bool) : Option Nat :=
  if p.fwd = 0 then accessError (requesterView s r) r.core r.mode p.pa p.n (isWriteKind r.kind) whole
  else destinationError s r.core r.mode p.pa p.n (isWriteKind r.kind) whole

/-- A store whose parts cover a whole line (12 R273). -/
def coversWhole (r : Req) (line : Nat) : Bool :=
  r.kind == .store && partsCover r.parts line

/-- The line is no longer poisoned once the last part of a whole-line store is performed. -/
def healLine (s : State) (r : Req) (i line : Nat) : State :=
  if coversWhole r line && (r.parts.mapIdx fun j o => j == i || o.done || lineOf o.pa != line).all id then
    { s with poison := s.poison.filter (· != line) }
  else s

/-! ### tails (19 R371 to R374) -/

def mapPart (s : State) (id i : Nat) (f : Part → Part) : State :=
  mapReq s id fun r => { r with parts := r.parts.mapIdx fun j p => if j = i then f p else p }

/-- A tail sends a request on to the frame it recorded; one that waited there has left. -/
def forwardPart (s : State) (r : Req) (i : Nat) (p : Part) (pg : Page) : State :=
  mapPart (modPage (noteForward s p.pa (pkgOf r.core)) pg.frame fun pg => { pg with waiters := pg.waiters.filter (· != (r.id, i)) })
    r.id i fun q => { q with named := some (q.named.getD q.pa), pa := q.pa - pg.frame * 1024 + pg.new * 1024, fwd := q.fwd + 1 }

/-- A redirect on its way to the cluster of core k holds the cluster's new requests for its page (19 R373). -/
def frameHeld (s : State) (k pa : Nat) : Bool :=
  s.msgs.any fun m => match m.kind with
    | .redirect cl old _ big => cl == clusterOf k && decide (old ≤ frameOf pa) && decide (frameOf pa < old + pageFrames big)
    | _ => false

/-- An access waits at the home of a page: it has arrived there (19 R368, R370). -/
def hasArrived (s : State) (id i pa : Nat) : Bool :=
  match pageAt s pa with
  | some pg => pg.waiters.contains (id, i)
  | none => false

/-- A redirect holds a part that has not been sent. -/
def redirectHolds (s : State) (r : Req) (i : Nat) (p : Part) : Bool :=
  p.fwd == 0 && frameHeld s r.core p.pa && !hasArrived s r.id i p.pa

/-- A waiting access that is still to be performed. -/
def waiterOpen (s : State) (w : Nat × Nat) : Bool :=
  match findReq s w.1 with
  | some r => match r.parts[w.2]? with
    | some p => !p.done
    | none => false
  | none => false

/-- An access waits at the home of its page, behind those that came before. -/
def waitAtPage (s : State) (id i : Nat) (pg : Page) : State :=
  if pg.waiters.contains (id, i) then s
  else modPage s pg.frame fun pg => { pg with waiters := pg.waiters.filter (waiterOpen s) ++ [(id, i)] }

/-- Another access that waits at the page came before. -/
def behindWaiters (s : State) (id i : Nat) (pg : Page) : Bool :=
  match pg.waiters.find? (waiterOpen s) with
  | some w => w != (id, i)
  | none => false

/-! ### main memory -/

/-- Perform a part and answer it; `cl` is the cluster that keeps a copy. -/
def performAt (s : State) (r : Req) (i : Nat) (p : Part) (cl : Option Nat) : State :=
  match judge s r.core r.ctx false (if r.kind matches .reduce _ then .reduce else if isWriteKind r.kind then .write else .read) p.pa with
  | .go _ _ =>
    if cl.isSome && !l2Room s r.core (lineOf p.pa) then s
    else healLine (sendRedirect (performMain s r i p cl) r p) r i (lineOf p.pa)
  | _ => s

/-- The cluster that keeps the line: none for requests of other packages, signals and pages that move. -/
def copyFor (s : State) (r : Req) (p : Part) : Option Nat :=
  if partRemote s r.core p || p.fwd != 0 || r.kind == .signal || pageMoving s p.pa then none else some (clusterIn r.core)

/-- A tail sends a request on, at most twice (19 R371), those that waited at the page first (R370); where it cannot send, the
request finds an error response (R379). -/
def serveTail (s : State) (r : Req) (i : Nat) (p : Part) (pg : Page) : State :=
  let a := paPkg (pg.frame * 1024)
  let b := paPkg (pg.new * 1024)
  if behindWaiters s r.id i pg then waitAtPage s r.id i pg
  else if 2 ≤ p.fwd then mapPart s r.id i fun q => { q with answer := some Reason.migchain }
  else if a ≠ b ∧ unreachable s a b = true then errorPart s r p Reason.linklost
  else forwardPart s r i p pg

/-- Serve a transactional part: a page on its way out turns it away with NONTX (19 R369); a tail sends it on, but a page
that is now another package's memory is out of reach (05 R141). -/
def serveTx (s : State) (r : Req) (i : Nat) (p : Part) : State :=
  match pageAt s p.pa with
  | none => performTx s r i p
  | some pg => match pg.st with
    | .tail =>
      if paPkg (pg.new * 1024) = pkgOf r.core then serveTail s r i p pg
      else messageAbort s r.core r.ctx Abort.xpkg (BitVec.ofNat 64 (p.va / 512 * 512))
    | .stale => mapPart s r.id i fun q => { q with answer := some Reason.migstale }
    | _ => performTx s r i p

/-- Serve a part of main memory: the error response, the page's state, then the access. -/
def serveMain (s : State) (r : Req) (i : Nat) (p : Part) : State :=
  if r.tx && !tileFits s r.core r.ctx (tileOf p.pa) then
    abortCtx s r.core r.ctx Abort.capacity 0 (BitVec.ofNat 64 (p.va / 512 * 512))
  else match partError s r p (coversWhole r (lineOf p.pa)) with
  | some reason => errorPart s r p reason
  | none =>
    if r.tx then serveTx s r i p
    else match pageAt s p.pa with
      | none => performAt s r i p (copyFor s r p)
      | some pg => match pg.st with
        | .eft => performAt s r i p none
        | .eftHold => if isWriteKind r.kind then waitAtPage s r.id i pg else performAt s r i p none
        | .handover => waitAtPage s r.id i pg
        | .tail => serveTail s r i p pg
        | .stale => mapPart s r.id i fun q => { q with answer := some Reason.migstale }

/-! ### lanes (16 R324) -/

/-- The line of a lock message now: pages move with their locks (19 R370). -/
def lineNow (s : State) (line : Nat) : Nat := lineOf (throughTails s 2 (line * 64))

/-- The home does not serve lock events of a page in handover. -/
def lockHeldUp (s : State) (line : Nat) : Bool :=
  match pageAt s (line * 64) with
  | some p => p.st == .handover || p.st == .eftHold
  | none => false

/-- Locks of a home slice (17 R341). -/
def locksAt (s : State) (line : Nat) : Nat :=
  (s.locks.filter fun l => paPkg (l.line * 64) == paPkg (line * 64) && homeOf (l.line * 64) == homeOf (line * 64)).length

/-- The line travels with a grant: own package, no moving page (17 R343, 19 R369). -/
def carriesLine (s : State) (line k : Nat) : Bool := paPkg (line * 64) == pkgOf k && !pageMoving s (line * 64)

/-- Whether the home of a line holds a request: for a page in handover, for a commit, for a free entry, or for a way of the
L2 that takes the line. -/
def requestHeld (s : State) (line k : Nat) : Bool :=
  let free := match lockOf s line with
    | some l => !l.held
    | none => true
  lockHeldUp s line || grantHeld s line || ((lockOf s line).isNone && decide (65536 ≤ locksAt s line)) ||
    (free && carriesLine s line k && !l2Room s k line)

/-- Which request of a context a message is. -/
def tryOf (once : Bool) (born : Nat) : Option Nat := if once then some born else none

/-- The address that a lock request or release names now (19 R373). -/
def lockPa (s : State) (m : Msg) : Option Nat :=
  match m.kind with
  | .lockReq line _ once born =>
    some (match (requestOf (getCtx s m.core m.ctx) (tryOf once born)).filter fun w => w.born == born with
      | some w => w.pa
      | none => line * 64)
  | .lockRel line _ => some (line * 64)
  | _ => none

/-- A lock message waits at its core: a release for what it orders (05 R132), and either for a redirect that comes before it (19
R373). -/
def lockUnsent (s : State) (m : Msg) (pa : Nat) : Bool :=
  (match m.kind with
    | .lockRel _ _ => releaseBehind s m.core m.ctx m.id
    | _ => false) ||
  s.msgs.any fun x => decide (x.id < m.id) && (match x.kind with
    | .redirect cl old _ big => cl == clusterOf m.core && decide (old ≤ frameOf pa) && decide (frameOf pa < old + pageFrames big)
    | _ => false)

/-- Addresses of one lane of one package. -/
def sameLane (a b : Nat) : Bool := paPkg a == paPkg b && laneOf a == laneOf b

/-- A part of a request is on its way to its home: sent there, or sent on by a tail, and not arrived. -/
def onTheWay (s : State) (q : Req) (j : Nat) (o : Part) : Bool :=
  !o.done && !o.own && o.answer.isNone && !hasArrived s q.id j o.pa && !(isMain o.pa && heldForCommit s o.pa o.n) &&
  (o.fwd != 0 ||
    (partRemote s q.core o && orderAllows s q o && !redirectHolds s q j o && remoteSent s q.core o.pa))

/-- A lock message of a core is on its way to a home of another package. -/
def lockOnTheWay (s : State) (m : Msg) (pa : Nat) : Bool :=
  farFrom m.core pa && !lockUnsent s m pa && !requestHeld s (lineOf (throughTails s 2 pa)) m.core

/-- An earlier request of core k in the lane of an address has been sent and has not arrived. -/
def laneBehind (s : State) (k order pa : Nat) : Bool :=
  (s.reqs.any fun q => q.core == k && decide (q.order < order) && q.kind != .lockState && q.kind != .pageState &&
    (q.parts.mapIdx fun j o => sameLane o.pa pa && onTheWay s q j o).any id) ||
  (s.msgs.any fun m => m.core == k && decide (m.id < order) && (match lockPa s m with
    | some a => sameLane a pa && lockOnTheWay s m a
    | none => false)) ||
  (getCore s k).ctxs.any fun e => (watchesFar k e.2).any fun w =>
    w.since.isSome && !w.taken && decide (w.order < order) && sameLane w.loc pa

/-- Apply f to a part that may be performed now and that a test picks. -/
def servePart (s : State) (id i : Nat) (ok : Req → Part → Bool) (f : State → Req → Nat → Part → State) : Out :=
  match findReq s id with
  | none => .next s
  | some r => match r.parts[i]? with
    | none => .next s
    | some p =>
      if ok r p && orderAllows s r p && p.answer.isNone && !redirectHolds s r i p &&
          (hasArrived s r.id i p.pa || (p.fwd == 0 && !partRemote s r.core p) || !laneBehind s r.core r.order p.pa) then
        .next (f s r i p)
      else .next s

/-- Own-package main memory that is not being forwarded. -/
def localMain (k : Nat) (p : Part) : Bool := !p.own && isMain p.pa && paPkg p.pa == pkgOf k && p.fwd == 0 && !p.far

def isReduce : ReqKind → Bool
  | .reduce _ => true
  | _ => false

/-- An address of the own package that is no memory, window or host window: reserved spaces and device registers, of
which the request only finds an error response (14 R302, R303). -/
def nowhere (k : Nat) (s : State) (p : Part) : Bool :=
  !p.own && !isMain p.pa && !isHost p.pa && !(isSpm p.pa && decide (p.pa < 2 ^ 56)) && !partRemote s k p

def serveNowhere (s : State) (r : Req) (p : Part) : State :=
  match partError s r p false with
  | some reason => errorPart s r p reason
  | none => s

/-- Loads and stores of host windows leave in order (19 R326, 20 R387); the rest is served at the home. -/
def serveOrSend (s : State) (r : Req) (i : Nat) (p : Part) : State :=
  if isHost p.pa then sendHost s r i p else if isMain p.pa then serveMain s r i p else serveNowhere s r p

/-- HOME_READ -/
def execHomeRead (id part : Nat) (s : State) : Out :=
  servePart s id part (fun r p => r.kind == .load && (localMain r.core p || (isHost p.pa && !p.own) || nowhere r.core s p)) serveOrSend

/-- HOME_WRITE -/
def execHomeWrite (id part : Nat) (s : State) : Out :=
  servePart s id part (fun r p => match r.kind with
    | .store => localMain r.core p || (isHost p.pa && !p.own) || nowhere r.core s p
    | .atomic _ => localMain r.core p || nowhere r.core s p
    | .ticketGet => localMain r.core p || nowhere r.core s p
    | .ticketAdv => localMain r.core p || nowhere r.core s p
    | .reduce _ => nowhere r.core s p
    | .signal => nowhere r.core s p
    | _ => false) serveOrSend

/-- GSIG_PERFORM -/
def execGsigPerform (id : Nat) (s : State) : Out :=
  servePart s id 0 (fun r p => r.kind == .signal && !p.own && isMain p.pa && p.fwd == 0 &&
    (!partRemote s r.core p || remoteSent s r.core p.pa)) serveMain

/-! ### reductions (05 R124, 17 R330) -/

/-- The cluster may combine reductions of a tag into the line. -/
def partialReady (s : State) (line cl tag : Nat) : Bool :=
  let d := dirOf s line
  d.st == .p && d.tag == tag && d.ph.getLsbD cl

/-- A reduction at the home: the line enters P at the cluster; a page that moves takes it at the home. -/
def reduceHome (tag : Nat) (s : State) (r : Req) (i : Nat) (p : Part) : State :=
  if pageMoving s p.pa then serveMain s r i p
  else match partError s r p false with
    | some reason => errorPart s r p reason
    | none => match judge s r.core r.ctx false .reduce p.pa with
      | .go losers cause =>
        if l2Room s r.core (lineOf p.pa) then
          homeReduce (l2Take (abortLosers s (tileOf p.pa) cause losers) r.core (lineOf p.pa)) (lineOf p.pa) (clusterIn r.core) tag
        else s
      | _ => s

/-- HOME_REDUCE -/
def execHomeReduce (id part : Nat) (s : State) : Out :=
  servePart s id part (fun r p => isReduce r.kind && localMain r.core p) fun s r i p =>
    match r.kind with
    | .reduce tag => if partialReady s (lineOf p.pa) (clusterIn r.core) tag then s else reduceHome tag s r i p
    | _ => s

/-- Combine into the partial of the cluster. -/
def reduceL2 (tag : Nat) (s : State) (r : Req) (i : Nat) (p : Part) : State :=
  match judge s r.core r.ctx false .reduce p.pa with
  | .go losers cause =>
    let s := partialAdd (abortLosers s (tileOf p.pa) cause losers) p.pa (clusterIn r.core) tag p.data
    partDone (setDir s (lineOf p.pa) { dirOf s (lineOf p.pa) with writer := r.core + 1 }) r.id i 0
  | _ => s

/-- REDUCTION_AT_L2 -/
def execReductionAtL2 (id part : Nat) (s : State) : Out :=
  servePart s id part (fun r p => isReduce r.kind && localMain r.core p) fun s r i p =>
    match r.kind with
    | .reduce tag => if partialReady s (lineOf p.pa) (clusterIn r.core) tag then reduceL2 tag s r i p else s
    | _ => s

/-! ### evictions and probes (17 R327, R329) -/

/-- The L1 copies of a line in a cluster go, whose islands the probe wakes (17 R332); speculative ones move to the versioned
slice. -/
def recallL1 (s : State) (line cl : Nat) : State :=
  (s.cores.filter fun e => clusterOf e.1 == paPkg (line * 64) * 16 + cl).foldl (fun s e =>
    (e.2.l1.filter fun l => l.line == line && l.st != .i).foldl (fun s v => evictL1 (wakeCore s e.1) e.1 v) s) s

/-- A holder evicts a line; the merge of a partial one waits for the release of a commit that its home has in hand (17 R338). -/
def evictLine (s : State) (line cl : Nat) : State :=
  let st := l2Of s line cl
  if st = .i ∨ (st = .p ∧ heldForCommit s (line * 64) 64 = true) then s
  else
    let s := recallL1 s line cl
    if st = .p then
      let s := mergeHolders (mergeAborts s line) line [cl]
      let d := dirOf s line
      let ph := putBit d.ph cl false
      setDir s line { d with ph := ph, st := if ph = 0 then .i else d.st }
    else
      let s := setL2 s line cl .i
      let d := dirOf s line
      if d.own = cl ∧ (d.st = .e ∨ d.st = .m) then setDir s line { d with st := .i }
      else if d.own = cl ∧ d.st = .o then setDir s line { d with st := .s }
      else s

/-- A set of the L2 of core k's cluster has no way left: one of its lines is evicted. -/
def makeRoom (k : Nat) (s : State) : Out :=
  match s.l2way.find? fun e => e.1 % 16 == clusterIn k && paPkg (e.1 / 16 * 64) == pkgOf k && (wayMask s k).contains e.2 &&
      (freeL2Way s k (e.1 / 16)).isNone with
  | some e => .next (evictLine s (e.1 / 16) (clusterIn k))
  | none => .next s

/-- HOME_EVICTION -/
def execHomeEviction (cluster line : Nat) (s : State) : Out := .next (evictLine s line (cluster % 16))

/-- The cluster holds a line of the tile. -/
def holdsTile (s : State) (tile cl : Nat) : Bool := (List.range 8).any fun i => l2Of s (tile * 8 + i) cl != .i

/-- PROBE: a cluster named in CV that holds no line of the tile answers none and leaves CV; the probe wakes the
cluster's L2 and the cores that its filter names (17 R332, 20 R395). -/
def execProbe (cluster line : Nat) (s : State) : Out :=
  let cl := cluster % 16
  let tile := line / 8
  if (cvOf s tile).getLsbD cl = false then .next s
  else
    let s := wakeAgents { s with probeMiss := s.probeMiss.filter (· != line * 16 + cl) } line cl
    .next (if holdsTile s tile cl then s else { s with dirCv := fset s.dirCv tile (putBit (cvOf s tile) cl false) })

/-! ### scratchpad ports (14 R289) -/

/-- A core's port serves its running rank, or its save agent the saved one. -/
def serveWindow (s : State) (r : Req) (i : Nat) (p : Part) : State :=
  match partError s r p false with
  | some reason => errorPart s r p reason
  | none =>
    let v := requesterView s r
    let t := windowCore p.pa
    if (getCore s t).launch = (getCore v r.core).launch then performSpm s r i p t (windowByte p.pa)
    else match savedOf s t (getCore v r.core).launch with
      | some img => performImage s r i p t img (windowByte p.pa)
      | none => s

/-- SCRATCHPAD_WINDOW_REQUEST: an access of the own scratchpad that the scoreboard held, or one through the window. -/
def execScratchpadWindowRequest (id part : Nat) (s : State) : Out :=
  servePart s id part (fun r p => p.own || (isSpm p.pa && decide (p.pa < 2 ^ 56) &&
      (!partRemote s r.core p || remoteSent s r.core p.pa))) fun s r i p =>
    if p.own then
      if spmWaits (getCore s r.core) r.order p.pa p.n (isWriteKind r.kind) then s else performSpm s r i p r.core p.pa
    else serveWindow s r i p

/-! ### other packages (19 R362 to R374) -/

/-- REMOTE_REQUEST -/
def execRemoteRequest (id part : Nat) (s : State) : Out :=
  servePart s id part (fun r p => partRemote s r.core p && p.fwd == 0 && remoteSent s r.core p.pa &&
      r.kind != .lockState && r.kind != .pageState) fun s r i p =>
    if isMain p.pa then serveMain s r i p
    else if isSpm p.pa then serveWindow s r i p
    else match partError s r p false with
      | some reason => errorPart s r p reason
      | none => s

/-- FWD -/
def execFwd (id part : Nat) (s : State) : Out := servePart s id part (fun _ p => p.fwd != 0) serveMain

/-- The access that a request is translated as (14 R293). -/
def accFor : ReqKind → Acc
  | .load => .load
  | .pageState => .load
  | .compute => .load
  | .store => .store
  | .atomic _ => .atomic
  | .reduce _ => .amo
  | .signal => .amo
  | .ticketGet => .amo
  | .ticketAdv => .amo
  | .lockState => .amo

/-- A request answered by a tail or a stale mark: sent once more, to the frame of a new walk that permits it, then an error
response (19 R374; log entry 86). It counts as the one remote request that it was (19 R363). -/
def resolvePart (s : State) (r : Req) (i : Nat) (p : Part) (reason : Nat) : State :=
  if p.resent then errorPart s r p reason
  else
    let s := dropOwner s (clusterOf r.core) (p.named.getD p.pa)
    match walkAgain s r.core r.ctx r.mode (rgnAs s r.core r.ctx) p.va (accFor r.kind) with
    | (.phys pa, s) => mapPart s r.id i fun q =>
        { q with pa := pa, fwd := 0, named := none, answer := none, since := none, resent := true }
    | (.wait, s) => s
    | (_, s) => errorPart s r p reason

/-- A part that a tail or stale mark has answered with a reason. -/
def answered (s : State) (id i reason : Nat) : Out :=
  match findReq s id with
  | none => .next s
  | some r => match r.parts[i]? with
    | none => .next s
    | some p => if p.answer = some reason ∧ p.done = false then .next (resolvePart s r i p reason) else .next s

/-- MIGCHAIN -/
def execMigchain (id part : Nat) (s : State) : Out := answered s id part Reason.migchain
/-- MIGSTALE -/
def execMigstale (id part : Nat) (s : State) : Out := answered s id part Reason.migstale

/-- A physical address in a page. -/
def inPage (old : Nat) (big : Bool) (pa : Nat) : Bool := decide (old ≤ frameOf pa) && decide (frameOf pa < old + pageFrames big)

/-- Requests of a cluster that were sent to an old frame before a message and are not answered: accesses, lock requests that have
not arrived, and watches that the home has not taken. -/
def sentTo (s : State) (cluster id old : Nat) (big : Bool) : Bool :=
  (s.reqs.any fun r => clusterOf r.core == cluster && (r.parts.mapIdx fun i p => !p.done &&
    (p.fwd != 0 && p.named.any (inPage old big) || hasArrived s r.id i p.pa && inPage old big p.pa)).any fun x => x) ||
  (s.msgs.any fun m => clusterOf m.core == cluster && decide (m.id < id) && (match lockPa s m with
    | some pa => inPage old big pa && !lockUnsent s m pa && !requestHeld s (lineOf (throughTails s 2 pa)) m.core
    | none => false)) ||
  s.cores.any fun e => clusterOf e.1 == cluster && e.2.ctxs.any fun c => (watchesOf c.2).any fun w =>
    w.since.isSome && !w.taken && inPage old big w.loc

/-- An address of an old frame, in the new one. -/
def moved (old new pa : Nat) : Nat := pa - old * 1024 + new * 1024

/-- A held watch goes to the new frame. -/
def moveWatch (old new : Nat) (big : Bool) (w : Watch) : Watch :=
  if w.since.isNone && !w.taken && w.loc < 2 ^ 56 && inPage old big w.loc then { w with loc := moved old new w.loc } else w

/-- The watch of a wait changes. -/
def mapWatch (f : Watch → Watch) : Wait → Wait
  | .word w value deadline rd => .word (f w) value deadline rd
  | .ticket w t => .ticket (f w) t
  | w => w

def mapWatches (f : Watch → Watch) (c : Context) : Context :=
  { c with st := (match c.st with | .waiting w => .waiting (mapWatch f w) | x => x), keptWait := c.keptWait.map (mapWatch f) }

/-- Held requests of a cluster go to the new frame (19 R373): accesses, lock requests that came after a message, and watches. -/
def moveHeld (s : State) (cluster id old new : Nat) (big : Bool) : State :=
  let part := fun (p : Part) =>
    if !p.done && !p.own && p.fwd == 0 && p.answer.isNone && inPage old big p.pa then { p with pa := moved old new p.pa } else p
  let lock := fun (w : LockWait) =>
    if decide (id < w.order) && inPage old big w.pa then { w with pa := moved old new w.pa } else w
  let ctx := fun (c : Context) =>
    { mapWatches (moveWatch old new big) c with lockWait := c.lockWait.map lock, lockTries := c.lockTries.map lock }
  { s with
    reqs := s.reqs.map fun r => if clusterOf r.core == cluster then { r with parts := r.parts.map part } else r,
    cores := s.cores.map fun e =>
      if clusterOf e.1 == cluster then (e.1, { e.2 with ctxs := e.2.ctxs.map fun c => (c.1, ctx c.2) }) else e }

/-- REDIRECT: the entry replaces any with the same frame; 1,024 entries per cluster, the oldest goes (log entry 9). -/
def execRedirect (id : Nat) (s : State) : Out :=
  match findMsg s id with
  | none => .next s
  | some m => match m.kind with
    | .redirect cluster old new big =>
      if sentTo s cluster id old big then .next s
      else
        let rest := s.owners.filter fun o => !(o.cluster == cluster && o.old == old)
        let mine := (rest.filter fun o => o.cluster == cluster).take 1023
        let s := { dropMsg s id with owners := { cluster := cluster, old := old, new := new, big := big } ::
          (mine ++ rest.filter fun o => o.cluster != cluster) }
        .next (moveHeld s cluster id old new big)
    | _ => .next s

/-! ### waits on words (05 R128, R129; 19 R364) -/

/-- The wait of a context: the one that it is in, or the one that an upcall interrupted (12 R258). -/
def waitAt (c : Context) (kept : Bool) : Option Wait :=
  if kept then c.keptWait
  else match c.st with
    | .waiting w => some w
    | _ => none

def watchAt (c : Context) (kept : Bool) : Option Watch := (waitAt c kept).bind watchIn

/-- The watch of a wait of a context changes. -/
def modWatch (s : State) (k n : Nat) (kept : Bool) (f : Watch → Watch) : State :=
  modCtx s k n fun c =>
    if kept then { c with keptWait := c.keptWait.map (mapWatch f) }
    else { c with st := match c.st with | .waiting w => .waiting (mapWatch f w) | x => x }

/-- The access that a wait is translated as. -/
def waitAcc : Wait → Acc
  | .ticket _ _ => .amo
  | _ => .load

/-- The word in the context's own program order: none of its pending acquires and none of its own accesses to the word,
to a host window none at all, is still to be performed (16 R314, R317, R326); of the own scratchpad no earlier engine command is
still to write it (05 R145). -/
def watchReady (s : State) (k n : Nat) (w : Watch) : Bool :=
  let own := decide (ownWord ≤ w.loc)
  let at_ := if own then windowOf k (w.loc - ownWord) else resolved s 8 w.loc
  ((acquiresOf s k n).all fun i => decide (w.order ≤ i)) &&
  !(own && spmWaits (getCore s k) w.order (w.loc - ownWord) 8 false) &&
  !s.reqs.any fun r => r.core == k && r.ctx == n && decide (r.order < w.order) && r.kind != .compute && r.parts.any fun p =>
    !p.done && (overlaps (placeOfPart s k p, p.n) (at_, 8) || (!own && isHost w.loc && hostPart p))

/-- A watch that has not left its core: a redirect for its page comes before it (19 R373), or its lane is not free (16 R324). -/
def watchUnsent (s : State) (k : Nat) (w : Watch) : Bool :=
  decide (w.loc < 2 ^ 56) && !w.taken && w.since.isNone &&
    (frameHeld s k w.loc || (farFrom k w.named && laneBehind s k w.order w.loc))

/-- A watch that a tail passed on moves to its new home, which sends a redirect. -/
def followWatch (s : State) (k n : Nat) (kept : Bool) (pa q : Nat) : State :=
  if q = pa then s
  else followPage (modWatch (noteForwards s (pkgOf k) 2 pa) k n kept fun w => { w with loc := q }) k pa q

/-- A watch reaches the home of an address through tails, or the check there turns it away. -/
def followTo (s : State) (k n : Nat) (kept : Bool) (pa q : Nat) : Except Nat (Option Nat) × State :=
  match forwardError s k (getCtx s k n).mode pa q 8 false false with
  | some reason => (.error reason, s)
  | none => (.ok (some q), followWatch s k n kept pa q)

/-- Where the home of a watched word of main memory is: a tail passes the watch on, and an answer MIGCHAIN or MIGSTALE is
resolved by one walk, then it is an error response (19 R364, R371, R374). Nothing while the home serves no access. -/
def routeWatch (s : State) (k n : Nat) (kept : Bool) (acc : Acc) (w : Watch) : Except Nat (Option Nat) × State :=
  let mode := (getCtx s k n).mode
  match route s false 2 w.loc with
  | .serve q => followTo s k n kept w.loc q
  | .wait => (.ok none, s)
  | first =>
    let reason := if first = .chain then Reason.migchain else Reason.migstale
    let s := dropOwner (noteForwards s (pkgOf k) 2 w.loc) (clusterOf k) w.named
    match walkAgain s k n mode (getCore s k).qrgn w.va acc with
    | (.wait, s) => (.ok none, s)
    | (.phys pa, s) => match checkAs s k n mode pa 8 .load false with
      | some reason => (.error reason, s)
      | none => match route s false 2 pa with
        | .serve q => followTo (modWatch s k n kept fun w => { w with loc := pa }) k n kept pa q
        | .wait => (.ok none, modWatch s k n kept fun w => { w with loc := pa })
        | .chain => (.error Reason.migchain, s)
        | .stale => (.error Reason.migstale, s)
    | (_, s) => (.error reason, s)

/-- The check that a read of a watched word meets: at the issuer's gateway while the watch is where it was named, at the
destination once it was passed on. -/
def watchError (s : State) (k n : Nat) (w : Watch) : Option Nat :=
  let mode := (getCtx s k n).mode
  if w.loc = w.named then accessError s k mode w.loc 8 false false else destinationError s k mode w.loc 8 false false

/-- The value of a watched word of main memory. -/
def watchMain (s : State) (k n : Nat) (kept : Bool) (acc : Acc) (w : Watch) : Except Nat (Option Nat) × State :=
  match routeWatch s k n kept acc w with
  | (.ok (some pa), s) =>
    if heldForCommit s pa 8 then (.ok none, s)
    else let s := homeRead s (lineOf pa) none; (.ok (some (readLE s.mem pa 8)), s)
  | r => r

/-- The value of a watched word as its home sends it to the waiting core: the value, an error reason, or nothing while the
home serves no access. It is no access that conflicts with a transaction. -/
def watchRead (s : State) (k n : Nat) (kept : Bool) (acc : Acc) (w : Watch) : Except Nat (Option Nat) × State :=
  if ownWord ≤ w.loc then (.ok (some (leNat (spmRead (getCore s k) (w.loc - ownWord) 8))), s)
  else match watchError s k n w with
    | some reason => (.error reason, s)
    | none =>
      if isMain w.loc then watchMain s k n kept acc w
      else if isSpm w.loc then
        let t := windowCore w.loc
        if (getCore s t).launch == (getCore s k).launch then (.ok (some (leNat (spmRead (getCore s t) (windowByte w.loc) 8))), s)
        else match savedOf s t (getCore s k).launch with
          | some img =>
            let at_ := fun i => imageAddr img (imageRemap s img) (windowByte w.loc + i)
            if heldForCommit s (at_ 0) 8 then (.ok none, s)
            else (.ok (some (leNat ((List.range 8).map fun i => byteAt s.mem (at_ i)))), s)
          | none => (.ok none, s)
      else (.ok none, s)

/-- The error response of a watch: logged, and a deferred trap of the waiting context (14 R302). -/
def watchFails (s : State) (k n : Nat) (w : Watch) (reason : Nat) : State :=
  raiseDeferred (logAccess s k n w.loc 1 reason) k n (reasonCause reason) (BitVec.ofNat 64 w.va)

/-- The test of a wait on a word: satisfied by a value. -/
def waitTest (w : Wait) (v : Nat) : Bool :=
  match w with
  | .word _ value _ _ => decide (value ≤ v)
  | .ticket _ t => decide ((v % 2 ^ 32 + (2 ^ 32 - t % 2 ^ 32)) % 2 ^ 32 < 2 ^ 31)
  | _ => false

/-- A wait on a word ends with a status in rd. -/
def endWordWait (c : Context) (kept : Bool) (status : Int) : Context :=
  let rd := match waitAt c kept with | some (.word _ _ _ rd) => rd | _ => 0
  let g := writeX c.regs rd (wordOf status)
  if kept then { c with keptWait := some .ended, regs := g } else { c with st := .live, regs := { g with pc := c.regs.pc + 4 } }

/-- A poll of a host word on behalf of a wait is on its way. -/
def watchSent (s : State) (k n : Nat) (w : Watch) : Bool :=
  s.hostq.any fun m => m.watch == some (k, n) && m.window * 2 ^ 38 + m.offset == paOff w.loc

/-- A waiter sees a value: its wait ends when the test holds. -/
def showWord (s : State) (k n : Nat) (kept : Bool) (v : Nat) : State :=
  match waitAt (getCtx s k n) kept with
  | some w => if waitTest w v then modCtx s k n fun c => endWordWait c kept 0 else s
  | none => s

/-- Test one wait with the word as it stands; its home has then taken the watch (19 R364). -/
def testWaiter (s : State) (k n : Nat) (kept : Bool) : State :=
  let c := getCtx s k n
  match waitAt c kept, watchAt c kept with
  | some x, some w =>
    if !c.deferred.isEmpty || !watchReady s k n w || watchUnsent s k w then s
    else match watchRead s k n kept (waitAcc x) w with
      | (.error reason, s) => watchFails s k n w reason
      | (.ok (some v), s) => showWord (modWatch s k n kept fun w => { w with taken := true }) k n kept v
      | (.ok none, s) =>
        if isHost w.loc && w.loc < ownWord && !watchSent s k n w then
          toHost s { id := 0, pkg := pkgOf k, tenant := tenantOf (getCore s k), type := 0x10, window := paOff w.loc / 2 ^ 38,
                     offset := paOff w.loc % 2 ^ 38, len := 8, watch := some (k, n), seq := 0 }
        else s
  | _, _ => s

/-- The value that the last write gave a watched word, where it needs no merge, no way through a tail, and no check turns
the waiter away. -/
def wordValue (s : State) (k n : Nat) (w : Watch) : Option Nat :=
  if ownWord ≤ w.loc then some (leNat (spmRead (getCore s k) (w.loc - ownWord) 8))
  else if (watchError s k n w).isSome then none
  else if isMain w.loc then
    if heldForCommit s w.loc 8 || !pageServes s w.loc false || (dirOf s (lineOf w.loc)).st == .p then none
    else some (readLE s.mem w.loc 8)
  else if isSpm w.loc && (getCore s (windowCore w.loc)).launch == (getCore s k).launch then
    some (leNat (spmRead (getCore s (windowCore w.loc)) (windowByte w.loc) 8))
  else none

/-- A written value ends a context's wait on the word at once, so that no value that satisfies it is missed (05 R128, 19
R364; log entry 26); to another package a home sends values once it has taken the watch. -/
def notifyWait (k n : Nat) (s : State) (kept : Bool) : State :=
  match watchAt (getCtx s k n) kept with
  | none => s
  | some w =>
    if (farFrom k w.named && !w.taken) || watchUnsent s k w then s
    else match wordValue s k n w with
      | none => s
      | some v => if (getCtx s k n).deferred.isEmpty && watchReady s k n w then showWord s k n kept v else s

def notifyCtx (k : Nat) (s : State) (n : Nat) : State := notifyWait k n (notifyWait k n s true) false

/-- Every waiter of the pod sees the words as they stand. -/
def notifyWaiters (s : State) : State := s.cores.foldl (fun s e => (List.range 11).foldl (notifyCtx e.1) s) s

/-- Waiters of a package on a word. -/
def waitersOn (s : State) (pkg word : Nat) : List (Nat × Nat) :=
  (s.cores.filter fun e => pkgOf e.1 == pkg).flatMap fun e =>
    ((List.range 11).filter fun n => (watchesOf (e.2.ctx n)).any fun w => w.loc == word || w.named == word).map fun n => (e.1, n)

/-- WATCH_VALUE -/
def execWatchValue (pkg word : Nat) (s : State) : Out :=
  .next ((waitersOn s pkg word).foldl (fun s w => testWaiter (testWaiter s w.1 w.2 true) w.1 w.2 false) s)

/-- The timeout of a wait has come: the word is tested once more (05 R128); an error response of that read is delivered as one
(14 R302). -/
def timeWait (s : State) (k n : Nat) (kept : Bool) : State :=
  let ends := fun (s : State) (status : Int) => modCtx s k n fun c => endWordWait c kept status
  let c := getCtx s k n
  match waitAt c kept with
  | some (.word w value deadline _) =>
    if deadline = 0 ∨ ownCycle s k < deadline then s
    else if !watchReady s k n w then ends s Status.timeout
    else match watchRead s k n kept .load w with
      | (.ok (some v), s) => ends s (if value ≤ v then 0 else Status.timeout)
      | (.ok none, s) => ends s Status.timeout
      | (.error reason, s) => if c.deferred.isEmpty then watchFails s k n w reason else s
  | _ => s

/-- GWAIT_TIMEOUT -/
def execGwaitTimeout (core ctx : Nat) (s : State) : Out := .next (timeWait (timeWait s core ctx true) core ctx false)

end Sys2Proof.Machine
end

