-- ==== Sys2Proof/Machine/LockExec.lean ====
section
/-! DEFINITION. Gecko locks at their homes: requests, links, releases, handoffs, timeouts, the deadlock search and parked
grants (17 R341 to R347). -/
namespace Sys2Proof.Machine

/-- A lock returns to its home free, or free and poisoned (17 R342, R347). -/
def freeLock (s : State) (line : Nat) (poisoned : Bool) : State :=
  putLock s line (if poisoned then some { line := line, held := false, poison := true } else none)

/-! ### requests (17 R342) -/

/-- The status of an error response to a lock request: HOMELOST or ACCESSERR (05 R134). -/
def lockErrorStatus (reason : Nat) : Int := if reason = Reason.homelost then Status.homelost else Status.accesserr

/-- The error response of a lock request at the address that it names, with its event (05 R130). -/
def lockError (s : State) (k n line : Nat) : Option (Int × State) :=
  (checkAs s k n (getCtx s k n).mode (line * 64) 64 .amo false).map fun reason =>
    (lockErrorStatus reason, logAccess s k n (line * 64) 3 reason)

/-- Queue a waiter behind TAIL and tell its predecessor; a ghost, whose expiry follows it, leaves TAIL as it was. For a
line of another package the home keeps the queue. -/
def enqueue (s : State) (l : Lock) (k n born deadline : Nat) (ghost : Bool) : State :=
  let pred := match l.tail with
    | w :: _ => (w.1, w.2.1)
    | [] => (l.hcore, l.hctx)
  let w : Waiter := (k, n, born, deadline)
  let s := putLock s l.line (some { l with queue := l.queue ++ [w], tail := if ghost then l.tail else w :: l.tail })
  if paPkg (l.line * 64) = pkgOf k ∧ paPkg (l.line * 64) = pkgOf pred.1 then
    send s k n (.succLink l.line pred.1 pred.2 k n)
  else s

/-- The save agent's buffer takes the line of a grant: M at the cluster, in no L1 (17 R345). -/
def bufferLine (s : State) (k line : Nat) : State :=
  let s := mapL1 (homeWrite (l2Take s k line) line (some (clusterIn k))) line (fun _ => false) fun _ => []
  setDir s line { dirOf s line with writer := k + 1 }

/-- The buffer still holds the line: no agent has taken it since. -/
def bufferHas (s : State) (k line : Nat) : Bool :=
  l2Of s line (clusterIn k) == .m && (dirOf s line).writer == k + 1 && (presence s line (clusterIn k)).isEmpty

/-- A grant reaches a saved context: it is parked for qlkpark cycles, with the request that it answers (17 R345). -/
def parkGrant (s : State) (line k n : Nat) (once : Option Nat) (rest : List Waiter) (poisoned withLine : Bool) : State :=
  let s := grantAborts s line
  let s := putLock s line (some (heldLock s line k n rest poisoned))
  match requestOf (getCtx s k n) once with
  | none => s
  | some w =>
    let s := modCtx s k n fun c =>
      if once.isSome then { c with lockTries := c.lockTries.filter (· != w) } else { c with lockWait := none }
    modCore (if withLine then bufferLine s k line else s) k fun c => { c with parkedGrants := c.parkedGrants ++
      [{ ctx := n, line := line, deadline := ownCycle s k + c.qlkpark.toNat, poisoned := poisoned, wait := w, once := once,
         carried := withLine }] }

/-- A lock is granted to a context, or to the save agent of a saved one. -/
def grantNow (s : State) (line k n : Nat) (once : Option Nat) (queue : List Waiter) (poisoned withLine : Bool) : State :=
  let withLine := withLine && carriesLine s line k
  if 16 ≤ n then parkGrant s line k n once queue poisoned withLine else grantTo s line k n once queue poisoned withLine

/-- Apply a request at the home (17 R342). -/
def applyRequest (s : State) (line k n deadline born : Nat) (once : Bool) : State :=
  match lockOf s line with
  | none => grantNow s line k n (tryOf once born) [] false true
  | some l =>
    if l.held = false then grantNow s line k n (tryOf once born) [] true true
    else if once then completeTry s k n born Status.busy
    else enqueue s l k n born deadline false

/-- The request of a waiter that has left joins the queue as a ghost; a lock with no entry, or a free one, goes to the ghost,
which returns it at once (17 R344), after the grant's aborts (17 R339). -/
def applyGhost (s : State) (line k n deadline born : Nat) : State :=
  match lockOf s line with
  | some l =>
    if l.held then enqueue s l k n born deadline true else dropGhost (grantAborts s line) line (k, n, born, deadline)
  | none => dropGhost (grantAborts s line) line (k, n, born, deadline)

/-- A request knows now which line it is for: its page has moved since the issue. -/
def settleLine (s : State) (k n born line : Nat) (w : LockWait) : State :=
  let at_ := fun (o : LockWait) => if o.born = born then { o with line := line } else o
  let st := fun (x : Wait) => if x = .lock w.line then Wait.lock line else x
  if w.line = line then s
  else modCtx s k n fun c => { c with
    lockWait := c.lockWait.map at_, lockTries := c.lockTries.map at_,
    st := (match c.st with | .waiting x => .waiting (if w.rd = 0 then st x else x) | x => x), keptWait := c.keptWait.map st }

/-- The request of a waiter that has left, by its line. -/
def ghostRequest (s : State) (m : Msg) (line deadline born : Nat) : State :=
  if requestHeld s line m.core then s
  else
    let s := dropMsg s m.id
    if homeGone s (line * 64) then dropGhost s line (m.core, m.ctx, born, deadline)
    else applyGhost s line m.core m.ctx deadline born

/-- The home answers a request with an error response: the status, and the event (05 R130). -/
def refuseRequest (s : State) (m : Msg) (once : Bool) (born : Nat) (e : Int × State) : State :=
  completeFor (dropMsg e.2 m.id) m.core m.ctx (tryOf once born) e.1

/-- A request whose context waits, at the home that serves its page now: through tails, and after one walk where a tail or
a stale mark does not forward (19 R371, R374). One whose timeout has expired joins the queue as the ghost that its core records
(17 R344), once the table has room (log entry 80). -/
def liveRequest (s0 : State) (m : Msg) (once : Bool) (born deadline : Nat) (w : LockWait) : State :=
  let k := m.core
  let n := m.ctx
  match served s0 k n (getCtx s0 k n).mode (rgnAs s0 k n) w.va w.pa 64 .amo false with
  | (.wait, _) => s0
  | (.error q reason, s) => refuseRequest s m once born (lockErrorStatus reason, logAccess s k n q 3 reason)
  | (.at_ q, s) =>
    let line := lineOf q
    if requestHeld s line k then s0
    else
      let s := settleLine s k n born line w
      match (if q = w.pa then lockError s k n line else none) with
      | some e => refuseRequest s m once born e
      | none =>
        if expired s k w then
          if ghostFree s k then
            applyGhost (addGhost (completeFor (dropMsg s m.id) k n (tryOf once born) Status.timeout) k n { w with line := line })
              line k n deadline born
          else s0
        else applyRequest (dropMsg s m.id) line k n deadline born once

/-- A lock message has yet to arrive at its home: it waits at its core, or behind an earlier request of its lane (16 R324). -/
def lockComing (s : State) (m : Msg) : Bool :=
  match lockPa s m with
  | some pa => lockUnsent s m pa || (farFrom m.core pa && laneBehind s m.core m.id pa)
  | none => false

/-- LOCK_REQUEST -/
def execLockRequest (id : Nat) (s : State) : Out :=
  match findMsg s id with
  | none => .next s
  | some m => match m.kind with
    | .lockReq line0 deadline once born =>
      if lockComing s m ∨ imageHeld s m.core m.ctx = true then .next s
      else match (requestOf (getCtx s m.core m.ctx) (tryOf once born)).filter fun w => w.born == born with
      | some w => .next (liveRequest s m once born deadline w)
      | none => .next (ghostRequest s m (lineNow s line0) deadline born)
    | _ => .next s

/-- Waiter q was told of predecessor p (17 R342). -/
def standsBehind (l : Lock) (p q : Nat × Nat) : Bool :=
  let chain := (l.tail.map fun w => (w.1, w.2.1)) ++ [(l.hcore, l.hctx)]
  (chain.zip (chain.drop 1)).any fun e => e.1 == q && e.2 == p

/-- SUCCESSOR_LINK -/
def execSuccessorLink (id : Nat) (s : State) : Out :=
  match findMsg s id with
  | none => .next s
  | some m => match m.kind with
    | .succLink line pcore pctx score sctx =>
      let s := dropMsg s id
      match lockOf s line with
      | none => .next s
      | some l =>
        if l.held && standsBehind l (pcore, pctx) (score, sctx) then
          .next (modCore s pcore fun c =>
            let c := dropSuccessor c line pctx
            { c with succs := c.succs ++ [(line, pctx, score, sctx)] })
        else .next s
    | _ => .next s

/-! ### releases and handoffs (17 R342 to R345, R347) -/

/-- Give the lock to the first waiter of a queue that has not left; ghosts pass it on (17 R344). -/
def handOn (s : State) (line : Nat) (poisoned withLine : Bool) : List Waiter → State
  | [] => freeLock s line poisoned
  | w :: ws =>
    if isGhost s line w then handOn (passGhost s line w) line poisoned withLine ws
    else grantNow s line w.1 w.2.1 none ws poisoned withLine

/-- The releasing core still holds the line, in its L1 or in its save agent's buffer (17 R343, R345). -/
def stillHolds (s : State) (k line : Nat) : Bool := (l1Find (getCore s k) line).isSome || bufferHas s k line

/-- Whether a release waits: for what it orders (05 R132), for a page in handover, for a commit on the line or on the image of a
waiter, or for a way of the successor's L2. -/
def handOnWaits (s : State) (m : Msg) (line : Nat) : Bool :=
  releaseBehind s m.core m.ctx m.id || lockHeldUp s line || grantHeld s line ||
  (match lockOf s line with
    | some l => (l.queue.any fun w => imageHeld s w.1 w.2.1) || match l.queue.find? fun w => !isGhost s line w with
      | some w => stillHolds s m.core line && carriesLine s line w.1 && !l2Room s w.1 line
      | none => false
    | none => false)

/-- The holder's release is applied at the entry of the line. -/
def applyRelease (s : State) (m : Msg) (line : Nat) (poisoned : Bool) : State :=
  let s := dropMsg s m.id
  match lockOf s line with
  | none => s
  | some l =>
    if l.held && l.hcore == m.core && l.hctx == m.ctx then handOn s line poisoned (stillHolds s m.core line) l.queue else s

/-- LOCK_RELEASE_HOME: the entry is freed, or a later waiter gets the lock. -/
def execLockReleaseHome (id : Nat) (s : State) : Out :=
  match findMsg s id with
  | none => .next s
  | some m => match m.kind with
    | .lockRel line0 poisoned =>
      let line := lineNow s line0
      .next (if lockComing s m || handOnWaits s m line then s else applyRelease s m line poisoned)
    | _ => .next s

/-- LOCK_HANDOFF -/
def execLockHandoff (id : Nat) (s : State) : Out :=
  match findMsg s id with
  | none => .next s
  | some m => match m.kind with
    | .handoff line0 _ _ poisoned =>
      let line := lineNow s line0
      .next (if handOnWaits s m line then s else applyRelease s m line poisoned)
    | _ => .next s

/-! ### waiters that leave (17 R344, R346) -/

/-- LOCK_TIMEOUT: the waiter's link takes an entry of the ghost table (log entry 80). -/
def execLockTimeout (core ctx : Nat) (s : State) : Out :=
  match (getCtx s core ctx).lockWait with
  | none => .next s
  | some w =>
    if w.deadline = 0 ∨ ownCycle s core < w.deadline ∨ ghostFree s core = false ∨ imageHeld s core ctx = true then .next s
    else .next (leaveAsGhost s core ctx Status.timeout)

/-- DEADLOCK_SEARCH: the youngest waiter of a cycle leaves; the home that searches logs the victim and the members (17 R346; log
entry 44). -/
def execDeadlockSearch (core ctx : Nat) (s : State) : Out :=
  match (getCtx s core ctx).lockWait with
  | none => .next s
  | some w =>
    if s.cycle < w.born + 65536 then .next s
    else
      let members := cycleFrom s w.line (s.locks.length + 1) w.line []
      match youngest members with
      | none => .next s
      | some (_, k, n) => match (getCtx s k n).lockWait with
        | none => .next s
        | some v =>
          if ghostFree s k = false ∨ imageHeld s k n = true then .next s
          else
            let names := Config.cycleMembers (members.map fun m => (m.2.1, eventCtx m.2.2))
            .next (leaveAsGhost (postAt s (paPkg (w.line * 64)) k n 3 0 (BitVec.ofNat 64 (v.line * 64)) names 0) k n Status.deadlock)

/-- GRANT_PARK_EXPIRY: the save agent hands the lock on as lk.rel would, and the image's rd is SKIPPED (17 R345). -/
def execGrantParkExpiry (core ctx : Nat) (s : State) : Out :=
  match (getCore s core).parkedGrants.find? fun g =>
      (g.ctx == ctx || (decide (ctx < 16) && g.ctx % 16 == ctx)) && decide (g.deadline ≤ ownCycle s core) with
  | none => .next s
  | some g =>
    if imageHeld s core g.ctx then .next s
    else
      let s := modCore s core fun c => { c with parkedGrants := c.parkedGrants.filter fun o => o != g }
      let s := completeRequest s core g.ctx g.wait Status.skipped
      match successorOf (getCore s core) g.line g.ctx with
      | some t => .next (send (modCore s core fun c => dropSuccessor c g.line g.ctx) core g.ctx (.handoff g.line t.1 t.2 false))
      | none => .next (send s core g.ctx (.lockRel g.line false))

end Sys2Proof.Machine
end

