-- ==== Sys2Proof/Machine/TxExec.lean ====
section
/-! DEFINITION. Transactions at the homes: abort messages, prepare, the commit point and the releases (05 R139, 17 R337,
R338). -/
namespace Sys2Proof.Machine

/-- TX_ABORT_MESSAGE: the context rolls back at its next instruction boundary; without a transaction the message is
discarded (17 R337). -/
def execTxAbortMessage (core ctx : Nat) (s : State) : Out :=
  match (getCtx s core ctx).abortMsg with
  | none => .next s
  | some (cause, addr) =>
    if (getCtx s core ctx).tx.isSome then .next (abortCtx s core ctx cause 0 addr)
    else .next (modCtx s core ctx fun c => { c with abortMsg := none })

/-- The homes of a transaction's tiles, ascending (17 R338). -/
def txHomes (t : Tx) : List Nat :=
  let hs := (txTiles t ++ t.spilled.map (·.1)).map fun x => homeOf (x * 512)
  (List.range 16).filter fun h => hs.contains h

/-- The homes that have yet to mark the transaction's tiles. -/
def txUnmarked (t : Tx) : List Nat :=
  match t.phase with
  | .running => txHomes t
  | .preparing marked => (txHomes t).filter fun h => !marked.contains h

/-- The context's transaction when it waits for its commit and no abort is on its way. -/
def committing (c : Context) : Option Tx :=
  match c.st, c.abortMsg, c.tx with
  | .waiting .commit, none, some t => some t
  | _, _, _ => none

/-- TX_PREPARE: homes are sent to in ascending order. -/
def execTxPrepare (core ctx home : Nat) (s : State) : Out :=
  match committing (getCtx s core ctx) with
  | none => .next s
  | some t =>
    if (txUnmarked t).head? = some home then
      .next (modCtx s core ctx fun c => { c with tx := some { t with phase := .preparing ((match t.phase with
        | .running => []
        | .preparing marked => marked) ++ [home]) } })
    else .next s

/-- The lines that a transaction wrote. -/
def writtenLines (t : Tx) : List Nat := (t.spec.map fun e => lineOf e.1).eraseDups

/-- The transaction wrote every byte of a line. -/
def wroteWhole (t : Tx) (line : Nat) : Bool := (List.range 64).all fun i => fhas t.spec (line * 64 + i)

/-- The speculative bytes become memory: the lines are M at the cluster (17 R338), and lines written whole are no longer
poisoned (12 R273). -/
def commitBytes (s : State) (k : Nat) (t : Tx) : State :=
  let s := (writtenLines t).foldl (fun s line => homeWrite (l2Take s k line) line (some (clusterIn k))) s
  { s with mem := t.spec.foldl (fun m e => putBytes m e.1 [e.2]) s.mem, poison := s.poison.filter fun l => !wroteWhole t l }

/-- The context's speculative lines become M, other copies are gone. -/
def commitLines (s : State) (k n : Nat) (t : Tx) : State :=
  let s := (writtenLines t).foldl (fun s line => if (getCore s k).l1.any fun l => l.line == line && l.spec.contains n then
    l1AfterWrite s k line else s) s
  modCore s k fun c => { c with l1 := c.l1.map fun l => { l with spec := l.spec.filter (· != n) } }

/-- One reduction of the log is performed as a reduction store of the cluster (05 R139 step 2). -/
def commitReduce (s : State) (k n : Nat) (e : Nat × Nat × Word) : State :=
  let (pa, tag, v) := e
  let foes := (openTxs s (paPkg pa)).filter fun h => !(h.1 == k && h.2.1 == n) && h.2.2.writeSet.contains (tileOf pa)
  let s := abortLosers s (tileOf pa) Abort.nontx (foes.map fun h => (h.1, h.2.1))
  partialAdd (homeReduce (l2Take s k (lineOf pa)) (lineOf pa) (clusterIn k) tag) pa (clusterIn k) tag v.toNat

/-- Held copies are dispatched in program order, behind the engine commands before them; each then takes its scoreboard
ranges (05 R146). -/
def commitCopies (s : State) (k : Nat) : List CopyCmd → State
  | [] => s
  | x :: xs =>
    commitCopies (modCore { s with nextId := s.nextId + 1 } k fun c => { c with cq := c.cq ++ [{ x with order := s.nextId, ranged := false }] }) k xs

/-- The releases to the homes. -/
def commitReleases (s : State) (k n : Nat) (t : Tx) : State :=
  (txHomes t).foldl (fun s h => send s k n (.txRelease h ((txTiles t ++ t.spilled.map (·.1)).filter fun x => homeOf (x * 512) == h))) s

/-- TX_PREPARE_ACK: the last acknowledgement is the commit point (05 R139, 17 R338). -/
def commit (s : State) (k n : Nat) (t : Tx) : State :=
  let s := commitLines (commitBytes s k t) k n t
  let s := modCtx s k n fun c => { c with
    tx := none, age := none, st := .live, regs := { c.regs with pc := c.regs.pc + 4 } }
  let s := { s with reqs := s.reqs.map fun r => if r.core == k && r.ctx == n then { r with tx := false } else r }
  let s := t.redLog.foldl (fun s e => commitReduce s k n e) s
  modCore (commitCopies (commitReleases s k n t) k t.copies) k fun c => takeRanges c c.cq

/-- The commit meets no other committing transaction at a word of its reduction log (17 R338), and the L2 has ways for its
lines. -/
def commitRoom (s : State) (k n : Nat) (t : Tx) : Bool :=
  (t.redLog.all fun e => judge s k n true .reduce e.1 != .hold) &&
  l2Rooms s k (writtenLines t ++ t.redLog.map fun e => lineOf e.1)

def execTxPrepareAck (core ctx : Nat) (s : State) : Out :=
  match committing (getCtx s core ctx) with
  | none => .next s
  | some t => if txUnmarked t = [] ∧ commitRoom s core ctx t = true then .next (commit s core ctx t) else .next s

/-- TX_RELEASE: the home clears the overlay and serves what it held. -/
def execTxRelease (core ctx home : Nat) (s : State) : Out :=
  match s.msgs.find? fun m => m.core == core && m.ctx == ctx && (match m.kind with | .txRelease h _ => h == home | _ => false) with
  | none => .next s
  | some m => .next (dropMsg s m.id)

end Sys2Proof.Machine
end

