-- ==== Sys2Proof/Machine/Deliver.lean ====
section
/-! DEFINITION. What is taken at an instruction boundary: upcalls, deferred traps, the doorbell interrupt, the watchdog and
the end of a yield; firmware's answer to a fault of the runtime (04 R86; 12 R257 to R259, R263; 02 R42; 20 R385). -/
namespace Sys2Proof.Machine

/-! ### abandoning a wait (12 R257) -/

/-- The wait of a context ends without its result: rd is no longer pending, and a lock request leaves its queue (log
entry 20). -/
def abandonWait (s : State) (k n : Nat) : State :=
  match (getCtx s k n).st with
  | .waiting (.lock _) => leaveQueues s k n fun w => w.rd == 0
  | .waiting _ => modCtx s k n dropWait
  | _ => s

/-! ### upcalls (12 R258, R259) -/

/-- Context 0 may take an upcall cause: U mode, outside a transaction, live (12 R258). -/
def mayDeliver (c : Context) : Bool :=
  c.mode == .u && c.tx.isNone && (match c.st with | .free => false | .reserved => false | .held _ => false | _ => true)

def isPageFault (code : Nat) : Bool := code == 12 || code == 13 || code == 15

/-- The cause goes to S mode: a page fault on the faulting context, any other on context 0 (12 R258). A context that has
ended since takes nothing (04 R82). -/
def upcallAsTrap (s : State) (k : Nat) (u : UpcallRec) : State :=
  let n := if isPageFault u.code then u.ctx else 0
  match (getCtx s k n).st with
  | .free => s
  | .reserved => s
  | _ => enterTrap (abandonWait s k n) k n u.code u.value

/-- The upcall that a core may deliver now. -/
def dueUpcall (s : State) (k : Nat) : Option UpcallRec :=
  let c := getCore s k
  match c.upq with
  | [] => none
  | u :: _ =>
    if mayDeliver (c.ctx 0) && !(upcallsOn c && upcallActive c) && !inOp c then some u else none
where
  inOp (c : Core) : Bool := c.preempting

/-- UPCALL_DELIVERY -/
def execUpcallDelivery (core : Nat) (s : State) : Out :=
  match dueUpcall s core with
  | none => .next s
  | some u =>
    let s := modCore s core fun c => { c with upq := c.upq.tail }
    if upcallsOn (getCore s core) then .next (enterUpcall s core u (getCtx s core 0).regs.pc)
    else .next (upcallAsTrap s core u)

/-! ### deferred traps (12 R257, R274) -/

/-- HOMELOST and QUIESCE: context 0 takes them first (12 R274). -/
def checkpointCause (code : Nat) : Bool := code == Cause.homelost || code == Cause.quiesce

/-- The deferred trap that a context takes at its boundary. -/
def dueTrap (s : State) (k n : Nat) : Option Deferred :=
  let co := getCore s k
  let c := co.ctx n
  match c.deferred with
  | [] => none
  | d :: _ =>
    if c.mode == .u && c.tx.isNone && c.st != .free && c.st != .reserved && !inCtxOp co n && !co.preempting && decide (n < 16) &&
        !(n != 0 && checkpointCause d.code && (co.ctx 0).deferred.any fun e => e.code == d.code) then some d
    else none

/-- DEFERRED_TRAP -/
def execDeferredTrap (core ctx : Nat) (s : State) : Out :=
  match dueTrap s core ctx with
  | none => .next s
  | some d =>
    let s := modCtx (abandonWait s core ctx) core ctx fun c => { c with deferred := c.deferred.tail }
    .next (enterTrap s core ctx d.code d.value)

/-! ### the doorbell interrupt (20 R385) -/

/-- Context 0 takes the supervisor external interrupt now. -/
def interruptDue (s : State) (k : Nat) : Bool :=
  let co := getCore s k
  let c := co.ctx 0
  interruptPending co 0 && c.st != .free && !co.preempting && !co.quarantined &&
    (c.mode == .u || (c.mode == .s && c.mstatus.getLsbD 1))

/-- A wfi is over when an interrupt comes: the interrupt is taken on the next instruction (the standard). -/
def passWfi (c : Context) : Context :=
  match c.st with
  | .waiting .wfi => { c with regs := { c.regs with pc := c.regs.pc + 4 } }
  | _ => c

/-- INTERRUPT_TAKE: a transaction aborts with FAULT first; taking it clears SEIP and ends a halt, during which the
watchdog was suspended (04 R113). -/
def execInterruptTake (core : Nat) (s : State) : Out :=
  if interruptDue s core = false then .next s
  else
    let s := modCtx (abandonWait (abortCtx s core 0 Abort.fault 0 0) core 0) core 0 passWfi
    let s := modCore s core fun c => { c with
      mip := putBit c.mip 9 false, lastIssue := if c.halted then ownCycle s core else c.lastIssue, halted := false }
    .next (modCtx s core 0 fun c => enterS (getCore s core) c true 9 0)

/-! ### watchdog and yield -/

/-- A context of the core is live. -/
def anyLive (c : Core) : Bool := c.ctxs.any fun e => decide (e.1 < 16) && e.2.st != .free && e.2.st != .reserved

/-- WATCHDOG: no issue for WDOG x 65,536 cycles of the core; the second expiry without an issue between is direct containment (02
R42, 12 R255; log entry 21). -/
def execWatchdog (core : Nat) (s : State) : Out :=
  let c := getCore s core
  let w := bitsOf c.qcont 39 16
  if w = 0 ∨ c.launch = none ∨ anyLive c = false ∨ c.halted = true ∨ c.preempting = true ∨ ownCycle s core < c.lastIssue + w * 65536 then .next s
  else if c.wdogs = 0 then
    .next (raiseDeferred (modCore s core fun c => { c with wdogs := 1, lastIssue := ownCycle s core }) core 0 Cause.watchdog 0)
  else .next (containDirect s core 0 Cause.watchdog 0)

/-- YIELD_WINDOW_END -/
def execYieldWindowEnd (core ctx : Nat) (s : State) : Out :=
  match (getCtx s core ctx).st with
  | .waiting (.yield deadline others) =>
    if deadline ≤ ownCycle s core ∨ others = [] then .next (modCtx s core ctx fun c => { c with st := .live })
    else .next s
  | _ => .next s

end Sys2Proof.Machine
end

