-- ==== Sys2Proof/Machine/FScalar.lean ====
section
/-! DEFINITION. The single-precision instructions (03 R54, 00 R6, R7): results, flags and rounding modes as the ratified
standard has them; the interlock of f registers (02 R27). -/
namespace Sys2Proof.Machine

/-- The rounding mode of a standard F instruction: rm, or fcsr.frm for 111; none when it is no standard mode. -/
def frmOf (s : State) (rm : BitVec 3) : Option Nat :=
  let m := if rm = 7 then (regs s).frm.toNat else rm.toNat
  if m ≤ 4 then some m else none

/-- The value of f[r]. -/
def fv (s : State) (r : BitVec 5) : FVal := decodeF fp32 (readF (regs s) r.toNat).toNat

/-- Check the rounding mode at issue, before presence (03 R52, R54), then wait for the operands. -/
def withRm (i : Instr) (rm : BitVec 3) (d : Needs) (body : Nat → State → Out) (s : State) : Out :=
  match frmOf s rm with
  | none => illegal s (wordOfInstr i)
  | some m => issueTx d (body m) s

/-- Write f[rd] and the flags, and retire. -/
def retireF (s : State) (rd : BitVec 5) (r : Nat × Nat) : State :=
  retire (accrue (modRegs s fun g => writeF g rd.toNat (BitVec.ofNat 32 r.1)) r.2)

/-- Write x[rd] and the flags, and retire. -/
def retireXF (s : State) (rd : BitVec 5) (v : Word) (fl : Nat) : State := retireX (accrue s fl) rd v

/-- A result that F_RESULT_WRITTEN delivers: the f register is locked until then (02 R27). -/
def lateF (s : State) (rd : BitVec 5) (r : Nat × Nat) : State :=
  retire (issueReq (accrue s r.2) .compute (.f rd.toNat)
    [{ pa := 0, va := 0, n := 4, done := true, res := r.1, own := true }] none none false)

/-- a * b + c of f registers, with signs of the product and of c. -/
def fusedF (i : Instr) (np nc : Bool) (rd rs1 rs2 rs3 : BitVec 5) (rm : BitVec 3) (s : State) : Out :=
  withRm i rm { fr := [rs1, rs2, rs3, rd] } (fun m s =>
    let sg := fun (n : Bool) (v : FVal) => if n then v.neg else v
    .next (retireF s rd (fMulAdd fp32 m 0 (sg np (fv s rs1)) (fv s rs2) (sg nc (fv s rs3))))) s

/-- Sign injection: the sign bit is f of the two sign bits. -/
def signF (f : Bool → Bool → Bool) (rd rs1 rs2 : BitVec 5) (s : State) : Out :=
  issueTx { fr := [rs1, rs2, rd] } (fun s =>
    let a := readF (regs s) rs1.toNat
    let b := readF (regs s) rs2.toNat
    .next (retireF s rd ((putBit a 31 (f (a.getLsbD 31) (b.getLsbD 31))).toNat, 0))) s

def minMaxF (isMax : Bool) (rd rs1 rs2 : BitVec 5) (s : State) : Out :=
  issueTx { fr := [rs1, rs2, rd] } (fun s =>
    .next (retireF s rd (fMinMax fp32 isMax (readF (regs s) rs1.toNat).toNat (readF (regs s) rs2.toNat).toNat))) s

/-- A comparison into x[rd]: a NaN gives 0; `quiet` raises NV for signalling NaNs only. -/
def compareF (f : FVal → FVal → Bool) (quiet : Bool) (rd rs1 rs2 : BitVec 5) (s : State) : Out :=
  issueTx { fr := [rs1, rs2], xw := [rd] } (fun s =>
    let a := fv s rs1
    let b := fv s rs2
    let nv := if quiet then a.isSignalling || b.isSignalling else a.isNaN || b.isNaN
    .next (retireXF s rd (if f a b then 1 else 0) (flagNV nv))) s

/-- Conversion to an integer of w bits; 32-bit results are sign-extended (the standard). -/
def toIntF (i : Instr) (w : Nat) (signed : Bool) (rd rs1 : BitVec 5) (rm : BitVec 3) (s : State) : Out :=
  withRm i rm { fr := [rs1], xw := [rd] } (fun m s =>
    let r := fToInt m w signed (fv s rs1)
    .next (retireXF s rd (wordOf (signedOf w (wrapTo w r.1))) r.2)) s

/-- Conversion of an integer of w bits. -/
def ofIntF (i : Instr) (w : Nat) (signed : Bool) (rd rs1 : BitVec 5) (rm : BitVec 3) (s : State) : Out :=
  withRm i rm { xr := [rs1], fr := [rd] } (fun m s =>
    let n := xn s rs1 % 2 ^ w
    .next (retireF s rd (roundVal fp32 m 0 (ofInt (if signed then signedOf w n else n))))) s

/-- flw: the result is written by F_RESULT_WRITTEN (02 R27) -/
def execFlw (rd rs1 : BitVec 5) (imm : BitVec 12) (s : State) : Out :=
  issueTx { xr := [rs1], fr := [rd] } (fun s =>
    scalarAccess s (xr s rs1 + immI imm) 4 .load Cause.loadMisaligned fun ps s =>
      .next (retire (issueReq s .load (.f rd.toNat) ps none none false))) s

/-- fsw -/
def execFsw (rs2 rs1 : BitVec 5) (imm : BitVec 12) (s : State) : Out :=
  issueTx { xr := [rs1], fr := [rs2] } (fun s =>
    storeAt s (xr s rs1 + immI imm) 4 (readF (regs s) rs2.toNat).toNat) s

/-- fmadd.s -/
def execFmaddS (rd rs1 rs2 rs3 : BitVec 5) (rm : BitVec 3) (s : State) : Out :=
  fusedF (.fmaddS rd rs1 rs2 rs3 rm) false false rd rs1 rs2 rs3 rm s

/-- fmsub.s -/
def execFmsubS (rd rs1 rs2 rs3 : BitVec 5) (rm : BitVec 3) (s : State) : Out :=
  fusedF (.fmsubS rd rs1 rs2 rs3 rm) false true rd rs1 rs2 rs3 rm s

/-- fnmsub.s -/
def execFnmsubS (rd rs1 rs2 rs3 : BitVec 5) (rm : BitVec 3) (s : State) : Out :=
  fusedF (.fnmsubS rd rs1 rs2 rs3 rm) true false rd rs1 rs2 rs3 rm s

/-- fnmadd.s -/
def execFnmaddS (rd rs1 rs2 rs3 : BitVec 5) (rm : BitVec 3) (s : State) : Out :=
  fusedF (.fnmaddS rd rs1 rs2 rs3 rm) true true rd rs1 rs2 rs3 rm s

/-- fadd.s -/
def execFaddS (rd rs1 rs2 : BitVec 5) (rm : BitVec 3) (s : State) : Out :=
  withRm (.faddS rd rs1 rs2 rm) rm { fr := [rs1, rs2, rd] } (fun m s =>
    .next (retireF s rd (fAdd fp32 m 0 (fv s rs1) (fv s rs2)))) s

/-- fsub.s -/
def execFsubS (rd rs1 rs2 : BitVec 5) (rm : BitVec 3) (s : State) : Out :=
  withRm (.fsubS rd rs1 rs2 rm) rm { fr := [rs1, rs2, rd] } (fun m s =>
    .next (retireF s rd (fSub fp32 m 0 (fv s rs1) (fv s rs2)))) s

/-- fmul.s -/
def execFmulS (rd rs1 rs2 : BitVec 5) (rm : BitVec 3) (s : State) : Out :=
  withRm (.fmulS rd rs1 rs2 rm) rm { fr := [rs1, rs2, rd] } (fun m s =>
    .next (retireF s rd (fMul fp32 m 0 (fv s rs1) (fv s rs2)))) s

/-- fdiv.s -/
def execFdivS (rd rs1 rs2 : BitVec 5) (rm : BitVec 3) (s : State) : Out :=
  withRm (.fdivS rd rs1 rs2 rm) rm { fr := [rs1, rs2, rd] } (fun m s =>
    .next (lateF s rd (fDiv fp32 m 0 (fv s rs1) (fv s rs2)))) s

/-- fsqrt.s -/
def execFsqrtS (rd rs1 : BitVec 5) (rm : BitVec 3) (s : State) : Out :=
  withRm (.fsqrtS rd rs1 rm) rm { fr := [rs1, rd] } (fun m s =>
    .next (lateF s rd (fSqrt fp32 m 0 (fv s rs1)))) s

/-- fsgnj.s -/
def execFsgnjS (rd rs1 rs2 : BitVec 5) (s : State) : Out :=
  signF (fun _ b => b) rd rs1 rs2 s

/-- fsgnjn.s -/
def execFsgnjnS (rd rs1 rs2 : BitVec 5) (s : State) : Out :=
  signF (fun _ b => !b) rd rs1 rs2 s

/-- fsgnjx.s -/
def execFsgnjxS (rd rs1 rs2 : BitVec 5) (s : State) : Out :=
  signF (fun a b => a != b) rd rs1 rs2 s

/-- fmin.s -/
def execFminS (rd rs1 rs2 : BitVec 5) (s : State) : Out :=
  minMaxF false rd rs1 rs2 s

/-- fmax.s -/
def execFmaxS (rd rs1 rs2 : BitVec 5) (s : State) : Out :=
  minMaxF true rd rs1 rs2 s

/-- fle.s -/
def execFleS (rd rs1 rs2 : BitVec 5) (s : State) : Out :=
  compareF (fun a b => ltVal a b || eqVal a b) false rd rs1 rs2 s

/-- flt.s -/
def execFltS (rd rs1 rs2 : BitVec 5) (s : State) : Out :=
  compareF (ltVal) false rd rs1 rs2 s

/-- feq.s -/
def execFeqS (rd rs1 rs2 : BitVec 5) (s : State) : Out :=
  compareF (eqVal) true rd rs1 rs2 s

/-- fcvtWS -/
def execFcvtWS (rd rs1 : BitVec 5) (rm : BitVec 3) (s : State) : Out :=
  toIntF (.fcvtWS rd rs1 rm) 32 true rd rs1 rm s

/-- fcvtWuS -/
def execFcvtWuS (rd rs1 : BitVec 5) (rm : BitVec 3) (s : State) : Out :=
  toIntF (.fcvtWuS rd rs1 rm) 32 false rd rs1 rm s

/-- fcvtLS -/
def execFcvtLS (rd rs1 : BitVec 5) (rm : BitVec 3) (s : State) : Out :=
  toIntF (.fcvtLS rd rs1 rm) 64 true rd rs1 rm s

/-- fcvtLuS -/
def execFcvtLuS (rd rs1 : BitVec 5) (rm : BitVec 3) (s : State) : Out :=
  toIntF (.fcvtLuS rd rs1 rm) 64 false rd rs1 rm s

/-- fcvtSW -/
def execFcvtSW (rd rs1 : BitVec 5) (rm : BitVec 3) (s : State) : Out :=
  ofIntF (.fcvtSW rd rs1 rm) 32 true rd rs1 rm s

/-- fcvtSWu -/
def execFcvtSWu (rd rs1 : BitVec 5) (rm : BitVec 3) (s : State) : Out :=
  ofIntF (.fcvtSWu rd rs1 rm) 32 false rd rs1 rm s

/-- fcvtSL -/
def execFcvtSL (rd rs1 : BitVec 5) (rm : BitVec 3) (s : State) : Out :=
  ofIntF (.fcvtSL rd rs1 rm) 64 true rd rs1 rm s

/-- fcvtSLu -/
def execFcvtSLu (rd rs1 : BitVec 5) (rm : BitVec 3) (s : State) : Out :=
  ofIntF (.fcvtSLu rd rs1 rm) 64 false rd rs1 rm s

/-- fmv.x.w -/
def execFmvXW (rd rs1 : BitVec 5) (s : State) : Out :=
  issueTx { fr := [rs1], xw := [rd] } (fun s =>
    .next (retireX s rd (sx32 (readF (regs s) rs1.toNat)))) s

/-- fclass.s -/
def execFclassS (rd rs1 : BitVec 5) (s : State) : Out :=
  issueTx { fr := [rs1], xw := [rd] } (fun s =>
    .next (retireX s rd (BitVec.ofNat 64 (fClass fp32 (readF (regs s) rs1.toNat).toNat)))) s

/-- fmv.w.x -/
def execFmvWX (rd rs1 : BitVec 5) (s : State) : Out :=
  issueTx { xr := [rs1], fr := [rd] } (fun s =>
    .next (retireF s rd ((xr s rs1).toNat % 2 ^ 32, 0))) s

end Sys2Proof.Machine
end

