-- ==== Sys2Proof/Machine/Lost.lean ====
section
/-! DEFINITION. Loss of a core, a cluster's answer, a home slice, a module, a link or a package (12 R273, R274; 17 R332,
R348; 19 R357 to R359, R365, R366, R379; 20 R382). -/
namespace Sys2Proof.Machine

/-! ### partitions -/

def partKey (pkg num : Nat) : Nat := pkg * 128 + num

/-- The cores of a partition: those of its quads (20 R389). -/
def coresOfPart (s : State) (pkg : Nat) (p : Partn) : List Nat :=
  (s.cores.filter fun e => pkgOf e.1 == pkg && p.quads.getLsbD (lidOf e.1 / 32)).map (·.1)

/-- Partitions of a package whose windows pass a test, with their numbers. -/
def partsWith (s : State) (pkg : Nat) (ok : Word → Bool) : List (Nat × Partn) :=
  (s.parts.filter fun e => e.1 / 128 == pkg && e.2.windows.any fun w => w.getLsbD 63 && ok w).map fun e => (e.1 % 128, e.2)

/-- A deferred trap for one context, if it is live. -/
def deferOne (s : State) (k code : Nat) (value : Word) (n : Nat) : State :=
  match (getCtx s k n).st with
  | .free => s
  | .reserved => s
  | _ => raiseDeferred s k n code value

/-- A deferred trap for every live context of a core, the saved ones among them; context 0 first (12 R274). -/
def deferAll (s : State) (k code : Nat) (value : Word) : State :=
  (List.range 11 ++ (savedRanks (getCore s k)).flatMap fun r => savedCtxs r.num).foldl (fun s n => deferOne s k code value n) s

/-- An event of a partition. -/
def postPart (s : State) (pkg num : Nat) (p : Partn) (type code : Nat) (value value2 : Word) : State :=
  post s { pkg := pkg, tenant := p.tenant, type := type, code := code, part := num, value := value, value2 := value2 }

/-! ### poison and quarantine (12 R273) -/

/-- The home marks a lost line: its copies are gone and an access gets POISON. -/
def poisonLine (s : State) (line : Nat) : State :=
  let s := (List.range 16).foldl (fun s cl => delPart s line cl) (dropCopies s line fun _ => false)
  let s := setDir s line { dirOf s line with st := .i, ph := 0 }
  if s.poison.contains line then s else { s with poison := s.poison ++ [line] }

/-- Lines that a core alone holds newer than memory. -/
def dirtyLines (c : Core) : List Nat := ((c.l1.filter fun l => l.st == .m || l.st == .o).map (·.line)).eraseDups

/-- What a quarantined core loses: registers, arrays and the commands of its rank. The hardware in its place comes up as
after a core reset; what the schedulers, the locks' homes and the save agent hold of the logical core stays (log entry
23). -/
def loseArrays (c : Core) : Core :=
  { Core.reset with
    ctxs := c.ctxs.filter fun e => decide (16 ≤ e.1), gq := c.gq.filter fun g => decide (16 ≤ g.ctx),
    qtenant := c.qtenant, qpwin := c.qpwin, launch := c.launch, rank := c.rank, parcel := c.parcel, retiring := c.retiring,
    stopping := c.stopping, levels := c.levels, ghosts := c.ghosts, succs := c.succs, quarantined := c.quarantined,
    saved := c.saved, below := c.below, parkedGrants := c.parkedGrants, victimFor := c.victimFor, victimNext := c.victimNext,
    lastIssue := c.lastIssue }

def modOcc (s : State) (k : Nat) (f : Occ → Occ) : State := { s with occ := fset s.occ k (f (fget {} s.occ k)) }

/-- The logical core is withdrawn. -/
def withdrawCore (s : State) (k : Nat) : State :=
  let s := modOcc (modCore s k fun c => { c with quarantined := true }) k fun o => { o with absent := true }
  let c := getCore s k
  post s { pkg := pkgOf k, tenant := tenantOf c, type := 8, part := partOf c, core := BitVec.ofNat 32 (lidOf k) }

/-- Containment with QUARANTINE under the occupancy map's qcont; then what the core held is lost. -/
def quarantineCore (s : State) (k : Nat) (spare : Bool) : State :=
  let lost := dirtyLines (getCore s k)
  let s := modCore s k fun c => { c with qcont := (fget {} s.occ k).qcont }
  let s := if (getCore s k).launch.isSome then
      contain s k 0xFFFFFFFF Cause.quarantine 0 0 (BitVec.allOnes 32) (BitVec.ofNat 32 (lidOf k))
    else stopCore s k
  let s := raiseRetire (modCore s k loseArrays) k
  let s := lost.foldl poisonLine s
  if spare && !s.spares.contains (clusterOf k) then { s with spares := s.spares ++ [clusterOf k] } else withdrawCore s k

/-- QUARANTINE -/
def execQuarantine (core : Nat) (s : State) : Out :=
  if (getCore s core).quarantined then .next s else .next (quarantineCore s core true)

/-- The cores of a cluster that are in use. -/
def workingCores (s : State) (cl : Nat) : List Nat :=
  ((List.range 256).map (cl * 256 + ·)).filter fun k => !(getCore s k).quarantined

/-- Lines that the home recorded at a cluster. -/
def heldLines (s : State) (cl : Nat) : List Nat :=
  ((s.l2.filter fun e => e.1 % 16 == cl % 16 && paPkg (e.1 / 16 * 64) == cl / 16 && e.2 != .i).map (·.1 / 16)).eraseDups

/-- A failed cluster: its cores are quarantined, the lines recorded at it are poisoned (17 R332). -/
def failCluster (s : State) (cl : Nat) (spare : Bool) : State :=
  let lost := heldLines s cl
  lost.foldl poisonLine
    ((workingCores s cl).foldl (fun s k => quarantineCore s k spare) s)

/-- PROBE_TIMEOUT: the probe is sent once more; the second time the agent is declared failed. -/
def execProbeTimeout (cluster line : Nat) (s : State) : Out :=
  let cl := cluster % 16
  let key := line * 16 + cl
  if (cvOf s (line / 8)).getLsbD cl = false then .next s
  else if s.probeMiss.contains key = false then .next { s with probeMiss := s.probeMiss ++ [key] }
  else .next (failCluster { s with probeMiss := s.probeMiss.filter (· != key) } (paPkg (line * 64) * 16 + cl) true)

/-! ### home slices (17 R348) -/

def homedAt (pkg slice pa : Nat) : Bool := paPkg pa == pkg && homeOf pa == slice

/-- The directory and every cached copy of the lines of a slice are gone. -/
def dropHomed (s : State) (pkg slice : Nat) : State :=
  let at_ := fun (line : Nat) => homedAt pkg slice (line * 64)
  { s with
    dir := s.dir.filter fun e => !at_ e.1,
    dirCv := s.dirCv.filter fun e => !homedAt pkg slice (e.1 * 512),
    l2 := s.l2.filter fun e => !at_ (e.1 / 16),
    l2way := s.l2way.filter fun e => !at_ (e.1 / 16),
    ovr := s.ovr.filter fun t => !homedAt pkg slice (t * 512),
    part := s.part.filter fun e => !at_ (e.1 / 16),
    cores := s.cores.map fun e =>
      (e.1, { e.2 with l1 := e.2.l1.filter (fun l => !at_ l.line), icache := e.2.icache.filter (fun l => !at_ l.1), succs := e.2.succs.filter fun x => !at_ x.1 }) }

/-- Transactions with a tile of the slice abort with FAULT. -/
def abortHomed (s : State) (pkg slice : Nat) : State :=
  (openTxs s pkg).foldl (fun s h =>
    match (txTiles h.2.2).find? fun t => homedAt pkg slice (t * 512) with
    | some t => abortCtx s h.1 h.2.1 Abort.fault 0 (fget 0 h.2.2.tileVa t)
    | none => s) s

/-- A parked grant of a lost lock completes with HOMELOST. -/
def loseParked (line k : Nat) (s : State) (g : ParkedGrant) : State :=
  if g.line = line then
    completeRequest (modCore s k fun c => { c with parkedGrants := c.parkedGrants.filter (· != g) }) k g.ctx g.wait Status.homelost
  else s

/-- Waiters of a lock of the slice complete with HOMELOST; the lock is forgotten, by its holder too (17 R348). -/
def loseLock (s : State) (l : Lock) : State :=
  let s := l.queue.foldl (fun s w => if isGhost s l.line w then passGhost s l.line w else completeWait s w.1 w.2.1 Status.homelost) s
  let s := (getCore s l.hcore).parkedGrants.foldl (loseParked l.line l.hcore) s
  let s := if l.held then
      modCtx s l.hcore l.hctx fun c => { c with locks := c.locks.filter (· != l.line) } else s
  { s with locks := s.locks.filter fun o => o.line != l.line }

def loseLocks (s : State) (pkg slice : Nat) : State :=
  (s.locks.filter fun l => homedAt pkg slice (l.line * 64)).foldl loseLock s

/-- A window into main memory. -/
def mainWindow (w : Word) : Bool := decide (bitsOf w 47 44 < 2)

/-- A slice is lost. -/
def loseHome (s : State) (pkg slice : Nat) : State :=
  if s.lostHomes.contains (pkg * 16 + slice) then s
  else
    let s := loseLocks (abortHomed s pkg slice) pkg slice
    let s := dropHomed { s with lostHomes := s.lostHomes ++ [pkg * 16 + slice] } pkg slice
    let (addr, s) := freshValue s
    (partsWith s pkg mainWindow).foldl (fun s p =>
      postPart ((coresOfPart s pkg p.2).foldl (fun s k => deferAll s k Cause.homelost addr) s) pkg p.1 p.2 7 slice 0 0) s

/-- HOME_LOST -/
def execHomeLost (pkg slice : Nat) (s : State) : Out := .next (loseHome s pkg (slice % 16))

/-! ### links and packages (19 R359, R365, R366) -/

/-- The package at the other end of a link; the last three links lead to switches. -/
def linkPeer (pkg link : Nat) : Option Nat :=
  if link < 21 then some (pkg / 8 * 8 + (pkg % 8 + 1 + link / 3) % 8) else none

def modLink (s : State) (pkg link : Nat) (f : Link → Link) : State :=
  { s with links := fset s.links (linkKey pkg link) (f (fget {} s.links (linkKey pkg link))) }

def intoPkg (b : Nat) (w : Word) : Bool := bitsOf w 55 48 == b

/-- A part of a request to package b is not answered: not performed, or performed with the request's reply still due (19
R363). -/
def partWaits (s : State) (b : Nat) (r : Req) (p : Part) : Bool :=
  (reqDone r || !p.done) && partRemote s r.core p && (paPkg p.pa == b || paPkg (p.named.getD p.pa) == b)

/-- A request of a core waits for another package. -/
def waitsOnPkg (s : State) (b : Nat) (r : Req) : Bool := !r.queued && r.parts.any (partWaits s b r)

/-- An abandoned request: its registers stay empty, their pending marks are cleared. -/
def abandonReq (s : State) (r : Req) : State :=
  let s := dropReq s r.id
  if r.orphan then s
  else if r.ctx < 16 then modCtx s r.core r.ctx fun c => { c with regs := failDst c.regs r.dst }
  else imageFailed s r.core r.ctx r.dst

/-- A wait for a lock, or on a word, of the other package is over: its instruction issues again. -/
def waitAbandoned (b : Nat) (x0 : Bool) (w : Wait) : Bool :=
  (match w with
    | .lock _ => x0
    | _ => false) ||
  match watchIn w with
  | some x => decide (x.loc < 2 ^ 56) && (paPkg x.named == b || paPkg x.loc == b)
  | none => false

/-- The lock requests and the watches of a context at the other package are abandoned. -/
def abandonWaits (s : State) (k n b : Nat) : State :=
  let far := fun (w : LockWait) => paPkg w.named == b || paPkg (w.line * 64) == b
  let ws := (lockRequests (getCtx s k n)).filter far
  let x0 := ws.any fun w => w.rd == 0
  let s := leaveQueues s k n far
  let s := if n < 16 then s else ws.foldl (fun s w => redirectDone s k n false w.rd) s
  modCtx s k n fun c => { c with
    regs := ws.foldl (fun g w => failX g w.rd) c.regs,
    st := (match c.st with | .waiting w => if waitAbandoned b x0 w then .live else .waiting w | x => x),
    keptWait := c.keptWait.filter fun w => !waitAbandoned b x0 w }

/-- A lock release of core k on its way to package b. -/
def releaseTo (k b : Nat) (m : Msg) : Bool :=
  m.core == k && match m.kind with
    | .lockRel line _ => paPkg (line * 64) == b
    | _ => false

/-- Everything that a core has outstanding at another package is abandoned. -/
def abandonAll (s : State) (k b : Nat) : State :=
  if b = pkgOf k then s
  else
    let s := (s.reqs.filter fun r => r.core == k && waitsOnPkg s b r).foldl abandonReq s
    let s := { s with msgs := s.msgs.filter fun m => !releaseTo k b m }
    ((getCore s k).ctxs.map (·.1)).foldl (fun s n => abandonWaits s k n b) s

/-- The partitions of package a with a window into package b quiesce. -/
def quiesceParts (s : State) (a b link : Nat) : State :=
  (partsWith s a (intoPkg b)).foldl (fun s p =>
    let ks := coresOfPart s a p.2
    let s := ks.foldl (fun s k => deferAll s k Cause.quiesce (BitVec.ofNat 64 b)) s
    let s := ks.foldl (fun s k => abandonAll s k b) s
    postPart s a p.1 p.2 6 0 (BitVec.ofNat 64 b) (BitVec.ofNat 64 link)) s

/-- A migration has not passed step 5 of its handover. -/
def beforeInstall (p : Page) : Bool :=
  match p.st with
  | .eft => true
  | .eftHold => true
  | .handover => true
  | _ => false

/-- A migration ends with the old home as the owner (19 R379). -/
def settlePage (s : State) (p : Page) : State :=
  pageToken { s with pages := s.pages.filter fun o => o.frame != p.frame } p (Status.ofCause Cause.quiesce)

/-- Migrations that a loss separates. -/
def settleApart (s : State) (apart : Nat → Nat → Bool) : State :=
  (s.pages.filter fun p => beforeInstall p && apart (paPkg (p.frame * 1024)) (paPkg (p.new * 1024))).foldl settlePage s

/-- The link of a package to a peer that is the other end of the peer's link. -/
def otherEnd (pkg peer link : Nat) : Nat := linkTo peer pkg (link % 3)

/-- The other end of a link. That of links 21 to 23 is the port of a switch, which has the number 256 above the package's
(log entry 29). -/
def farEnd (pkg link : Nat) : Option (Nat × Nat) :=
  if 24 ≤ link then none
  else if 256 ≤ pkg then (if link < 21 then none else some (pkg - 256, link))
  else match linkPeer pkg link with
    | some peer => some (peer, otherEnd pkg peer link)
    | none => some (pkg + 256, link)

/-- A link goes down at both ends: the partitions of two packages that it joined quiesce, the lanes move to the links that
are left (pathOf), and migrations that it separates end. -/
def takeDown (s0 : State) (pkg link peer far : Nat) : State :=
  let s := modLink (modLink s0 pkg link fun l => { l with up := false }) peer far fun l => { l with up := false }
  let s := if link < 21 then quiesceParts (quiesceParts s pkg peer link) peer pkg far else s
  settleApart s fun a b => unreachable s a b && !unreachable s0 a b

/-- LINK_DOWN -/
def execLinkDown (pkg link : Nat) (s : State) : Out :=
  match farEnd pkg link with
  | none => .next s
  | some (peer, far) => .next (if linkUp s pkg link then takeDown s pkg link peer far else s)

/-- A watch that may leave for another package is sent. -/
def stampWatch (s : State) (k n : Nat) (w : Watch) : Watch :=
  if w.since.isNone && !w.taken && farFrom k w.named && watchReady s k n w && !watchUnsent s k w then { w with since := some s.cycle }
  else w

/-- The cycle in which a gateway sends each part and each watch that may leave for another package (19 R365). -/
def stampSent (s : State) : State :=
  { s with
    reqs := s.reqs.map fun r =>
      { r with parts := r.parts.mapIdx fun i p =>
          if p.since.isNone && partRemote s r.core p && orderAllows s r p && !redirectHolds s r i p && remoteSent s r.core p.pa then
            { p with since := some s.cycle } else p },
    cores := s.cores.map fun e =>
      if e.2.ctxs.any fun c => !(watchesOf c.2).isEmpty then
        (e.1, { e.2 with ctxs := e.2.ctxs.map fun c => (c.1, mapWatches (stampWatch s e.1 c.1) c.2) })
      else e }

/-- A request to a package was sent 2 ms ago and is not answered: an access, a watch that its home has not taken, or a lock
request that its home has not yet taken (log entry 81). -/
def unanswered (s : State) (pkg peer : Nat) : Bool :=
  let old := fun (t : Nat) => decide (t + 2000 * Config.cyclesPerUs ≤ s.cycle)
  (s.reqs.any fun r => pkgOf r.core == pkg && r.parts.any fun p => partWaits s peer r p && p.since.any old) ||
  (s.cores.any fun e => pkgOf e.1 == pkg && e.2.ctxs.any fun c => (watchesFar e.1 c.2).any fun w =>
    !w.taken && (paPkg w.loc == peer || paPkg w.named == peer) && w.since.any old) ||
  (pkg != peer && s.msgs.any fun m => pkgOf m.core == pkg && match m.kind, lockPa s m with
    | .lockReq _ _ _ born, some pa => paPkg pa == peer && old born && !lockUnsent s m pa
    | _, _ => false)

/-- PEER_LOST_TIMEOUT -/
def execPeerLostTimeout (pkg peer : Nat) (s : State) : Out :=
  if s.lostPkgs.contains peer ∨ unanswered s pkg peer = false then .next s
  else
    let s := { s with lostPkgs := s.lostPkgs ++ [peer] }
    let s := s.pkgs.foldl (fun s a => quiesceParts s a peer 0xFF) s
    .next (settleApart s fun a b => a != b && (a == peer || b == peer))

/-! ### codewords (19 R357, R358) -/

/-- Cells that an ACKSEQ does not cover, of those kept in order. -/
def afterAck (unacked : List (Nat × Nat × Nat)) (ack : Nat) : List (Nat × Nat × Nat) :=
  if unacked.any fun c => c.1 == ack then (unacked.dropWhile fun c => c.1 != ack).drop 1 else unacked

/-- A cell of a codeword: SEQ, virtual channel, DPKG. -/
abbrev Cell := Nat × Nat × Nat

/-- The next expected cell is accepted; a cell after a gap is discarded: the next SEQ, what was accepted, and whether there
was a gap. -/
def acceptCells (next : Nat) : List Cell → Nat × List Cell × Bool
  | [] => (next, [], false)
  | c :: cs =>
    if c.1 = next then let r := acceptCells ((next + 1) % 1024) cs; (r.1, c :: r.2.1, r.2.2)
    else let r := acceptCells next cs; (r.1, r.2.1, true)

/-- A NAK in a row names the same ACKSEQ. -/
def countNak (l : Link) (ack : Nat) : Link :=
  { l with naks := if l.nakSeq = ack then l.naks + 1 else 1, nakSeq := ack }

/-- Cells on a virtual channel. -/
def onVc (vc : Nat) (cells : List Cell) : Nat := (cells.filter fun c => c.2.1 == vc).length

/-- Cells that a sender has to send again, in their original order. -/
def toResend (f : Link) : List Cell := f.unacked.drop f.pos

/-- The new cells of a codeword: those behind the ones sent again. -/
def newCells (f : Link) (cells : List Cell) : List Cell := cells.drop (toResend f).length

/-- New cells of a sender stay below 512 unacknowledged, within its credits, and follow one another in SEQ. -/
def maySend (f : Link) (cells : List Cell) : Bool :=
  let new := newCells f cells
  decide (f.unacked.length + new.length ≤ 511) &&
    (new.map (·.1) == (List.range new.length).map fun i => (f.txSeq + i) % 1024) &&
    (List.range 4).all (fun vc => decide (onVc vc new ≤ f.credits.getD vc 0)) && new.all fun c => decide (c.2.1 < 4)

/-- A codeword that a link end may send: the cells to send again first, its NAK and ACKSEQ, and the credits of buffers that
it has freed (19 R356 to R358). -/
def wordFits (f : Link) (cells : List Cell) (credits : List Nat) (nak : Bool) (ack : Nat) : Bool :=
  (cells.take (toResend f).length == (toResend f).take cells.length) && maySend f cells &&
    nak == f.nakOut && ack == (f.rxNext + 1023) % 1024 &&
    (List.range 4).all fun vc => decide (credits.getD vc 0 ≤ f.bufs.getD vc 0)

/-- The sending end of a codeword keeps its new cells, spends their credits and returns those of its free buffers. -/
def sendWord (cells : List Cell) (credits : List Nat) (f : Link) : Link :=
  let new := newCells f cells
  { f with
    txSeq := (f.txSeq + new.length) % 1024, unacked := f.unacked ++ new, pos := f.pos + cells.length,
    credits := f.credits.mapIdx fun vc n => n - onVc vc new,
    bufs := f.bufs.mapIdx fun vc n => n - credits.getD vc 0, nakOut := false }

/-- Accepted cells whose DPKG is not the receiving package are discarded and logged (19 R362); a switch and the end of a module take
them all. -/
def strayCells (pkg link : Nat) (cells : List Cell) : List Cell := if pkg < 256 ∧ link < 24 then cells.filter fun c => c.2.2 != pkg else []

/-- The receiving end of a codeword; a NAK that is due stays due until it is sent (19 R357). -/
def receiveWord (now pkg link : Nat) (good : Bool) (cells : List Cell) (credits : List Nat) (nak : Bool) (ack : Nat) (l : Link) :
    Link :=
  if good = false then { l with nakOut := true }
  else
    let r := acceptCells l.rxNext cells
    let kept := afterAck l.unacked ack
    let l : Link := { l with
      rxNext := r.1, nakOut := l.nakOut || r.2.2, lastGood := now, acked := ack, unacked := kept,
      pos := if nak then 0 else l.pos - (l.unacked.length - kept.length),
      credits := l.credits.mapIdx fun vc n => min 128 (n + credits.getD vc 0),
      bufs := l.bufs.mapIdx fun vc n => n + onVc vc r.2.1, strays := l.strays ++ strayCells pkg link r.2.1 }
    if nak then countNak l ack else { l with naks := 0 }

/-- 16 NAKs in a row name the same ACKSEQ, or no control word has passed its CRC for 10 us (19 R359). -/
def linkFails (now : Nat) (good : Bool) (l : Link) : Bool :=
  decide (16 ≤ l.naks) || (!good && decide (l.lastGood + 10 * Config.cyclesPerUs ≤ now))

/-! ### modules (20 R381, R382) -/

/-- The two ends of a module go down. Its link number is 24 + socket; the end in the die has the package number 512 above
(log entry 29). -/
def moduleEnds (s : State) (pkg socket : Nat) : State :=
  modLink (modLink s pkg (24 + socket) fun l => { l with up := false }) (512 + pkg) (24 + socket) fun l => { l with up := false }

/-- The die of a socket fails. A cache die loses both homes, a compute die its cores, a stack or an I/O die's channels their
range; with socket 20 the Ethernet port goes, with socket 21 every Triern Link, and without socket 22 the package stops (log
entry 28). -/
def dieFails (s : State) (pkg socket : Nat) : State :=
  let s := moduleEnds s pkg socket
  if socket < 4 then (List.range 4).foldl (fun s i => failCluster s (pkg * 16 + 4 * socket + i) false) s
  else if socket < 12 then loseHome (loseHome s pkg (2 * (socket - 4))) pkg (2 * (socket - 4) + 1)
  else
    let s := if socket = 21 then (List.range 24).foldl (fun s link => match farEnd pkg link with
        | some (peer, far) => if linkUp s pkg link then takeDown s pkg link peer far else s
        | none => s) s
      else s
    let b := bootOf s pkg
    { s with boots := fset s.boots pkg { b with withheld := putBit b.withheld socket true, stopped := b.stopped || socket == 22 } }

/-- MODULE_DOWN: the die fails. -/
def execModuleDown (pkg socket : Nat) (s : State) : Out := .next (if socket ≤ 22 then dieFails s pkg socket else s)

/-- The other end of a Triern Link or of a module. -/
def wordEnd (pkg link : Nat) : Option (Nat × Nat) :=
  if link < 24 then farEnd pkg link
  else if 46 < link then none
  else if pkg < 256 then some (512 + pkg, link) else if 512 ≤ pkg then some (pkg - 512, link) else none

/-- An end of a Triern Link or of a module is up. -/
def endUp (s : State) (pkg link : Nat) : Bool :=
  if link < 24 then linkUp s pkg link else (fget {} s.links (linkKey pkg link)).up

/-- The link or module between two ends fails. -/
def endFails (s : State) (pkg link peer far : Nat) : State :=
  if link < 24 then takeDown s pkg link peer far else dieFails s (pkg % 512) (link - 24)

/-- LINK_CODEWORD: a codeword that the other end sends arrives at a link of a package, or at an end of a module. -/
def execLinkCodeword (pkg link : Nat) (good : Bool) (cells : List Cell) (credits : List Nat) (nak : Bool) (ackSeq : Nat)
    (s : State) : Out :=
  if endUp s pkg link = false ∨ 8 < cells.length then .next s
  else match wordEnd pkg link with
    | none => .next s
    | some (peer, far) =>
      if wordFits (fget {} s.links (linkKey peer far)) cells credits nak ackSeq then
        let s := modLink (modLink s peer far (sendWord cells credits)) pkg link
          (receiveWord s.cycle pkg link good cells credits nak ackSeq)
        .next (if linkFails s.cycle good (fget {} s.links (linkKey pkg link)) then endFails s pkg link peer far else s)
      else .next s

end Sys2Proof.Machine
end

