-- ==== Sys2Proof/Machine/Migrate.lean ====
section
/-! DEFINITION. The course of a migration: copy passes, the handover, tails, purges and stale marks (19 R368 to R375). -/
namespace Sys2Proof.Machine

def pageOf (s : State) (frame : Nat) : Option Page := s.pages.find? fun p => p.frame == frame

/-! ### copy passes (19 R369) -/

/-- The error response of a block, with its address: a line of the old frame cannot be read, or one of the new frame cannot
be written; both pass the windows of the core (14 R301 to R303). -/
def blockError (s : State) (p : Page) (b : Nat) : Option (Nat × Nat) :=
  (List.range 16).findSome? fun i =>
    let src := (p.frame + b) * 1024 + 64 * i
    let dst := (p.new + b) * 1024 + 64 * i
    match accessError s p.core p.mode src 64 false false with
    | some r => some (src, r)
    | none => (accessError s p.core p.mode dst 64 true true).map fun r => (dst, r)

/-- Copy 1 KiB blocks, ascending. -/
def copyBlocks (s : State) (p : Page) (bs : List Nat) : State :=
  (sortBy (fun a b => decide (a ≤ b)) bs).foldl (fun s b =>
    agentWrite s p.core 15 ((p.new + b) * 1024) (getBytes s.mem ((p.frame + b) * 1024) 1024)) s

/-- Every copy of the page's lines leaves the package's caches. -/
def invalidatePage (s : State) (p : Page) : State :=
  (linesOfPage s p.frame p.big).foldl (fun s line =>
    setDir (dropCopies s line fun _ => false) line { dirOf s line with st := .i }) s

/-- The handover begins: the blocks still marked are copied (19 R370 steps 1 to 3). -/
def beginHandover (s : State) (p : Page) : State :=
  let s := copyBlocks (invalidatePage s p) p p.marked
  modPage s p.frame fun p => { p with st := .handover, todo := [], marked := [] }

/-- The pass of a page ends. -/
def endPass (s : State) (p : Page) : State :=
  match (p.todo ++ p.marked).findSome? (blockError s p) with
  | some (pa, reason) =>
    pageToken (logAccess { s with pages := s.pages.filter fun o => o.frame != p.frame } p.core p.ctx pa 4 reason) p (reasonStatus reason)
  | none =>
    let s := copyBlocks s p p.todo
    let again := fun (st : PageSt) => modPage s p.frame fun p => { p with st := st, pass := p.pass + 1, todo := p.marked, marked := [] }
    if p.st = .eftHold ∨ p.marked.length ≤ 128 then beginHandover s p
    else if p.pass + 1 = 8 then again .eftHold
    else again .eft

/-- MIGRATION_PASS_END -/
def execMigrationPassEnd (frame : Nat) (s : State) : Out :=
  match pageOf s frame with
  | none => .next s
  | some p =>
    if p.st = .eft ∨ p.st = .eftHold then
      if heldForCommit s (p.new * 1024) (1024 * pageFrames p.big) || !followed s p.core p.after then .next s else .next (endPass s p)
    else .next s

/-! ### the handover (19 R370) -/

/-- A line of the page in its new frame. -/
def movedLine (p : Page) (line : Nat) : Nat :=
  if p.frame * 16 ≤ line ∧ line < (p.frame + pageFrames p.big) * 16 then line - p.frame * 16 + p.new * 16 else line

/-- An address of the page in its new frame; an own scratchpad word is none. -/
def movedAddr (p : Page) (pa : Nat) : Nat := if pa < 2 ^ 56 then movedLine p (pa / 64) * 64 + pa % 64 else pa

/-- The watches of the page's words, and waits for its locks, go to the new home (19 R370 step 4). -/
def movedWatch (p : Page) (w : Watch) : Watch := { w with loc := movedAddr p w.loc }

def movedWait (p : Page) (w : Wait) : Wait :=
  match w with
  | .lock line => .lock (movedLine p line)
  | w => mapWatch (movedWatch p) w

/-- A request that its home has taken goes by the new line; one on its way keeps the address that it names. -/
def movedRequest (p : Page) (w : LockWait) : LockWait := { w with line := movedLine p w.line }

def movedCtx (p : Page) (c : Context) : Context :=
  { c with
    locks := c.locks.map (movedLine p), lockWait := c.lockWait.map (movedRequest p), lockTries := c.lockTries.map (movedRequest p),
    st := (match c.st with | .waiting w => .waiting (movedWait p w) | x => x), keptWait := c.keptWait.map (movedWait p) }

def movedCore (p : Page) (c : Core) : Core :=
  { c with
    ctxs := c.ctxs.map fun e => (e.1, movedCtx p e.2),
    ghosts := c.ghosts.map fun g => { g with line := movedLine p g.line },
    parkedGrants := c.parkedGrants.map fun g => { g with line := movedLine p g.line, wait := movedRequest p g.wait },
    succs := c.succs.filter fun e => movedLine p e.1 == e.1 }

/-- The new home takes the page's lock entries, and every handoff of them. -/
def installLocks (s : State) (p : Page) : State :=
  let mine := s.locks.filter fun l => movedLine p l.line != l.line
  let s := { s with cores := s.cores.map fun e => (e.1, movedCore p e.2) }
  mine.foldl (fun s l => putLock (putLock s l.line none) (movedLine p l.line) (some { l with line := movedLine p l.line })) s

/-- INSTALL: the message with every gecko lock entry and every watch of the page has reached the new home (19 R370 step 4). The
old home stays the owner, and keeps them, until the acknowledgement (R379). -/
def execInstall (frame : Nat) (s : State) : Out :=
  match pageOf s frame with
  | none => .next s
  | some p =>
    if p.st = .handover ∧ p.installed = false then
      .next (modPage s frame fun p => { p with installed := true })
    else .next s

/-- INSTALL_ACK: the new owner has the page with its locks and watches; the token, and the old home is a tail (19 R370 step
5). -/
def execInstallAck (frame : Nat) (s : State) : Out :=
  match pageOf s frame with
  | none => .next s
  | some p =>
    if p.st = .handover ∧ p.installed = true then
      let s := modPage (installLocks s p) frame fun p => { p with st := .tail, since := s.cycle, lastFwd := s.cycle }
      let s := pageToken s p 0
      .next (if p.orphan then
          raiseRetire (modPage s frame fun p => { p with orphan := false }) p.core
        else s)
    else .next s

/-! ### tails and stale marks (19 R375) -/

def idleCycles : Nat := 100 * Config.cyclesPerUs

/-- A tail becomes a stale mark. -/
def becomeStale (s : State) (frame : Nat) : State :=
  modPage s frame fun p => { p with st := .stale, since := s.cycle }

/-- A purge of a package, or its acknowledgement, is on its way. -/
def purgeOpen (s : State) (frame pkg : Nat) : Bool :=
  s.msgs.any fun m => match m.kind with
    | .purge f q _ => f == frame && q == pkg
    | .purgeAck f q => f == frame && q == pkg
    | _ => false

/-- Recorded packages that have not acknowledged. -/
def unackedPkgs (p : Page) : List Nat := (p.requesters.map (·.1)).filter fun q => !p.acked.contains q

def sendPurges (s : State) (p : Page) (last : Bool) (qs : List Nat) : State :=
  qs.foldl (fun s q => send s p.core 15 (.purge p.frame q last)) s

/-- TAIL_IDLE_TIMEOUT: a purge for every recorded package; later, one more for a package that was forwarded to since. -/
def execTailIdleTimeout (frame : Nat) (s : State) : Out :=
  match pageOf s frame with
  | none => .next s
  | some p =>
    if p.st ≠ .tail then .next s
    else if p.purging then
      .next (sendPurges s p false ((unackedPkgs p).filter fun q =>
        !purgeOpen s frame q && decide (fget 0 p.requesters q + idleCycles ≤ s.cycle)))
    else if s.cycle < p.lastFwd + idleCycles then .next s
    else if p.requesters.isEmpty then .next (becomeStale s frame)
    else .next (sendPurges (modPage s frame fun p => { p with purging := true }) p false (unackedPkgs p))

/-- An earlier redirect for the frame is on its way to a cluster of the package. -/
def redirectAhead (s : State) (id frame pkg : Nat) : Bool :=
  s.msgs.any fun m => decide (m.id < id) && match m.kind with
    | .redirect cl old _ _ => old == frame && cl / 16 == pkg
    | _ => false

/-- The size of the page that left a frame. -/
def frameBig (s : State) (frame : Nat) : Bool :=
  match pageOf s frame with
  | some p => p.big
  | none => false

/-- PURGE: the 16 clusters remove their entries of the frame, and acknowledge once they have drained. -/
def execPurge (id : Nat) (s : State) : Out :=
  match findMsg s id with
  | none => .next s
  | some m => match m.kind with
    | .purge frame pkg last =>
      let drained := (List.range 16).all fun i => !sentTo s (pkg * 16 + i) m.id frame (frameBig s frame)
      if redirectAhead s id frame pkg then .next s
      else
        let s := { s with owners := s.owners.filter fun o => !(o.cluster / 16 == pkg && o.old == frame) }
        if drained = false then .next s
        else if last then .next (dropMsg s id)
        else .next (send (dropMsg s id) m.core 15 (.purgeAck frame pkg))
    | _ => .next s

/-- An acknowledgement that arrives before 100 us have passed since a forward belongs to a purge before that forward. -/
def ackCounts (s : State) (p : Page) (pkg : Nat) : Bool := decide (fget 0 p.requesters pkg + idleCycles ≤ s.cycle)

/-- PURGE_ACK -/
def execPurgeAck (id : Nat) (s : State) : Out :=
  match findMsg s id with
  | none => .next s
  | some m => match m.kind with
    | .purgeAck frame pkg =>
      let s := dropMsg s id
      match pageOf s frame with
      | none => .next s
      | some p =>
        if p.st ≠ .tail ∨ ackCounts s p pkg = false then .next s
        else
          let p' := { p with acked := addTile pkg p.acked }
          let s := modPage s frame fun _ => p'
          .next (if (unackedPkgs p').isEmpty then becomeStale s frame else s)
    | _ => .next s

/-- TAIL_LIFETIME_EXPIRY -/
def execTailLifetimeExpiry (frame : Nat) (s : State) : Out :=
  match pageOf s frame with
  | none => .next s
  | some p =>
    if p.st ≠ .tail ∨ s.cycle < p.since + p.life * Config.cyclesPerUs then .next s
    else .next (becomeStale (sendPurges s p true (unackedPkgs p)) frame)

/-- STALE_MARK_EXPIRY -/
def execStaleMarkExpiry (frame : Nat) (s : State) : Out :=
  match pageOf s frame with
  | none => .next s
  | some p =>
    if p.st ≠ .stale ∨ s.cycle < p.since + p.life * Config.cyclesPerUs then .next s
    else .next { s with pages := s.pages.filter fun o => o.frame != frame }

end Sys2Proof.Machine
end

