-- ==== Sys2Proof/Machine/Session.lean ====
section
/-! DEFINITION. The sessions of the host transport: acceptance of messages, replies (20 R383, R386), and the tables in host
windows that the device reads for launches (11 R235, R241; 20 R387). -/
namespace Sys2Proof.Machine

/-! ### sessions (20 R383, R386) -/

def sessionOf (s : State) (pkg tenant : Nat) : Session := fget {} s.sessions (ringKey pkg tenant)
def setSession (s : State) (pkg tenant : Nat) (x : Session) : State :=
  { s with sessions := fset s.sessions (ringKey pkg tenant) x }

def modSession (s : State) (pkg tenant : Nat) (f : Session → Session) : State :=
  setSession s pkg tenant (f (sessionOf s pkg tenant))

/-- The transport runs: bring-up has come to its last step (20 R392), the package has not stopped, and the I/O die of socket 20,
which carries the Ethernet port, works (20 R381). -/
def transportUp (s : State) (pkg : Nat) : Bool :=
  let b := bootOf s pkg
  b.stage == 6 && !b.stopped && !b.withheld.getLsbD 20

/-- A sequence is accepted once, and not from more than 1,024 below the highest. -/
def seqFresh (x : Session) (seq : Nat) : Bool := decide (0 < seq) && !x.seen.contains seq && decide (x.highest ≤ seq + 1024)

def acceptSeq (x : Session) (seq : Nat) : Session :=
  { x with highest := max x.highest seq, seen := seq :: x.seen.filter fun n => decide (max x.highest seq ≤ n + 1024) }

/-- A message of a known tenant, once: the state in which it is performed. -/
def accept (s : State) (pkg tenant seq : Nat) : Option State :=
  let x := sessionOf s pkg tenant
  if transportUp s pkg && x.known && seqFresh x seq then some (setSession s pkg tenant (acceptSeq x seq)) else none

/-- A message that is not performed: where its sequence has been accepted before, its reply is sent again (20 R383); else it
is discarded. -/
def again (s : State) (pkg tenant seq : Nat) : State :=
  let x := sessionOf s pkg tenant
  if transportUp s pkg && x.known && x.seen.contains seq then
    let f := fun (r : HostReply) => if r.asked = seq then { r with sentAt := s.cycle } else r
    setSession s pkg tenant { x with replies := x.replies.map f }
  else s

/-- The reply to a message is sent, with a SEQ of its own, and kept as long as the message can be repeated. -/
def reply (s : State) (pkg tenant asked reqId status : Nat) (body : List Byte) : State :=
  let n := nextSeq s pkg tenant
  let x := sessionOf n.2 pkg tenant
  let r : HostReply := { asked := asked, seq := n.1, reqId := reqId, status := status, body := body, sentAt := s.cycle }
  setSession n.2 pkg tenant { x with replies := (x.replies.filter fun o => decide (x.highest ≤ o.asked + 1024)) ++ [r] }

def Status.malformed : Nat := 0x100

/-! ### tables in host windows (11 R235, R241; 20 R387; log entry 76) -/

/-- A new entry of the tables. -/
def openTable (s : State) (pkg tenant pa : Nat) (use : TableUse) : State :=
  { s with tables := s.tables ++ [{ id := s.nextId, pkg := pkg, tenant := tenant, use := use, pa := pa }], nextId := s.nextId + 1 }

def findTable (s : State) (use : TableUse) : Option HostTable := s.tables.find? fun t => t.use == use
def tableById (s : State) (id : Nat) : Option HostTable := s.tables.find? fun t => t.id == id
def modTable (s : State) (id : Nat) (f : HostTable → HostTable) : State :=
  { s with tables := s.tables.map fun t => if t.id == id then f t else t }
def dropTable (s : State) (id : Nat) : State := { s with tables := s.tables.filter fun t => t.id != id }

/-- The bytes of a slot table that begins with some bytes: its header, and by that its entries (03 R75, 11 R248). -/
def slotNeed (bs : List Byte) : Nat := if bs.length < 16 then 16 else 16 + 8 * min (fieldOf bs 4 4) 16384

/-- The bytes that a table needs. -/
def tableNeed (t : HostTable) : Nat :=
  match t.use with
  | .regions _ _ => 128
  | _ => slotNeed t.got

def tableDone (t : HostTable) : Bool := t.refused || decide (tableNeed t ≤ t.got.length)

/-- The next bytes of a table are asked for, 8,192 at most (20 R386). -/
def askTable (s : State) (t : HostTable) : State :=
  if t.asked || tableDone t then s
  else
    let pa := t.pa + t.got.length
    let n := min 8192 (tableNeed t - t.got.length)
    match deviceError s t.pkg t.tenant pa n false with
    | some r => modTable (deviceLost s t.pkg t.tenant pa r false) t.id fun t => { t with refused := true }
    | none =>
      let m : HostMsg := { id := 0, pkg := t.pkg, tenant := t.tenant, type := 0x10, window := paOff pa / 2 ^ 38,
                           offset := paOff pa % 2 ^ 38, len := n, table := some t.id, seq := 0 }
      modTable (toHost s m) t.id fun t => { t with asked := true }

/-- The host's reply to a read of a table. -/
def tableReply (s : State) (id status : Nat) (m : HostMsg) (data : List Byte) : State :=
  modTable s id fun t =>
    if status = 0 then { t with asked := false, got := t.got ++ data.take m.len } else { t with asked := false, refused := true }

/-- The bytes with those that a refused read has left open. -/
def fillTo (s : State) (need : Nat) (bs : List Byte) : List Byte × State :=
  let r := unreadBytes s (need - bs.length)
  (bs ++ r.1, r.2)

/-- The bytes of a table once it is done. -/
def tableBytes (s : State) (t : HostTable) : List Byte × State :=
  match t.use with
  | .regions _ _ => fillTo s 128 t.got
  | _ =>
    let h := fillTo s 16 t.got
    fillTo h.2 (slotNeed h.1) h.1

/-- A slot table outside host windows: its header, then its entries. -/
def readSlotTable (s : State) (pkg tenant pa : Nat) : List Byte × State :=
  let h := readDevice s pkg tenant 2 pa 16
  let n := slotNeed h.1 - 16
  let r := readDevice h.2 pkg tenant (n / 64 + 2) (pa + 16) n
  (h.1 ++ r.1, r.2)

/-- A slot table outside host windows waits. -/
def slotsHeld (s : State) (pa : Nat) : Bool := readHeld s pa (16 + 8 * min (readLE s.mem (deviceAt s pa + 4) 4) 16384)

end Sys2Proof.Machine
end

