-- ==== Sys2Proof/Machine/Sched.lean ====
section
/-! DEFINITION. The launch endpoint, the event sequencer, the distribution of launches over cores, and the partition table
(11 R234 to R243, R248, R249; 20 R389). -/
namespace Sys2Proof.Machine

/-! ### the packet (11 R234, R235) -/

/-- n bytes of a packet at an offset. -/
def packetField (w : BitVec 1024) (off n : Nat) : Nat := w.toNat / 2 ^ (8 * off) % 2 ^ (8 * n)

/-- The first partition of a tenant on a package. -/
def tenantPart (s : State) (pkg tenant : Nat) : Option (Nat × Partn) :=
  match s.parts.find? fun e => e.1 / 128 == pkg && e.2.tenant == tenant with
  | some e => some (e.1 % 128, e.2)
  | none => none

/-- Quads in a set, and their cores in ascending order. -/
def quadsOf (q : BitVec 128) : List Nat := (List.range 128).filter fun i => q.getLsbD i
def coresOfQuads (pkg : Nat) (q : BitVec 128) : List Nat :=
  (quadsOf q).flatMap fun i => (List.range 32).map fun j => pkg * 4096 + i * 32 + j

/-- A reserved bit or byte of a packet is set. -/
def packetReserved (w : BitVec 1024) : Bool :=
  packetField w 0x1E 1 / 8 != 0 || packetField w 0x1F 1 / 2 != 0 || packetField w 0x25 3 != 0 || packetField w 0x48 56 != 0

def packetMtx (w : BitVec 1024) : Bool := packetField w 0x1F 1 % 2 == 1

/-- Cores that a launch of C ranks needs. -/
def coresNeeded (c : Nat) (mtx : Bool) : Nat := if mtx then 8 * ((c + 7) / 8) else c

/-- A slot table's entries: slot, sender, receiver. -/
def slotEntries (bs : List Byte) (n : Nat) : List (Nat × Nat × Nat) :=
  (List.range n).map fun e => (fieldOf bs (16 + 8 * e) 2, fieldOf bs (18 + 8 * e) 2, fieldOf bs (20 + 8 * e) 2)

/-- No two entries agree in a key. -/
def distinctBy (f : Nat × Nat × Nat → Nat × Nat) : List (Nat × Nat × Nat) → Bool
  | [] => true
  | e :: es => es.all (fun o => f o != f e) && distinctBy f es

/-- A range inside the tenant's windows. -/
def tenantMay (s : State) (pkg tenant pa n : Nat) (write : Bool) : Bool :=
  (windowCheck (tenantWindows s pkg tenant) pa n write).isNone

/-- A slot table keeps R249. -/
def slotsOk (s : State) (pkg tenant pa cores : Nat) (bs : List Byte) : Bool :=
  let period := fieldOf bs 0 2
  let n := fieldOf bs 4 4
  let es := slotEntries bs n
  decide (1 ≤ period) && decide (period ≤ 1024) && fieldOf bs 2 2 == 0 && fieldOf bs 8 8 == 0 && decide (1 ≤ n) &&
    decide (n ≤ 16384) && tenantMay s pkg tenant pa (16 + 8 * n) false &&
    es.all (fun e => decide (e.1 < period) && decide (e.2.1 < cores) && decide (e.2.2 < cores) && e.2.1 != e.2.2) &&
    ((List.range n).all fun e => fieldOf bs (22 + 8 * e) 2 == 0) &&
    distinctBy (fun e => (e.1, e.2.1)) es && distinctBy (fun e => (e.1, e.2.2)) es

/-- A slot table of which the header lies where the endpoint may read it. -/
def slotsAt (s : State) (pkg tenant pa : Nat) : Bool := pa % 8 == 0 && tenantMay s pkg tenant pa 16 false

/-- The rejection code of the first failing check from the second to the eighth (11 R235). -/
def packetCode (s : State) (pkg tenant : Nat) (p : Partn) (w : BitVec 1024) : Nat :=
  let spm := packetField w 0x18 4
  let c := packetField w 0x10 4
  let regions := packetField w 0x40 8
  if packetReserved w then 1
  else if 262144 < spm then 2
  else if spm % 16384 ≠ 0 then 3
  else if c = 0 ∨ 4096 < c then 4
  else if 32 * (quadsOf p.quads).length < coresNeeded c (packetMtx w) then 5
  else if 2 < packetField w 0x21 1 % 16 then 6
  else if regions = 0 ∨ regions % 64 ≠ 0 ∨ tenantMay s pkg tenant regions 128 false = false ∨ packetField w 0 8 % 4 ≠ 0 then 7
  else 0

/-- The launch of an accepted packet. -/
def launchOfPacket (s : State) (pkg part tenant queue : Nat) (w : BitVec 1024) : Launch :=
  { id := s.nextId, pkg := pkg, part := part, tenant := tenant, queue := queue,
    entry := BitVec.ofNat 64 (packetField w 0 8), args := BitVec.ofNat 64 (packetField w 8 8),
    cores := packetField w 0x10 4, parcels := packetField w 0x14 4, spm := packetField w 0x18 4,
    hstack := packetField w 0x1C 2, prio := packetField w 0x1E 1, mtx := packetMtx w,
    policy := BitVec.ofNat 64 (packetField w 0x20 8), record := packetField w 0x28 8,
    tag := BitVec.ofNat 64 (packetField w 0x30 8), slotsPa := packetField w 0x38 8, regions := packetField w 0x40 8 }

/-- The checks of a packet are done: it is rejected with a code, or it is accepted, and a launch without parcels is complete
at once (11 R235, R236); then the message is answered (20 R386). Nothing happens while the line of its record waits. -/
def endCheck (s : State) (t : HostTable) (num queue msgSeq reqId : Nat) (w : BitVec 1024) (code : Nat) : Option State :=
  let record := packetField w 0x28 8
  let tag := BitVec.ofNat 64 (packetField w 0x30 8)
  let answer := fun (s : State) => dropTable (reply s t.pkg t.tenant msgSeq reqId 0 []) t.id
  if code = 0 ∧ packetField w 0x14 4 ≠ 0 then
    let l := launchOfPacket s t.pkg num t.tenant queue w
    some (answer (raiseSched { s with launches := s.launches ++ [l], nextId := s.nextId + 1 } t.pkg (.submit l.id)))
  else if deviceHeld s record 64 true then none
  else if code = 0 then some (answer (writeRecord s t.pkg t.tenant record 1 0 tag 0 0 0xFFFFFFFF { code := 0 }))
  else some (answer (writeRecord s t.pkg t.tenant record 3 code tag 0 0 0xFFFFFFFF { code := 0 }))

/-- The checks of R235 on a packet that its endpoint holds, as far as they can go now. -/
def checkPacket (s : State) (t : HostTable) (queue msgSeq reqId : Nat) (w : BitVec 1024) : State :=
  let record := packetField w 0x28 8
  let slots := packetField w 0x38 8
  let part := tenantPart s t.pkg t.tenant
  if record % 64 ≠ 0 ∨ tenantMay s t.pkg t.tenant record 64 true = false then
    let s := post s { pkg := t.pkg, tenant := t.tenant, type := 4, part := (part.map (·.1)).getD 0, addr := BitVec.ofNat 64 record,
                      value := BitVec.ofNat 64 (packetField w 0x30 8), value2 := BitVec.ofNat 64 queue }
    dropTable (reply s t.pkg t.tenant msgSeq reqId 0 []) t.id
  else match part with
    | none => s
    | some (num, p) =>
      let ended := fun (u : State) code => (endCheck u t num queue msgSeq reqId w code).getD s
      let judged := fun (r : List Byte × State) =>
        ended r.2 (if slotsOk r.2 t.pkg t.tenant slots (packetField w 0x10 4) r.1 then 0 else 8)
      let code := packetCode s t.pkg t.tenant p w
      if code ≠ 0 ∨ slots = 0 then ended s code
      else if slotsAt s t.pkg t.tenant slots = false then ended s 8
      else if isHost slots then (if tableDone t then judged (tableBytes s t) else askTable s t)
      else if slotsHeld s slots then s
      else judged (readSlotTable s t.pkg t.tenant slots)

/-- A packet that reached the queue of another one before it. -/
def sameQueue (t : HostTable) (queue : Nat) (o : HostTable) : Bool :=
  o.pkg == t.pkg && o.tenant == t.tenant && decide (o.id < t.id) && (match o.use with
    | .check q _ _ _ => q == queue
    | _ => false)

/-- Packets of one queue are checked in the order in which they came; a table whose launch needs it no more is dropped. -/
def serveTable (id : Nat) (s : State) : State :=
  match tableById s id with
  | none => s
  | some t => match t.use with
    | .check queue msgSeq reqId w => if s.tables.any (sameQueue t queue) then s else checkPacket s t queue msgSeq reqId w
    | .regions core l => if (launchOf s l).any fun l => l.unstarted.contains core then askTable s t else dropTable s id
    | .slots l => if (launchOf s l).any fun l => !l.unstarted.isEmpty then askTable s t else dropTable s id

/-- LAUNCH: the endpoint takes the packet and checks it (11 R235, 20 R386). -/
def execLaunch (pkg tenant queue : Nat) (msg : LaunchMsg) (s : State) : Out :=
  if 16 ≤ queue then .next s
  else match accept s pkg tenant msg.id.seq with
    | none => .next (again s pkg tenant msg.id.seq)
    | some a =>
      let use := TableUse.check queue msg.id.seq msg.id.reqId msg.packet
      .next (serveTable a.nextId (openTable a pkg tenant (packetField msg.packet 0x38 8) use))

/-! ### placement (11 R239) -/

/-- The waiting launches of a partition in order (11 R237). -/
def waitingOf (s : State) (pkg part : Nat) : List Launch :=
  sortBy (fun a b => decide (b.prio < a.prio) || (a.prio == b.prio && decide (a.submit ≤ b.submit)))
    (s.launches.filter fun l => l.pkg == pkg && l.part == part && !l.started && !l.finished &&
      !(fget [] s.events pkg).contains (.submit l.id))

/-- A core's row of the map; the cores of a withheld compute die are absent (20 R393). -/
def occOf (s : State) (k : Nat) : Occ :=
  let o := fget {} s.occ k
  { o with absent := o.absent || (bootOf s (pkgOf k)).withheld.getLsbD (lidOf k / 1024) }

def freeCore (s : State) (k : Nat) : Bool :=
  let o := occOf s k
  o.occ.isNone && o.saved.isNone && o.reserved.isNone && !o.absent

/-- A core whose occupant a launch of a priority may pre-empt, whether or not it holds ranks saved (log entry 47). -/
def victimCore (s : State) (prio k : Nat) : Bool :=
  let o := occOf s k
  !o.absent && o.saveV && !o.nopre &&
  (match o.occ with
    | some (id, _) => match launchOf s id with
      | some l => decide (l.prio < prio)
      | none => false
    | none => false)

/-- The aligned groups of u cores wholly among some cores, ascending. -/
def coreUnits (u : Nat) (cand : List Nat) : List (List Nat) :=
  if u = 1 then cand.map fun k => [k]
  else ((cand.map (· / u)).eraseDups.map fun g => (List.range u).map (g * u + ·)).filter fun ks => ks.all cand.contains

/-- Pick n units: those without a victim first; the ranks go to the lowest cores (11 R239). -/
def pickUnits (victim : Nat → Bool) (units : List (List Nat)) (n c : Nat) : List Nat × List Nat :=
  let calm := units.filter fun ks => !ks.any victim
  let rest := units.filter fun ks => ks.any victim
  let cores := sortBy (fun a b => decide (a ≤ b)) ((calm ++ rest).take n).flatten
  (cores.take c, cores.drop c)

/-- A picked set whose domain has a counter. -/
def fitting (s : State) (pick : List Nat × List Nat) : Option (List Nat × List Nat) :=
  if countersFor s [pick.1] then some pick else none

/-- Place: in the first cluster that holds enough units, else anywhere. -/
def placeLaunch (s : State) (l : Launch) (cand : List Nat) (victim : Nat → Bool) : Option (List Nat × List Nat) :=
  let u := if l.mtx then 8 else 1
  let units := coreUnits u cand
  let n := (l.cores + u - 1) / u
  let inCluster := fun (cl : Nat) => units.filter fun ks => ks.all fun k => clusterOf k == cl
  match ((cand.map clusterOf).eraseDups).find? fun cl => decide (n ≤ (inCluster cl).length) with
  | some cl => fitting s (pickUnits victim (inCluster cl) n l.cores)
  | none => if n ≤ units.length then fitting s (pickUnits victim units n l.cores) else none

/-- A core of a placed launch; its occupant, if it has one, is to be pre-empted (11 R240). -/
def occupy (s : State) (l : Launch) (rank : Option Nat) (k : Nat) : State :=
  let old := (occOf s k).occ
  let s := match old with
    | some v => modCore s k fun c =>
        if c.victimFor.isSome then { c with victimNext := c.victimNext ++ [v] } else { c with victimFor := some v }
    | none => s
  modOcc s k fun o => { o with
    occ := rank.map fun r => (l.id, r),
    saved := (if old.isSome then old else o.saved), below := (if old.isSome then o.saved.toList ++ o.below else o.below),
    reserved := if rank.isSome then o.reserved else some l.id,
    qcont := if rank.isSome then l.policy &&& qcontMask else o.qcont,
    nopre := if rank.isSome then l.policy.getLsbD 5 else o.nopre }

def occupyRanks (s : State) (l : Launch) : Nat → List Nat → State
  | _, [] => s
  | r, k :: ks => occupyRanks (occupy s l (some r) k) l (r + 1) ks

/-- Start a launch on a set of cores, after event number `seq`: its domain's counter is kept for it (countersFor) and
created with its first rank (11 R241). -/
def startLaunch (s : State) (l : Launch) (seq : Nat) (place reserved : List Nat) : State :=
  let dom := s.nextId
  let s := { s with nextId := s.nextId + 1 }
  let s := reserved.foldl (fun s k => occupy s l none k) (occupyRanks s l 0 place)
  modLaunch s l.id fun l => { l with
    started := true, seq := seq, place := place, reserved := reserved, unstarted := place, dom := dom }

/-- The rank saved last is restored on a core without an occupant; it was pre-empted, so its NOPRE was 0. -/
def restoreOn (s : State) (k : Nat) : State :=
  let o := occOf s k
  let policy := match o.saved with
    | some (id, _) => match launchOf s id with
      | some l => l.policy &&& qcontMask
      | none => 0
    | none => 0
  if o.saved.isSome && o.occ.isNone && o.reserved.isNone then
    modOcc s k fun o => { o with occ := o.saved, saved := o.below.head?, below := o.below.tail, qcont := policy, nopre := false }
  else s

/-- Place waiting launches in order until one does not fit. -/
def placeWaiting (s : State) (pkg part seq : Nat) (cores : List Nat) : Nat → State
  | 0 => s
  | n + 1 => match waitingOf s pkg part with
    | [] => s
    | l :: _ =>
      let free := cores.filter (freeCore s)
      let victim := victimCore s l.prio
      match (match placeLaunch s l free (fun _ => false) with
        | some p => some p
        | none => placeLaunch s l (cores.filter fun k => freeCore s k || victim k) victim) with
      | some (place, reserved) => placeWaiting (startLaunch s l seq place reserved) pkg part seq cores n
      | none => s

/-- Distribute on a partition (11 R239). -/
def distribute (s : State) (pkg part seq : Nat) : State :=
  match s.parts.find? fun e => e.1 == partKey pkg part with
  | none => s
  | some (_, p) =>
    let cores := coresOfQuads pkg p.quads
    let s := cores.foldl restoreOn s
    placeWaiting s pkg part seq cores s.launches.length

/-- The partition that holds a core. -/
def partHolding (s : State) (k : Nat) : Option Nat :=
  match s.parts.find? fun e => e.1 / 128 == pkgOf k && e.2.quads.getLsbD (lidOf k / 32) with
  | some e => some (e.1 % 128)
  | none => none

def distributeFor (s : State) (k seq : Nat) : State :=
  match partHolding s k with
  | some part => distribute s (pkgOf k) part seq
  | none => s

/-! ### the sequencer (11 R237) -/

/-- The head of a package's events, its number, and the state without it. -/
def popEvent (s : State) (pkg : Nat) : Option (Sched × Nat × State) :=
  match fget [] s.events pkg with
  | [] => none
  | e :: es =>
    let n := fget 0 s.seq pkg
    some (e, n, { s with events := fset s.events pkg es, seq := fset s.seq pkg (n + 1) })

/-- SUBMIT -/
def execSubmit (pkg : Nat) (s : State) : Out :=
  match popEvent s pkg with
  | some (.submit id, n, s) => match launchOf s id with
    | some l => .next (distribute (modLaunch s id fun l => { l with submit := n }) pkg l.part n)
    | none => .next s
  | _ => .next s

/-- The saved ranks of a row of the map that pass a test, the latest first. -/
def keepSaved (t : Nat × Nat → Bool) (o : Occ) : Occ :=
  let rest := (o.saved.toList ++ o.below).filter t
  { o with saved := rest.head?, below := rest.tail }

/-- A rank has retired. Its core stays its launch's until the last rank has retired (11 R242); a saved rank that retires
is no longer one to resume. -/
def freeRank (s : State) (k id : Nat) : State :=
  let s := modOcc s k (keepSaved fun e => e.1 != id)
  modLaunch s id fun l => { l with retired := l.retired ++ [k], unstarted := l.unstarted.filter (· != k) }

/-- The map of a core without a launch. -/
def freeOcc (id : Nat) (o : Occ) : Occ :=
  { o with
    occ := (match o.occ with
      | some (l, r) => if l = id then none else some (l, r)
      | none => none),
    reserved := if o.reserved = some id then none else o.reserved }

/-- The last rank has retired: the record, and every core and counter of the launch is free (11 R242). -/
def launchOver (s : State) (l : Launch) : State :=
  let s := (l.place ++ l.reserved).foldl (fun s k => modOcc s k (freeOcc l.id)) s
  finishLaunch { s with doms := s.doms.filter fun d => d.launch != l.id } l

/-- The record of a launch, if it is to be written, waits. -/
def recordHeld (s : State) (id : Nat) : Bool :=
  match launchOf s id with
  | some l => decide (l.place.length ≤ l.retired.length + 1) && !l.finished && deviceHeld s l.record 64 true
  | none => false

/-- RETIRE -/
def execRetire (pkg : Nat) (s : State) : Out :=
  match popEvent s pkg with
  | some (.retire k id, n, s') =>
    if recordHeld s id then .next s
    else
      let s := freeRank s' k id
      let s := match launchOf s id with
        | some l => if l.place.length ≤ l.retired.length ∧ l.finished = false then launchOver s l else s
        | none => s
      .next (distributeFor s k n)
  | _ => .next s

/-- A rank that a core holds saved, or is to save. -/
def stillSaved (c : Core) (e : Nat × Nat) : Bool :=
  (savedRanks c).any (fun r => r.launch == e.1 && r.rank == e.2) || c.victimFor == some e || c.victimNext.contains e

/-- SAVED; a rank whose save failed is no longer one to resume (12 R272). -/
def execSaved (pkg : Nat) (s : State) : Out :=
  match popEvent s pkg with
  | some (.saved k ok, n, s) =>
    .next (distributeFor (if ok then s else modOcc s k (keepSaved (stillSaved (getCore s k)))) k n)
  | _ => .next s

/-- CTL -/
def execCtl (pkg : Nat) (s : State) : Out :=
  match popEvent s pkg with
  | some (.ctl k saveV nopre, n, s) => .next (distributeFor (modOcc s k fun o => { o with saveV := saveV, nopre := nopre }) k n)
  | _ => .next s

/-! ### the partition table (20 R389) -/

/-- The registers that a new partition finds at reset (11 R241). -/
def tenantCsrs (c : Core) : Core :=
  let r := Core.reset
  { c with qmaxout := r.qmaxout, qmxw := r.qmxw, qpair := r.qpair, qlkto := r.qlkto, qlkpark := r.qlkpark,
           qtaillife := r.qtaillife, qtxcfg := r.qtxcfg, qsave := r.qsave }

/-- A core belongs to a partition, or to none (log entry 30). -/
def assignCore (tenantWord : Word) (windows : List Word) (c : Core) : Core :=
  let c := if c.qtenant = tenantWord then c else tenantCsrs c
  { c with qtenant := tenantWord, qpwin := windows.mapIdx fun i w => (i, w) }

def busyCore (s : State) (k : Nat) : Bool :=
  let o := occOf s k
  o.occ.isSome || o.saved.isSome || o.reserved.isSome

/-- A row of the table in its ranges: 16 windows, a mask for each of the 16 clusters, 1 to 16 LLC ways, weights 1 to 255 (20
R389). -/
def partRanges (p : Partn) : Bool :=
  p.windows.length == 16 && p.l2mask.length == 16 && decide (1 ≤ p.llcWays) && decide (p.llcWays ≤ 16) &&
    decide (1 ≤ p.bwHbm) && decide (p.bwHbm ≤ 255) && decide (1 ≤ p.bwDdr) && decide (p.bwDdr ≤ 255)

/-- A change that the fabric manager may make: partitions share no quad, a shrinking one has no rank on the removed quads,
and withheld compute dies are in none. -/
def partAllowed (s : State) (pkg num : Nat) (p : Partn) : Bool :=
  let old := match s.parts.find? fun e => e.1 == partKey pkg num with
    | some e => e.2.quads
    | none => 0
  decide (num < 128) && partRanges p &&
    (s.parts.all fun e => e.1 / 128 != pkg || e.1 == partKey pkg num || e.2.quads &&& p.quads == 0) &&
    ((quadsOf (old &&& ~~~p.quads)).all fun q => (List.range 32).all fun j => !busyCore s (pkg * 4096 + q * 32 + j)) &&
    (quadsOf p.quads).all fun q => !(bootOf s pkg).withheld.getLsbD (q / 32)

/-- Record a partition and write its cores. -/
def applyPart (s : State) (pkg num : Nat) (p : Partn) : State :=
  let key := partKey pkg num
  let old := match s.parts.find? fun e => e.1 == key with
    | some e => e.2.quads
    | none => 0
  let word : Word := BitVec.ofNat 64 (num * 2 ^ 16 + p.tenant % 2 ^ 16)
  let moved := fun (s : State) (k : Nat) => if (getCore s k).qtenant = word then s else modOcc s k fun o => { o with saveV := false }
  let s := { s with parts := fset s.parts key p }
  let s := (coresOfQuads pkg (old &&& ~~~p.quads)).foldl (fun s k =>
    modOcc (modCore s k (assignCore 0 [])) k fun o => { o with saveV := false }) s
  (coresOfQuads pkg p.quads).foldl (fun s k => modCore (moved s k) k (assignCore word p.windows)) s

/-- PART: the change takes its place behind the events raised before it. -/
def execPart (pkg num tenant : Nat) (quads : BitVec 128) (windows : List (BitVec 64)) (l2mask : List (BitVec 24))
    (llcWays bwHbm bwDdr : Nat) (s : State) : Out :=
  let p : Partn := { tenant := tenant, quads := quads, windows := windows, l2mask := l2mask, llcWays := llcWays,
                     bwHbm := bwHbm, bwDdr := bwDdr }
  if fget [] s.events pkg ≠ [] ∨ partAllowed s pkg num p = false then .next s
  else
    let n := fget 0 s.seq pkg
    .next (distribute (applyPart { s with seq := fset s.seq pkg (n + 1) } pkg num p) pkg num n)

/-! ### the start of a rank (11 R240, R241) -/

/-- No rank of a placed launch has started. -/
def yetToStart (l : Launch) : Bool := l.started && !l.finished && l.unstarted.length == l.place.length

/-- The launch domain's counter is created when the first rank starts (04 R97, 11 R236, R241). -/
def openDomain (s : State) (l : Launch) : State :=
  if yetToStart l then
    { s with doms := s.doms ++ [{ id := l.dom, launch := l.id, members := l.place, e := min l.parcels l.cores }] }
  else s

/-- The slot table of a launch in the cluster networks. -/
def loadSlots (s : State) (l : Launch) (bs : List Byte) : State :=
  modLaunch s l.id fun l => { l with period := fieldOf bs 0 2, slots := slotEntries bs (min (fieldOf bs 4 4) 16384) }

/-- The launch and rank that a core has yet to start: its victim's first, then, once the SAVED event is applied, its
occupant's. -/
def rankToStart (s : State) (k : Nat) : Option (Launch × Nat) :=
  let c := getCore s k
  let o := occOf s k
  let saving := (fget [] s.events (pkgOf k)).any fun e => match e with
    | .saved j _ => j == k
    | _ => false
  let which := if saving then none else if c.victimFor.isSome then c.victimFor else o.occ
  if c.launch.isSome || c.retiring || c.quarantined then none
  else match which with
    | none => none
    | some (id, r) => match launchOf s id with
      | some l => if l.unstarted.contains k then some (l, r) else none
      | none => none

/-- The state in which a table that a launch needs is awaited, none once it can be read: one in a host window is read before,
by HRD messages (log entry 76), and elsewhere it waits for the pages that hold it. -/
def tableWait (s : State) (l : Launch) (pa : Nat) (use : TableUse) (held : Bool) : Option State :=
  if isHost pa then
    match findTable s use with
    | none => some (serveTable s.nextId (openTable s l.pkg l.tenant pa use))
    | some t => if tableDone t then none else some s
  else if held then some s
  else none

/-- The bytes of a table: those that came from its host window, or those that are read now. -/
def tableFor (s : State) (use : TableUse) (read : List Byte × State) : List Byte × State :=
  match findTable s use with
  | some t => let r := tableBytes s t; (r.1, dropTable r.2 t.id)
  | none => read

/-- The slot table is read with the first rank of a launch that names one. -/
def slotsDue (l : Launch) : Bool := l.slotsPa != 0 && yetToStart l

/-- What the start of a rank waits for: its region descriptors, and the slot table of its launch. -/
def startWait (s : State) (k : Nat) (l : Launch) : Option State :=
  match tableWait s l l.regions (.regions k l.id) (readHeld s l.regions 128) with
  | some s => some s
  | none => if slotsDue l then tableWait s l l.slotsPa (.slots l.id) (slotsHeld s l.slotsPa) else none

/-- The slot table goes to the cluster networks with the launch's first rank. -/
def withSlots (s : State) (l : Launch) : State :=
  if slotsDue l then
    let r := tableFor s (.slots l.id) (readSlotTable s l.pkg l.tenant l.slotsPa)
    loadSlots r.2 l r.1
  else s

/-- The region descriptors of a rank. -/
def regionsFor (s : State) (k : Nat) (l : Launch) : FMap Word × State :=
  let r := tableFor s (.regions k l.id) (readDevice s l.pkg l.tenant 4 l.regions 128)
  (regionsOf r.1, r.2)

/-- RANK_START -/
def execRankStart (core : Nat) (s : State) : Out :=
  match rankToStart s core with
  | none => .next s
  | some (l, r) => match startWait s core l with
    | some s => .next s
    | none =>
      let rgn := regionsFor (withSlots (openDomain (wakeCore s core) l) l) core l
      .next (startRank rgn.2 core l r rgn.1)

end Sys2Proof.Machine
end

