-- ==== Sys2Proof/Machine/Save.lean ====
section
/-! DEFINITION. Pre-emption: the save of a rank into its save area and its restore (12 R266 to R272). -/
namespace Sys2Proof.Machine

/-! ### the save area (12 R267, R272) -/

def saveBytes : Nat := 352256

/-- The parts of the area that a save writes, or a restore reads: header, the records of some contexts, accumulators, and
the scratchpad of a grant (12 R267). -/
def areaParts (live : List Nat) (spmBytes : Nat) : List (Nat × Nat) :=
  (0, 4096) :: (live.map fun n => (0x1000 + 0x600 * n, 0x600)) ++ [(0x6000, 65536), (0x16000, spmBytes)]

/-- What the save agent meets at a line of the area: the tenant's writable windows, the frame, and a tail (12 R272). -/
def areaLineError (s : State) (k pa : Nat) : Option Nat :=
  match windowCheck (windowsOf (getCore s k)) pa 64 true with
  | some r => some r
  | none => match mainError s pa 64 false with
    | some r => some r
    | none => match pageAt s pa with
      | some p => if p.st = .tail then some Reason.migchain else if p.st = .stale then some Reason.migstale else none
      | none => none

/-- What an area outside the main memory of the core's package meets, in the order of R303: the form of its address, a package
that no package of the pod bears, the windows, and else an offset that the target does not hold. -/
def areaElsewhere (s : State) (k base : Nat) : Nat :=
  let sp := paSpace base
  if 2 ^ 56 ≤ base ∨ ¬ (sp = 0 ∨ sp = 1 ∨ sp = 2 ∨ sp = 8 ∨ sp = 15) then Reason.reserved
  else if !s.pkgs.contains (paPkg base) then Reason.absent
  else (windowCheck (windowsOf (getCore s k)) base 64 true).getD Reason.absent

/-- The first error response among the lines of the parts of the area of a core, with its address; an area outside the
main memory of the core's package is one itself. -/
def saveAreaError (s : State) (k base : Nat) (parts : List (Nat × Nat)) : Option (Nat × Nat) :=
  if !isMain base || paPkg base != pkgOf k then some (base, areaElsewhere s k base)
  else (parts.flatMap fun p => (List.range (p.2 / 64)).map fun i => base + p.1 + 64 * i).findSome? fun pa =>
    (areaLineError s k pa).map fun r => (pa, r)

/-! ### numbers of contexts -/

/-- Give the contexts of core k other numbers in everything that names them. -/
def renumberMsg (k : Nat) (f : Nat → Nat) (m : Msg) : Msg :=
  let kind := match m.kind with
    | .succLink line pc px sc sx => .succLink line pc (if pc = k then f px else px) sc (if sc = k then f sx else sx)
    | .handoff line tc tx p => .handoff line tc (if tc = k then f tx else tx) p
    | x => x
  { m with kind := kind, ctx := if m.core = k then f m.ctx else m.ctx }

def renumberWaiter (k : Nat) (f : Nat → Nat) (q : Waiter) : Waiter := if q.1 = k then (q.1, f q.2.1, q.2.2) else q

def renumberLock (k : Nat) (f : Nat → Nat) (l : Lock) : Lock :=
  { l with
    hctx := if l.hcore = k then f l.hctx else l.hctx,
    queue := l.queue.map (renumberWaiter k f), tail := l.tail.map (renumberWaiter k f) }

def renumberSucc (k : Nat) (f : Nat → Nat) (own : Bool) (e : Nat × Nat × Nat × Nat) : Nat × Nat × Nat × Nat :=
  (e.1, (if own then f e.2.1 else e.2.1), e.2.2.1, if e.2.2.1 = k then f e.2.2.2 else e.2.2.2)

def renumberCore (k : Nat) (f : Nat → Nat) (e : Nat × Core) : Nat × Core :=
  let own := e.1 == k
  (e.1, { e.2 with
    succs := e.2.succs.map (renumberSucc k f own),
    ghosts := (if own then e.2.ghosts.map fun g => { g with ctx := f g.ctx } else e.2.ghosts),
    gq := if own then e.2.gq.map fun g => { g with ctx := f g.ctx } else e.2.gq })

def renumber (s : State) (k : Nat) (f : Nat → Nat) : State :=
  { s with
    reqs := s.reqs.map fun r => if r.core = k then { r with ctx := f r.ctx } else r,
    msgs := s.msgs.map (renumberMsg k f),
    locks := s.locks.map (renumberLock k f),
    pages := s.pages.map fun p => if p.core = k then { p with ctx := f p.ctx } else p,
    cores := s.cores.map (renumberCore k f) }

/-- The number of a context once its rank is saved under a number, and that of a saved one once it is restored. -/
def toSaved (num n : Nat) : Nat := if n < 11 then n + 16 * num else n
def fromSaved (num n : Nat) : Nat := if n / 16 = num then n % 16 else n

/-! ### when a core is quiet (12 R266 steps 1 and 3) -/

/-- Step 1; a dom.set in flight and a commit in hand end first (log entry 31). -/
def mayStop (s : State) (k : Nat) : Bool :=
  let c := getCore s k
  c.ctxops.isEmpty && c.xch.isNone && c.domset.isNone &&
    (List.range 11).all fun n => (c.ctx n).mode != .m && (c.ctx n).st != .waiting .commit

/-- Commands that have not paired end with PAIRCANCEL. -/
def cancelPairs (c : Core) : Core :=
  { c with mq := c.mq.map fun x => if paired x && x.pair.isNone && x.status.isNone then
      { x with status := some Status.paircancel, consumed := true } else x }

/-- Step 2: issue stops and transactions abort with PREEMPT. -/
def stopIssue (s : State) (k : Nat) : State :=
  let s := (List.range 11).foldl (fun s n => abortCtx s k n Abort.preempt 0 0) s
  modCore s k fun c => { cancelPairs c with preempting := true }

/-- Only replies from other packages are open. -/
def onlyRemote (s : State) (k : Nat) (r : Req) : Bool :=
  r.core != k || decide (15 < r.ctx) ||
    (r.parts.any (fun p => partRemote s k p) && r.parts.all fun p => p.done || partRemote s k p)

def isArrival : MsgKind → Bool
  | .arrive _ _ _ _ _ => true
  | _ => false

/-- An lk.try of a context awaits a status from the own package. -/
def tryHere (k : Nat) (c : Context) : Bool := c.lockTries.any fun w => !farFrom k w.named

/-- Step 3. -/
def drained (s : State) (k : Nat) : Bool :=
  let c := getCore s k
  ((List.range 11).all fun n => !tryHere k (c.ctx n)) &&
  c.vq.isEmpty && c.mq.isEmpty && c.cq.isEmpty && c.pubs.isEmpty && s.reqs.all (onlyRemote s k) &&
    s.msgs.all fun m => !(m.core == k && decide (m.ctx < 11) && (isArrival m.kind || isNput m.kind))

/-! ### the image (12 R267 to R270) -/

/-- A remap entry as the header holds it. -/
def remapWord (e : Remap) : Nat :=
  e.valid.toNat * 2 ^ 63 + e.sel.toNat * 2 ^ 62 + e.size * 2 ^ 36 + e.twin * 2 ^ 24 + e.log * 2 ^ 12

/-- The registers that the reply of a request writes: number, and whether it is a v register. A request without such a register
has register 0 (log entry 98). -/
def dstRegs : Dst → List (Nat × Bool)
  | .x r _ _ => [(r, false)]
  | .pair r => if r = 0 then [(0, false)] else [(r, false), (r + 1, false)]
  | .v r _ => [(r, true)]
  | .vb r _ _ => [(r, true)]
  | _ => [(0, false)]

/-- The requests of core k to other packages that are outstanding: context, register, v (12 R270). -/
def redirects (s : State) (k : Nat) : List (Nat × Nat × Bool) :=
  ((s.reqs.filter fun r => r.core == k && decide (r.ctx < 11)).flatMap fun r => (dstRegs r.dst).map fun e => (r.ctx, e.1, e.2)) ++
  (List.range 11).flatMap fun n =>
    ((lockRequests (getCtx s k n)).filter fun w => farFrom k w.named).map fun w => (n, w.rd, false)

def redirectWord (e : Nat × Nat × Bool) : Nat := 2 ^ 63 + e.1 * 2 ^ 58 + e.2.2.toNat * 2 ^ 57 + e.2.1 * 2 ^ 52

/-- Contexts of a core that pass a test, as a mask. -/
def ctxMask (c : Core) (t : CtxState → Bool) : Nat :=
  ((List.range 11).map fun n => if t (c.ctx n).st then 2 ^ n else 0).sum

def isLive : CtxState → Bool
  | .free => false
  | .reserved => false
  | _ => true

def isHeld : CtxState → Bool
  | .held _ => true
  | _ => false

/-- The contexts of a core that a save writes. -/
def liveCtxs (c : Core) : List Nat := (List.range 11).filter fun n => isLive (c.ctx n).st

/-- n words of a list, 0 beyond its end. -/
def padTo (n : Nat) (ws : List Nat) : List Nat := (List.range n).map fun i => ws.getD i 0

/-- The deferred traps of every context, in order. -/
def deferredWords (c : Core) : List Nat :=
  (List.range 11).flatMap fun n => (c.ctx n).deferred.flatMap fun d => [d.code, d.value.toNat, n]

def mWords (c : Context) : List Nat :=
  [(mstatusRead c).toNat, c.mepc.toNat, c.mcause.toNat, c.mtval.toNat, c.mscratch.toNat]

/-- The 512 words of the header. -/
def headerWords (s : State) (k : Nat) : List Nat :=
  let c := getCore s k
  let defs := deferredWords c
  [1 + (1 + if defs.isEmpty then 0 else 2) * 2 ^ 32, ctxMask c isLive + ctxMask c isHeld * 2 ^ 32,
   c.qlaunch.toNat, c.spmBytes, (qdomRead c).toNat, c.qrxcnt.toNat,
   c.qupv.toNat, c.qupcause.toNat, c.qupval.toNat, c.qupctx.toNat, c.qupepc.toNat, c.initSp.toNat] ++
  ((List.range 16).map fun i => (fget 0 c.qrgn i).toNat) ++
  [c.qmaxout.toNat, c.qmxw.toNat, c.qpair.toNat, c.qlkto.toNat, c.qlkpark.toNat, c.qcont.toNat, c.qtaillife.toNat,
   c.qtxcfg.toNat] ++
  ((List.range 8).map fun i => remapWord (fget {} c.remap i)) ++
  padTo 4 (c.levels.map levelWord) ++
  padTo 48 (c.upq.flatMap fun u => [2 ^ 63 + u.code, u.value.toNat, (upctxWord u).toNat]) ++
  ((List.range 11).flatMap fun n => mWords (c.ctx n)) ++
  padTo 9 [] ++ padTo 24 defs ++ padTo 72 [] ++
  padTo 256 ((redirects s k).map redirectWord)

def wordBytes (ws : List Nat) : List Byte := ws.flatMap (leBytes 8)

/-- The accumulators, row-major. -/
def accBytes (c : Core) : List Byte := (List.range 16384).flatMap fun e => leBytes 4 (fget 0 c.acc e).toNat
def spmImage (c : Core) : List Byte := (List.range c.spmBytes).map fun o => byteAt c.spm o

/-- Steps 4 and 5: the header, with VALID, the records of the live contexts, the accumulators and the scratchpad. -/
def writeImage (s : State) (k base : Nat) : State :=
  let c := getCore s k
  let s := agentWrite s k 15 (base + 0x16000) (spmImage c)
  let s := agentWrite s k 15 (base + 0x6000) (accBytes c)
  let s := (liveCtxs c).foldl (fun s n =>
    agentWrite s k 15 (base + 0x1000 + 0x600 * n) (recordBytes (c.ctx n))) s
  agentWrite s k 15 base (wordBytes (headerWords s k))

/-- What a saved context keeps outside its image. -/
def keptContext (c : Context) : Context := { c with deferred := [], regs := { c.regs with latch := none } }

/-- The rank leaves the core; its contexts take the numbers 16 * num + n. -/
def leaveCore (s : State) (k id r base : Nat) : State :=
  let c := getCore s k
  let num := freshNum c
  let sr : SavedRank := { launch := id, rank := r, parcel := c.parcel, base := base, spmBytes := c.spmBytes, num := num,
                          halted := c.halted, seip := c.mip.getLsbD 9, slots := c.slots, actSlot := c.actSlot, levels := c.levels, qsave := c.qsave }
  let kept := (liveCtxs c).map fun n => (n + 16 * num, keptContext (c.ctx n))
  let freed := (List.range 11).map fun n => (n, (c.ctx n).ended)
  let s := setCore s k { c.pushSaved sr with
    ctxs := freed ++ kept ++ c.ctxs.filter (fun e => decide (16 ≤ e.1)), launch := none, levels := [], domDepth := 0,
    domLevel := 0, upq := [], slots := [], actSlot := none, preempting := false, halted := false, mip := putBit c.mip 9 false,
    wdogs := 0 }
  let s := { s with hostq := s.hostq.map fun m => match m.watch with
    | some w => if w.1 = k ∧ w.2 < 16 then { m with watch := none } else m
    | none => m }
  renumber s k (toSaved num)

/-- The pre-emption is over; the next one that the core is named for follows. -/
def raiseSaved? (s : State) (k : Nat) (ok : Bool) : State :=
  let s := modCore s k fun c =>
    { c with preempting := false, victimFor := c.victimNext.head?, victimNext := c.victimNext.tail }
  raiseSched s (pkgOf k) (.saved k ok)

/-- The error response of a save or restore is logged for the core's save agent (14 R303). -/
def logArea (s : State) (k : Nat) (e : Nat × Nat) : State := logAccess s k agentCtx e.1 4 e.2

/-- Save, or SAVEFAULT by direct containment. -/
def saveRank (s : State) (k id r : Nat) : State :=
  let c := getCore s k
  let base := bitsOf c.qsave 55 12 * 4096
  let fail := fun (s : State) => raiseSaved? (containDirect s k 0 Cause.savefault (BitVec.ofNat 64 base)) k false
  if c.qsave.getLsbD 0 = false then fail s
  else match saveAreaError s k base (areaParts (liveCtxs c) c.spmBytes) with
    | some e => fail (logArea s k e)
    | none => raiseSaved? (leaveCore (writeImage s k base) k id r base) k true

/-- The rank named for pre-emption is already in the save area. -/
def alreadySaved (c : Core) (id r : Nat) : Bool :=
  (savedRanks c).any (fun x => x.launch == id && x.rank == r) && c.launch.isNone

/-- The launch's rank has yet to start on the core. -/
def rankYetToStart (s : State) (k id : Nat) : Bool :=
  match launchOf s id with
  | some l => l.unstarted.contains k
  | none => false

/-- A save area is held for a committing transaction (17 R338). -/
def areaHeld (s : State) (base : Nat) : Bool := heldForCommit s base saveBytes

/-- PREEMPT: steps 1 and 2 of R266, then, once the core has drained, steps 3 to 5. -/
def execPreempt (core : Nat) (s : State) : Out :=
  let c := getCore s core
  match c.victimFor with
  | none => .next s
  | some (id, r) =>
    if c.launch = some id then
      if c.retiring then .next s
      else if c.preempting then (if drained s core && !areaHeld s (bitsOf c.qsave 55 12 * 4096) then .next (saveRank s core id r) else .next s)
      else if mayStop s core then .next (stopIssue s core) else .next s
    else if rankYetToStart s core id then .next s
    else .next (raiseSaved? s core (alreadySaved c id r))

/-! ### restore (12 R271) -/

/-- A word of the header. -/
def headerAt (s : State) (base off : Nat) : Nat := readLE s.mem (base + off) 8

/-- Registers whose reply is still due: loads and atomics, locks, migrations, gathers and barriers; a counter that broke meanwhile
sends none (04 R103). -/
def pendingX (s : State) (k n : Nat) (c : Context) : List Nat :=
  ((s.reqs.filter fun r => r.core == k && r.ctx == n && !r.orphan).flatMap fun r =>
    ((dstRegs r.dst).filter fun e => !e.2).map (·.1)) ++
  ((lockRequests c).map (·.rd)) ++
  ((s.pages.filter fun p => p.core == k && p.ctx == n && !p.orphan && (p.st == .eft || p.st == .eftHold || p.st == .handover)).map (·.rd)) ++
  (((getCore s k).gq.filter fun g => g.ctx == n && !g.orphan).map (·.rd)) ++
  (waitsOf c).filterMap fun w => match w with
    | .barrier dom _ _ rd .awt => if domBroken s dom then none else some rd
    | _ => none

def pendingV (s : State) (k n : Nat) : List Nat :=
  (s.reqs.filter fun r => r.core == k && r.ctx == n && !r.orphan).flatMap fun r => ((dstRegs r.dst).filter (·.2)).map (·.1)

def pendingF (s : State) (k n : Nat) : List Nat :=
  (s.reqs.filter fun r => r.core == k && r.ctx == n && !r.orphan).filterMap fun r => match r.dst with
    | .f r => some r
    | _ => none

/-- The open entries of the redirect table of a context. -/
def openRedirects (s : State) (base n : Nat) (vreg : Bool) : List Nat :=
  (List.range 256).filterMap fun e =>
    let w := headerAt s base (0x800 + 8 * e)
    if w / 2 ^ 62 = 2 ∧ w / 2 ^ 58 % 16 = n ∧ w / 2 ^ 57 % 2 = vreg.toNat then some (w / 2 ^ 52 % 32) else none

/-- Presence and pending marks of a restored context (12 R271 step 4). -/
def restoreMarks (s : State) (k n base : Nat) (kept : Context) (g : Regs) : Regs :=
  let g := (openRedirects s base n false).foldl (fun g r => emptyX g r) g
  let g := (openRedirects s base n true).foldl (fun g r => emptyV g r) g
  { g with
    xpend := ((pendingX s k n kept).filter (· != 0)).foldl (fun m r => putBit m r true) 0,
    vpend := (pendingV s k n).foldl (fun m r => putBit m r true) 0,
    fpend := (pendingF s k n).foldl (fun m r => putBit m r true) 0 }

/-- The fault address of a held context, which no record holds: the one that was kept, else a free value. -/
def heldAddr (s : State) (kept : Context) : Word × State :=
  match kept.st with
  | .held a => (a, s)
  | _ => freshValue s

/-- The state in which a restored context resumes: that of its record (12 R269). -/
def resumeState (s : State) (k n : Nat) (kept c : Context) (bs : List Byte) : State :=
  let st := fieldOf bs 0x5C8 8 / 2 ^ 61
  let c := { c with st := .live, keptWait := kept.keptWait }
  if st = 0 then setCtx s k n c.ended
  else if st = 3 then let r := heldAddr s kept; setCtx r.2 k n { c with st := .held r.1 }
  else setCtx s k n (match kept.st with
    | .waiting (.lock line) => if (lockRequests kept).any (fun w => w.rd == 0) then { c with st := .waiting (.lock line) } else c
    | _ => if st = 2 then resumeRecord s k n c (fieldOf bs 0 8) else c)

/-- Context n of the rank comes back from its record, its M-mode state from the header. -/
def restoreCtx (base k : Nat) (s : State) (n : Nat) : State :=
  let kept := getCtx s k n
  let bs := getBytes s.mem (base + 0x1000 + 0x600 * n) 0x600
  let m := fun (i : Nat) => BitVec.ofNat 64 (headerAt s base (0x300 + 40 * n + 8 * i))
  let old := { kept with mstatus := mstatusWrite 0 (m 0), mepc := m 1, mcause := m 2, mtval := m 3, mscratch := m 4 }
  let c := contextOfRecord old bs
  let c := { c with regs := restoreMarks s k n base kept c.regs }
  resumeState s k n kept c bs

/-- A held upcall of the header; its hand-back slot follows from its address. -/
def upcallAt (s : State) (base initSp e : Nat) : Option UpcallRec :=
  let a := 0x180 + 24 * e
  let cause := headerAt s base a
  if cause = 0 then none
  else
    let w := headerAt s base (a + 16)
    let v := headerAt s base (a + 8)
    let code := cause % 2 ^ 16
    some { code := code, value := BitVec.ofNat 64 v, tag := w / 2 ^ 32, vreg := w / 2 ^ 13 % 2 == 1, reg := w / 2 ^ 8 % 32,
           ctx := w % 16, slot := if code = Cause.engfault then some ((v - initSp) / 32) else none }

/-- The grant that the header of a save area names, in the steps of a grant (12 R268, 13 R277). -/
def savedGrant (s : State) (base : Nat) : Nat := min 16 (headerAt s base 0x18 / 16384) * 16384

/-- The levels of a saved rank: the domains it belongs to, with the barrier state of the header. -/
def restoreLevels (s : State) (sr : SavedRank) : List Level :=
  sr.levels.mapIdx fun i l =>
    let w := headerAt s sr.base (0x160 + 8 * i)
    { l with last := BitVec.ofNat 32 (w / 2 ^ 32), dropped := w / 2 % 2 == 1, arrived := w % 2 == 1 }

/-- The contexts of a core with those of a saved rank in the place of its own. -/
def savedToOwn (num : Nat) (xs : FMap Context) : FMap Context :=
  (xs.filter fun e => e.1 / 16 != num && !(decide (e.1 < 16) && fhas xs (e.1 + 16 * num))) ++
    (xs.filter fun e => e.1 / 16 == num).map fun e => (e.1 % 16, e.2)

/-- The core's registers from the header; qsave, which is saved with the core, has no place there (02 R32). -/
def restoreCore (s : State) (k : Nat) (sr : SavedRank) (c : Core) : Core :=
  let h := fun (off : Nat) => headerAt s sr.base off
  let w := fun (off : Nat) => BitVec.ofNat 64 (h off)
  let grant := savedGrant s sr.base
  let c := repartition (c.dropSaved sr.num) grant
  { c with
    qlaunch := w 0x10, domLevel := BitVec.ofNat 2 (h 0x20), domDepth := BitVec.ofNat 2 (h 0x20 / 4),
    qrxcnt := BitVec.ofNat 32 (h 0x28), qupv := w 0x30, qupcause := w 0x38, qupval := w 0x40, qupctx := w 0x48,
    qupepc := w 0x50, initSp := w 0x58,
    qrgn := (List.range 16).map fun i => (i, w (0x60 + 8 * i)),
    qmaxout := BitVec.ofNat 9 (h 0xE0), qmxw := BitVec.ofNat 4 (h 0xE8), qpair := BitVec.ofNat 32 (h 0xF0),
    qlkto := BitVec.ofNat 32 (h 0xF8), qlkpark := BitVec.ofNat 32 (h 0x100), qcont := w 0x108 &&& qcontMask,
    qtaillife := BitVec.ofNat 32 (h 0x110), qtxcfg := w 0x118, qsave := sr.qsave,
    remap := (List.range 8).map fun i => (i, remapOfWord (w (0x120 + 8 * i))),
    acc := (List.range 16384).map fun e => (e, BitVec.ofNat 32 (readLE s.mem (sr.base + 0x6000 + 4 * e) 4)),
    spm := putBytes [] 0 (getBytes s.mem (sr.base + 0x16000) grant),
    upq := (List.range 16).filterMap (upcallAt s sr.base (h 0x58)),
    levels := restoreLevels s sr, slots := sr.slots, actSlot := sr.actSlot, halted := sr.halted,
    launch := some sr.launch, rank := sr.rank, parcel := sr.parcel, retiring := false, domset := none, xch := none,
    mip := if sr.seip then putBit c.mip 9 true else c.mip, wdogs := 0, lastIssue := ownCycle s k,
    ctxs := savedToOwn sr.num c.ctxs }

/-- The deferred traps of the header go to their contexts (12 R271 step 7). -/
def restoreDeferred (base k : Nat) (s : State) (e : Nat) : State :=
  let a := 0x500 + 24 * e
  let code := headerAt s base a
  if code = 0 then s
  else modCtx s k (headerAt s base (a + 16) % 16) fun c => { c with
    deferred := c.deferred ++ [⟨code, BitVec.ofNat 64 (headerAt s base (a + 8))⟩] }

/-- The request of a parked grant is with its context again. -/
def unpark (k : Nat) (s : State) (g : ParkedGrant) : State :=
  modCtx s k (g.ctx % 16) fun c =>
    if g.once.isSome then { c with lockTries := c.lockTries ++ [g.wait] } else { c with lockWait := some g.wait }

/-- Grants parked in time are held by their contexts; a line that the buffer still holds goes to the L1 (17 R345). -/
def takeParked (k : Nat) (s : State) (g : ParkedGrant) : State :=
  let n := g.ctx % 16
  let s := if g.carried && bufferHas s k g.line && carriesLine s g.line k then moveLine s k g.line else s
  giveLock (completeFor s k n g.once (if g.poisoned then Status.prevdied else 0)) k n g.line

/-- The contexts that the header of a save area names live. -/
def savedLive (s : State) (base : Nat) : List Nat := (List.range 11).filter fun n => (readLE s.mem (base + 8) 4).testBit n

/-- The map of the schedulers learns of a save area that came or went with the rank (11 R237). -/
def noteArea (s : State) (k : Nat) (old new : Word) : State :=
  let c := getCore s k
  if old.getLsbD 0 = new.getLsbD 0 then s else raiseSched s (pkgOf k) (.ctl k (c.qsave.getLsbD 0) (c.qcont.getLsbD 5))

/-- The rank is back on its core. -/
def restoreRank (s : State) (k : Nat) (sr : SavedRank) : State :=
  let live := savedLive s sr.base
  let area := (getCore s k).qsave
  let mine := fun (g : ParkedGrant) => g.ctx / 16 == sr.num
  let parked := (getCore s k).parkedGrants.filter mine
  let s := renumber s k (fromSaved sr.num)
  let s := modCore s k fun c => { restoreCore s k sr c with parkedGrants := c.parkedGrants.filter fun g => !mine g }
  let s := parked.foldl (unpark k) s
  let s := noteArea s k area sr.qsave
  let s := ((List.range 11).filter fun n => !live.contains n).foldl (fun s n => modCtx s k n Context.ended) s
  let s := live.foldl (restoreCtx sr.base k) s
  let s := agentWrite s k 15 (sr.base + 4) (leBytes 4 (readLE s.mem (sr.base + 4) 4 / 2 * 2))
  let s := parked.foldl (takeParked k) s
  (List.range 8).foldl (restoreDeferred sr.base k) s

/-- A failed restore retires the saved rank by direct containment under the map's qcont (12 R272): the rank stops as one that
the core runs, and retires once its issued accesses have been performed and answered (12 R265). -/
def failRestore (s : State) (k : Nat) (sr : SavedRank) : State :=
  let s := renumber (holdParked s k sr.num) k (fromSaved sr.num)
  let own := (getCore s k).qcont
  let s := modCore s k fun c => { c.dropSaved sr.num with
    launch := some sr.launch, rank := sr.rank, parcel := sr.parcel, levels := sr.levels,
    domDepth := BitVec.ofNat 2 (sr.levels.length - 1), qcont := (occOf s k).qcont, ctxs := savedToOwn sr.num c.ctxs }
  let s := contain s k 0 Cause.savefault (BitVec.ofNat 64 sr.base) 0 0 (BitVec.ofNat 32 (lidOf k))
  modCore s k fun c => { c with qcont := own }

/-- The saved rank of a core that its occupancy map names to run. -/
def rankToRestore (s : State) (k : Nat) : Option SavedRank :=
  (savedRanks (getCore s k)).find? fun r => (occOf s k).occ == some (r.launch, r.rank) && !r.ending

/-- A grant parked for a saved rank has outlasted its time and is to be handed on first (17 R345). -/
def parkOver (s : State) (k num : Nat) : Bool :=
  (getCore s k).parkedGrants.any fun g => g.ctx / 16 == num && decide (g.deadline ≤ ownCycle s k)

/-- RESTORE -/
def execRestore (core : Nat) (s : State) : Out :=
  let c := getCore s core
  match rankToRestore s core with
  | none => .next s
  | some sr =>
    if c.launch.isSome ∨ c.victimFor.isSome ∨ c.quarantined = true ∨ parkOver s core sr.num = true ∨ areaHeld s sr.base = true then
      .next s
    else match saveAreaError s core sr.base (areaParts (savedLive s sr.base) (savedGrant s sr.base)) with
      | some e => .next (failRestore (logArea s core e) core sr)
      | none => .next (restoreRank (wakeCore s core) core sr)

/-! ### resets (02 R28, 20 R390) -/

/-- CORE_RESET: a running rank stops first; a saved rank, which is in memory, stays, and the core is named for
pre-emption as before (log entry 32). -/
def resetCore (s : State) (k : Nat) : State :=
  let s := stopNow s k
  let s := { s with reqs := s.reqs.filter fun r => !(r.core == k && decide (r.ctx < 16)) }
  modCore s k fun c => { Core.reset with
    gq := c.gq.filter (fun g => decide (16 ≤ g.ctx)), saved := c.saved, below := c.below, parkedGrants := c.parkedGrants,
    victimFor := c.victimFor, victimNext := c.victimNext, quarantined := c.quarantined, ghosts := c.ghosts, succs := c.succs,
    ctxs := (0, { mode := .m, st := .live }) :: c.ctxs.filter fun e => decide (16 ≤ e.1) }

def execCoreReset (core : Nat) (s : State) : Out := .next (resetCore s core)

/-- The array of a core after a partition reset (20 R390 step 4); saved ranks that are stopped stay until their accesses are
answered (12 R265). -/
def cleanCore (c : Core) : Core :=
  { tenantCsrs c with gq := ownGathers c, l1 := [], l1ptr := [], spm := [], spmBytes := 0, remap := [], victimFor := none,
                      victimNext := [], preempting := false, parkedGrants := [] }

/-- A line that is newer in a cache than in memory. -/
def dirtyAt (d : DirLine) : Bool := d.st == .m || d.st == .o || d.st == .p

/-- A line's last writer is one of some cores. -/
def wroteLast (d : DirLine) (ks : List Nat) : Bool := decide (0 < d.writer) && ks.contains (d.writer - 1)

/-- Lines in flight that a core of the partition wrote last. -/
def flightLines (s : State) (ks : List Nat) : List Nat := (s.dir.filter fun e => dirtyAt e.2 && wroteLast e.2 ks).map (·.1)

/-- The lines of a partition in the caches: those of its windows that no core outside it has written since memory was (20 R390; log
entry 102). -/
def partLines (s : State) (p : Partn) (ks : List Nat) : List Nat :=
  ((s.l2.map fun e => e.1 / 16).eraseDups).filter fun line =>
    p.windows.any (fun w => windowHolds w (line * 64) 64) && (!dirtyAt (dirOf s line) || wroteLast (dirOf s line) ks)

/-- A line leaves the L1s, the L2s and the LLC without write-back. -/
def invalidateLine (s : State) (line : Nat) : State :=
  let s := dropCopies s line fun _ => false
  setDir s line { dirOf s line with st := .i, ph := 0 }

/-- The launches of a partition: waiting ones leave without a record. -/
def emptyQueues (s : State) (pkg num : Nat) : State :=
  let gone := fun (l : Launch) => l.pkg == pkg && l.part == num && !l.started
  let ids := (s.launches.filter gone).map (·.id)
  { s with
    launches := s.launches.filter fun l => !gone l,
    events := fset s.events pkg ((fget [] s.events pkg).filter fun e => match e with
      | .submit id => !ids.contains id
      | _ => true) }

/-- The saved ranks of a core retire with the partition. -/
def stopSaved (s : State) (k : Nat) : State := (savedRanks (getCore s k)).foldl (fun s r => stopSavedRank s k r) s

/-- Ranks of the partition that have not started never do. -/
def stopUnstarted (s : State) (pkg num : Nat) : State :=
  (s.launches.filter fun l => l.pkg == pkg && l.part == num && l.started && !l.finished).foldl (fun s l =>
    l.unstarted.foldl (fun s k => raiseSched s pkg (.retire k l.id)) (modLaunch s l.id fun x => { x with unstarted := [] })) s

/-- A migration before step 5 of its handover returns to settled. -/
def settleOf (s : State) (ks : List Nat) : State :=
  (s.pages.filter fun p => beforeInstall p && ks.contains p.core).foldl settlePage s

/-- A partition reset (20 R390). -/
def resetPart (s : State) (pkg num : Nat) (p : Partn) : State :=
  let ks := coresOfPart s pkg p
  let s := ks.foldl (fun s k => stopSaved (stopNow s k) k) (stopUnstarted s pkg num)
  let s := settleOf s ks
  let s := (flightLines s ks).foldl poisonLine s
  let s := (partLines s p ks).foldl invalidateLine s
  let s := ks.foldl (fun s k => modOcc (modCore s k cleanCore) k fun o => { o with saveV := false }) s
  postPart (emptyQueues s pkg num) pkg num p 9 0 0 0

/-- PARTITION_RESET: a PART event, which takes its place behind the events raised before it (11 R237). -/
def execPartitionReset (pkg num : Nat) (s : State) : Out :=
  match s.parts.find? fun e => e.1 == partKey pkg num with
  | some (_, p) =>
    if fget [] s.events pkg ≠ [] then .next s
    else
      let n := fget 0 s.seq pkg
      .next (distribute (resetPart { s with seq := fset s.seq pkg (n + 1) } pkg num p) pkg num n)
  | none => .next s

end Sys2Proof.Machine
end

