-- ==== Sys2Proof/Machine/HostExec.lean ====
section
/-! DEFINITION. The host transport: messages of the host, replies of the host, the proxy cores, bring-up and the
attestation report (20 R383 to R388, R391 to R394). -/
namespace Sys2Proof.Machine

/-! ### device memory for the host (20 R384, 14 R289) -/

/-- The error response of an access by a tenant's memory endpoint. Of two ranks on a core, it reaches the running one. -/
def endpointError (s : State) (pkg tenant pa n : Nat) (write whole : Bool) : Option Nat :=
  let sp := paSpace pa
  if 2 ^ 56 ≤ pa ∨ ¬ (sp = 0 ∨ sp = 1 ∨ sp = 2 ∨ sp = 8 ∨ sp = 15) then some Reason.reserved
  else if !s.pkgs.contains (paPkg pa) then some Reason.absent
  else match windowCheck (tenantWindows s pkg tenant) pa n write with
    | some r => some r
    | none =>
      if paPkg pa != pkg && unreachable s pkg (paPkg pa) then some Reason.linklost
      else if paPkg pa != pkg && (windowCheck (tenantWindows s (paPkg pa) tenant) pa n write).isSome then some Reason.farwindow
      else if sp < 2 then mainError s pa n whole
      else if sp = 2 then
        if 2 ^ 30 ≤ paOff pa then some Reason.absent
        else if spmWithheld s pa then some Reason.withheld
        else if tenantOf (getCore s (windowCore pa)) = tenant ∧
            (((rankOn s (windowCore pa)).take 1).any fun r => decide (windowByte pa + n ≤ r.2)) then none else some Reason.notlaunch
      else some Reason.absent

/-- Where the bytes of a line lie for the host. -/
def endpointPlace (s : State) (pkg tenant pa n : Nat) (write : Bool) : Except Nat Place × State :=
  match endpointError s pkg tenant pa n write (write && n == 64) with
  | some reason => (.error reason, s)
  | none =>
    if isMain pa then
      match route s write 2 pa with
      | .serve q => (.ok (if heldForCommit s q n then .wait else .mem q), noteForwards s pkg 2 pa)
      | .wait => (.ok .wait, s)
      | .chain => (.error Reason.migchain, noteForwards s pkg 2 pa)
      | .stale => (.error Reason.migstale, noteForwards s pkg 2 pa)
    else if isSpm pa then
      let t := windowCore pa
      if (getCore s t).launch.isSome then (.ok (.spm t (windowByte pa)), s)
      else match (savedRanks (getCore s t)).find? fun r => !r.ending with
        | some r => (.ok (if (List.range n).any (fun i => placeImage s t r (windowByte pa + i) == .wait) then .wait
            else .image t r.num (windowByte pa)), s)
        | none => (.error Reason.notlaunch, s)
    else (.error Reason.absent, s)

/-- What stops a host access: an error response at an address, or a wait. -/
inductive Ended where
  | ok
  | error (pa reason : Nat)
  | wait
  deriving DecidableEq, Repr

/-- Read the bytes line by line. -/
def endpointRead (s : State) (pkg tenant : Nat) : Nat → Nat → Nat → Ended × List Byte × State
  | 0, _, _ => (.ok, [], s)
  | fuel + 1, pa, n =>
    if n = 0 then (.ok, [], s)
    else
      let m := lineRest pa n
      match endpointPlace s pkg tenant pa m false with
      | (.error r, s) => (.error pa r, [], s)
      | (.ok .wait, s) => (.wait, [], s)
      | (.ok p, s) =>
        let r := placeGet s s.turn 15 m p
        match endpointRead r.2 pkg tenant fuel (pa + m) (n - m) with
        | (e, bs, s) => (e, r.1 ++ bs, s)

/-- Write the bytes line by line. -/
def endpointWrite (s : State) (pkg tenant : Nat) : Nat → Nat → List Byte → Ended × State
  | 0, _, _ => (.ok, s)
  | fuel + 1, pa, bs =>
    if bs.isEmpty then (.ok, s)
    else
      let m := lineRest pa bs.length
      match endpointPlace s pkg tenant pa m true with
      | (.error r, s) => (.error pa r, s)
      | (.ok .wait, s) => (.wait, s)
      | (.ok p, s) => endpointWrite (placePut s s.turn 15 (bs.take m) p) pkg tenant fuel (pa + m) (bs.drop m)

/-- A refused access of the host is logged, with the address of the line that was refused (14 R303). -/
def logEndpoint (s : State) (pkg tenant pa reason kind : Nat) : State :=
  let part := ((tenantPart s pkg tenant).map (·.1)).getD 0
  post s { pkg := loggedAt s pkg pa reason, tenant := tenant, type := 1, code := reasonCode reason, part := part,
           addr := BitVec.ofNat 64 pa, value := BitVec.ofNat 64 kind }

/-- An accepted request of the memory endpoint takes its place by its SEQ. -/
def queueRequest (q : HostReq) : List HostReq → List HostReq
  | [] => [q]
  | p :: ps => if q.seq < p.seq then q :: p :: ps else p :: queueRequest q ps

/-- Every message of the tenant before a sequence has been accepted, as far as it still can be (20 R384, R386; log entry 100). -/
def inOrder (x : Session) (seq : Nat) : Bool :=
  let low := max 1 (x.highest - 1024)
  (x.seen.filter fun n => decide (low ≤ n) && decide (n < seq)).length == seq - low

/-- A request of the memory endpoint is performed and answered; none while a line of it waits. -/
def performHost (s : State) (pkg tenant : Nat) (q : HostReq) : Option State :=
  match q.data with
  | none => match endpointRead s pkg tenant (q.len / 64 + 2) q.pa q.len with
    | (.ok, bs, s) => some (reply s pkg tenant q.seq q.reqId 0 bs)
    | (.error pa r, _, s) => some (reply (logEndpoint s pkg tenant pa r 1) pkg tenant q.seq q.reqId (reasonCode r) [])
    | (.wait, _, _) => none
  | some bs => match endpointWrite s pkg tenant (q.len / 64 + 2) q.pa bs with
    | (.ok, s) => some (reply s pkg tenant q.seq q.reqId 0 [])
    | (.error pa r, s) => some (reply (logEndpoint s pkg tenant pa r 2) pkg tenant q.seq q.reqId (reasonCode r) [])
    | (.wait, _) => none

/-- The first request of a tenant's memory endpoint is performed, once every message before it has come. -/
def serveHost (pkg tenant : Nat) (s : State) : State :=
  let x := sessionOf s pkg tenant
  match x.pend with
  | [] => s
  | q :: rest =>
    if inOrder x q.seq then (performHost (setSession s pkg tenant { x with pend := rest }) pkg tenant q).getD s else s

/-- A request reaches the memory endpoint: a malformed one is answered at once, another waits for its place in message order. -/
def hostRequest (s : State) (pkg tenant : Nat) (q : HostReq) : Out :=
  match accept s pkg tenant q.seq with
  | none => .next (again s pkg tenant q.seq)
  | some s =>
    if q.len = 0 ∨ 8192 < q.len then .next (reply s pkg tenant q.seq q.reqId Status.malformed [])
    else .next (serveHost pkg tenant (modSession s pkg tenant fun x => { x with pend := queueRequest q x.pend }))

/-- MEMRD -/
def execMemrd (pkg tenant : Nat) (msgId : MsgId) (pa len : Nat) (s : State) : Out :=
  hostRequest s pkg tenant { seq := msgId.seq, reqId := msgId.reqId, pa := pa, len := len }

/-- MEMWR -/
def execMemwr (pkg tenant : Nat) (msgId : MsgId) (pa : Nat) (data : List (BitVec 8)) (s : State) : Out :=
  hostRequest s pkg tenant { seq := msgId.seq, reqId := msgId.reqId, pa := pa, len := data.length, data := some data }

/-! ### doorbell and event queue (20 R384, R385, R391) -/

/-- A core of one of the tenant's partitions. -/
def tenantCore (s : State) (pkg tenant core : Nat) : Bool :=
  s.parts.any fun e => e.1 / 128 == pkg && e.2.tenant == tenant && e.2.quads.getLsbD (core / 32)

/-- Set SEIP; of a core that holds a saved rank it stays pending in the save area. -/
def ringBell (s : State) (k : Nat) : State :=
  modCore s k fun c => match c.saved with
    | some r => { c with saved := some { r with seip := true } }
    | none => { c with mip := putBit c.mip 9 true }

/-- DOORBELL -/
def execDoorbell (pkg tenant : Nat) (msgId : MsgId) (core : Nat) (s : State) : Out :=
  match accept s pkg tenant msgId.seq with
  | none => .next (again s pkg tenant msgId.seq)
  | some s =>
    if tenantCore s pkg tenant core && decide (core < 4096) then
      .next (reply (ringBell s (pkg * 4096 + core)) pkg tenant msgId.seq msgId.reqId 0 [])
    else
      let s := post s { pkg := pkg, tenant := tenant, type := 1, code := Reason.notlaunch,
                        part := ((tenantPart s pkg tenant).map (·.1)).getD 0, core := BitVec.ofNat 32 core,
                        value := 2 }
      .next (reply s pkg tenant msgId.seq msgId.reqId Reason.notlaunch [])

/-- EVREAD: the entries that the host has read, counted modulo 2^32 (log entry 33). -/
def execEvread (pkg tenant msgSeq index : Nat) (s : State) : Out :=
  match accept s pkg tenant msgSeq with
  | none => .next (again s pkg tenant msgSeq)
  | some s =>
    let key := ringKey pkg tenant
    if fhas s.rings key = false then .next s
    else
      let r := fget { log2n := 0, window := 0, offset := 0 } s.rings key
      let left := (r.written % 2 ^ 32 + 2 ^ 32 - index % 2 ^ 32) % 2 ^ 32
      if left ≤ 2 ^ r.log2n ∧ left ≤ r.written then
        .next { s with rings := fset s.rings key { r with read := r.written - left } }
      else .next s

/-! ### management (20 R386, R387, R393, R394) -/

/-- KEYAGREE: performed only with a valid signature of the operator. -/
def execKeyagree (pkg : Nat) (msgId : MsgId) (pub : BitVec 256) (sig : BitVec 512) (s : State) : Out :=
  let x := sessionOf s pkg 0
  let msg := leBytes 64 (Config.sha512 (leBytes 32 pub.toNat ++ leBytes 8 msgId.seq)).toNat
  if Config.operatorVerify pkg msg sig = false ∨ transportUp s pkg = false then .next s
  else if seqFresh x msgId.seq = false then .next (again s pkg 0 msgId.seq)
  else
    let s := setSession s pkg 0 { acceptSeq x msgId.seq with
      known := true, h2d := Config.managementKey pkg msgId.seq pub false, d2h := Config.managementKey pkg msgId.seq pub true }
    let dev := leBytes 32 (Config.devicePublic pkg msgId.seq).toNat
    let both := leBytes 64 (Config.sha512 (leBytes 32 pub.toNat ++ dev)).toNat
    .next (reply s pkg 0 msgId.seq msgId.reqId 0 (dev ++ leBytes 64 (Config.deviceSign pkg both).toNat))

/-- First physical address of a socket's range. -/
def socketBase (pkg socket : Nat) : Nat :=
  if 12 ≤ socket ∧ socket < 20 then pkg * 2 ^ 48 + (socket - 12) * 0xC00000000
  else if socket = 20 then pkg * 2 ^ 48 + 2 ^ 44
  else if socket = 21 then pkg * 2 ^ 48 + 2 ^ 44 + 6 * 0x4000000000
  else 0

/-- The first physical address that is withheld with a die: of its range, of the scratchpads of its cores, or homed on its slices
(14 R286, R288, R289; 20 R393). -/
def withheldBase (pkg socket : Nat) : Nat :=
  if socket < 4 then windowOf (pkg * 4096 + socket * 1024) 0
  else if socket < 12 then pkg * 2 ^ 48 + (socket - 4) * 1024
  else socketBase pkg socket

/-- What a package has withheld: socket and first address of each die, and of each DDR-5 channel under the die that carries it
(20 R381, R393; log entry 101). -/
def withheldParts (s : State) (pkg : Nat) : List (Nat × Nat) :=
  let b := bootOf s pkg
  ((List.range 23).filter fun i => b.withheld.getLsbD i).map (fun i => (i, withheldBase pkg i)) ++
  ((List.range 12).filter fun c => b.channels.getLsbD c).map
    fun c => (if c < 6 then 20 else 21, pkg * 2 ^ 48 + 2 ^ 44 + c * 0x4000000000)

/-- DEGRADED for everything withheld, when a tenant attaches. -/
def postDegraded (s : State) (pkg tenant : Nat) : State :=
  let b := bootOf s pkg
  (withheldParts s pkg).foldl (fun s e =>
    post s { pkg := pkg, tenant := tenant, type := 12, code := e.1, part := ((tenantPart s pkg tenant).map (·.1)).getD 0,
             addr := BitVec.ofNat 64 e.2, value := BitVec.ofNat 64 b.degrade.toNat }) s

/-- KEYSET: with its keys a tenant attaches. -/
def execKeyset (pkg : Nat) (msgId : MsgId) (tenant : Nat) (h2d d2h : BitVec 256) (s : State) : Out :=
  match accept s pkg 0 msgId.seq with
  | none => .next (again s pkg 0 msgId.seq)
  | some s =>
    let t := tenant % 65536
    let s := reply (setSession s pkg t { sessionOf s pkg t with known := true, h2d := h2d, d2h := d2h }) pkg 0 msgId.seq msgId.reqId 0 []
    .next (postDegraded s pkg t)

/-- EVRING -/
def execEvring (pkg : Nat) (msgId : MsgId) (tenant log2n window offset : Nat) (s : State) : Out :=
  match accept s pkg 0 msgId.seq with
  | none => .next (again s pkg 0 msgId.seq)
  | some s =>
    if log2n < 6 ∨ 20 < log2n ∨ 63 < window then .next (reply s pkg 0 msgId.seq msgId.reqId Status.malformed [])
    else
      let r : Ring := { log2n := log2n, window := window, offset := offset }
      .next (reply { s with rings := fset s.rings (ringKey pkg (tenant % 65536)) r } pkg 0 msgId.seq msgId.reqId 0 [])

/-- HWIN -/
def execHwin (pkg : Nat) (msgId : MsgId) (tenant window : Nat) (wr : Bool) (base size : Nat) (s : State) : Out :=
  match accept s pkg 0 msgId.seq with
  | none => .next (again s pkg 0 msgId.seq)
  | some s =>
    if 63 < window then .next (reply s pkg 0 msgId.seq msgId.reqId Status.malformed [])
    else
      let t := tenant % 65536
      let w : HostWin := { pkg := pkg, tenant := t, window := window, wr := wr, base := base, size := size }
      let rest := s.hwins.filter fun h => !(h.pkg == pkg && h.tenant == t && h.window == window)
      .next (reply { s with hwins := rest ++ [w] } pkg 0 msgId.seq msgId.reqId 0 [])

/-- A socket's status in the report: 0 authenticated, 1 withheld, 2 absent (20 R394). -/
def socketStatus (b : Boot) (i : Nat) : Nat := if b.absent.getLsbD i then 2 else (b.withheld.getLsbD i).toNat

/-- Bytes 0x000 to 0x1BF of the attestation report. -/
def reportBytes (s : State) (pkg : Nat) (nonce : BitVec 256) : List Byte :=
  let b := bootOf s pkg
  leBytes 4 1 ++ leBytes 4 b.degrade.toNat ++ leBytes 8 pkg ++ leBytes 32 (Config.deviceKey pkg).toNat ++
    leBytes 64 (Config.firmwareHash pkg).toNat ++
    ((List.range 23).flatMap fun i => leBytes 8 (socketStatus b i * 2 ^ 56 + socketBase pkg i)) ++
    leBytes 32 nonce.toNat ++ leBytes 120 0

/-- ATTEST -/
def execAttest (pkg : Nat) (msgId : MsgId) (nonce : BitVec 256) (s : State) : Out :=
  match accept s pkg 0 msgId.seq with
  | none => .next (again s pkg 0 msgId.seq)
  | some s =>
    let body := reportBytes s pkg nonce
    let sig := Config.deviceSign pkg (leBytes 64 (Config.sha512 body).toNat)
    .next (reply s pkg 0 msgId.seq msgId.reqId 0 (body ++ leBytes 64 sig.toNat))

/-! ### host windows (20 R387, R388) -/

def findHost (s : State) (id : Nat) : Option HostMsg := s.hostq.find? fun m => m.id == id

/-- The reply completes an access of a context; where the host refused it, it is an error response (log entry 99). -/
def hostAnswer (s : State) (rid i status : Nat) (m : HostMsg) (data : List Byte) : State :=
  match findReq s rid with
  | none => s
  | some r => match r.parts[i]? with
    | none => s
    | some p =>
      if p.done then s
      else if status ≠ 0 then errorPart s r p status
      else if m.type = 0x11 then partDone s rid i 0
      else partDone s rid i (readValue r.kind (leNat (data.take p.n)))

/-- The reply completes an engine's access. A save goes on at the line from which a fill has made it start again (04 R89). -/
def hostEngine (s : State) (k id : Nat) (m : HostMsg) (data : List Byte) : State :=
  let wr := m.type == 0x11
  let s := modCopy s k id fun x =>
    if wr then { x with hostWait := false, pos := x.pos + m.len, hostData := x.hostData.drop m.len }
    else { x with hostWait := false, hostData := x.hostData ++ data.take m.len }
  let s := modGather s k id fun g =>
    if wr then { g with hostWait := false, pos := g.pos + m.len, hostData := g.hostData.drop m.len }
    else { g with hostWait := false, hostData := g.hostData ++ data.take m.len }
  modCtxOp s k id fun o =>
    if wr then { o with hostWait := false, pos := o.redo.getD (o.pos + 1), redo := none }
    else { o with hostWait := false, pos := o.pos + 1, data := o.data ++ data.take m.len }

/-- The host refused an engine's access: the command has failed. -/
def hostEngineFails (s : State) (k id status : Nat) (m : HostMsg) : State :=
  let pa := pkgOf k * 2 ^ 48 + 8 * 2 ^ 44 + m.window * 2 ^ 38 + m.offset
  let c := getCore s k
  let who := ((c.cq.filter fun x => x.id == id).map (·.ctx) ++ (c.gq.filter fun g => g.id == id).map (·.ctx) ++
    (c.ctxops.filter fun o => o.id == id).map (·.issuer)).headD 0
  let s := logAccess s k who pa 4 status
  let s := modCopy s k id fun x => { x with hostWait := false, failed := true }
  let s := modGather s k id fun g => { g with hostWait := false, failed := true }
  match c.ctxops.find? fun o => o.id == id with
  | some o => if o.load then failLoad s k o Status.accesserr else endCtxOp s k o Status.accesserr
  | none => s

/-- The reply to a poll tests a wait for that word again. -/
def hostWatch (s : State) (k n status : Nat) (m : HostMsg) (data : List Byte) (kept : Bool) : State :=
  match watchAt (getCtx s k n) kept with
  | none => s
  | some w =>
    if isHost w.loc && w.loc < ownWord && paOff w.loc == m.window * 2 ^ 38 + m.offset then
      (if status = 0 then showWord s k n kept (leNat (data.take 8)) else watchFails s k n w status)
    else s

/-- The write that waited for an acknowledgement leaves (01 R17, 20 R391). -/
def sendFollow (s : State) (m : HostMsg) : State :=
  match m.follow with
  | [] => s
  | (off, bs) :: rest =>
    toHost s { id := 0, pkg := m.pkg, tenant := m.tenant, type := 0x11, window := m.window, offset := off, len := bs.length,
               data := bs, follow := rest, seq := 0 }

/-- What the reply to a message is for. -/
def hostDone (s : State) (m : HostMsg) (status : Nat) (data : List Byte) : State :=
  match m.req, m.cmd, m.watch, m.table with
  | some (rid, i), _, _, _ => hostAnswer s rid i status m data
  | none, some (k, cid), _, _ => if status = 0 then hostEngine s k cid m data else hostEngineFails s k cid status m
  | none, none, some (k, n), _ => hostWatch (hostWatch s k n status m data false) k n status m data true
  | none, none, none, some t => tableReply s t status m data
  | none, none, none, none => if status = 0 then sendFollow s m else s

/-- A status that the host may send (20 R386), and with success the bytes of a read. -/
def replyWhole (m : HostMsg) (status : Nat) (data : List Byte) : Bool :=
  (status == 0 && (m.type == 0x11 || decide (m.len ≤ data.length))) || decide (1 ≤ status ∧ status ≤ 11) || status == Status.malformed

/-- HOST_REPLY: a message of the host like any other, accepted once by its SEQ; its REQID names the device's message. -/
def execHostReply (id : Nat) (answer : HostAnswer) (s : State) : Out :=
  match findHost s id with
  | none => .next s
  | some m => match accept s m.pkg m.tenant answer.seq with
    | none => .next s
    | some s =>
      if replyWhole m answer.status answer.data then .next (hostDone { s with hostq := s.hostq.filter fun x => x.id != id } m answer.status answer.data)
      else .next s

/-- OP code, address, width and operand of the host message of an atomic access (03 R57; log entry 22). -/
def hostAtomic (kind : ReqKind) (p : Part) : Option (Nat × Nat × Nat × Nat) :=
  match kind with
  | .atomic op => some (op, p.pa, p.n, p.data)
  | .reduce tag =>
    some (if tag / 2 = 0 then 0 else if tag / 2 = 1 then 4 else if tag / 2 = 2 then 5 else 10, p.pa, p.n, p.data)
  | .signal => some (0, p.pa, 8, p.data)
  | .ticketGet => some (0, p.pa, 8, 2 ^ 32)
  | .ticketAdv => some (0, p.pa, 4, 1)
  | _ => none

/-- An earlier atomic of the die and lane has not been sent. -/
def proxyBehind (s : State) (r : Req) (p : Part) : Bool :=
  s.reqs.any fun q => decide (q.order < r.order) && dieOf q.core == dieOf r.core && !q.queued && q.parts.any fun o =>
    isHost o.pa && !o.own && !o.done && !o.sent && laneOf o.pa == laneOf p.pa && (hostAtomic q.kind o).isSome

/-- PROXY_ATOMIC -/
def execProxyAtomic (id : Nat) (s : State) : Out :=
  match findReq s id with
  | none => .next s
  | some r => match r.parts.findIdx? fun p => isHost p.pa && !p.own && !p.done && !p.sent with
    | none => .next s
    | some i => match r.parts[i]? with
      | none => .next s
      | some p => match hostAtomic r.kind p with
        | none => .next s
        | some (op, pa, n, v) =>
          if orderAllows s r p = false ∨ proxyBehind s r p = true then .next s
          else match accessError s r.core r.mode p.pa p.n true false with
            | some reason => .next (errorPart s r p reason)
            | none =>
              let s := mapPart s r.id i fun q => { q with sent := true }
              let m : HostMsg := {
                id := 0, pkg := pkgOf r.core, tenant := tenantOf (getCore s r.core), type := 0x12,
                window := paOff pa / 2 ^ 38, offset := paOff pa % 2 ^ 38, len := n, data := leBytes 16 v,
                cmp := leBytes 16 p.cmp, op := op, req := some (r.id, i), seq := 0 }
              .next (toHost s m)

/-- A message that is sent again now. -/
def resend (now pkg tenant seq : Nat) (m : HostMsg) : HostMsg :=
  if m.pkg == pkg && m.tenant == tenant && m.seq == seq && decide (m.sentAt + 100 * Config.cyclesPerUs ≤ now) then
    { m with sentAt := now }
  else m

/-- RETRANSMIT: a message of the device that is not acknowledged within 100 us is sent again, with its SEQ. -/
def execRetransmit (pkg tenant msgSeq : Nat) (s : State) : Out :=
  .next { s with hostq := s.hostq.map (resend s.cycle pkg tenant msgSeq) }

/-! ### bring-up (20 R392, R393) -/

/-- Everything that a package holds is gone at power-on; the package gets the number of its strap (log entry 34). -/
def powerOn (s : State) (pkg num : Nat) : State :=
  let far := fun (p : Nat) => p != pkg && p != num
  { s with
    pkgs := sortBy (fun a b => decide (a ≤ b)) (s.pkgs.filter far ++ [num]),
    turn := if far (pkgOf s.turn) then s.turn else num * 4096,
    cores := s.cores.filter fun e => far (pkgOf e.1),
    mem := s.mem.filter fun e => far (paPkg e.1),
    reqs := s.reqs.filter fun r => far (pkgOf r.core),
    msgs := s.msgs.filter fun m => far (pkgOf m.core),
    dir := s.dir.filter fun e => far (paPkg (e.1 * 64)),
    dirCv := s.dirCv.filter fun e => far (paPkg (e.1 * 512)),
    l2 := s.l2.filter fun e => far (paPkg (e.1 / 16 * 64)),
    l2way := s.l2way.filter fun e => far (paPkg (e.1 / 16 * 64)),
    ovr := s.ovr.filter fun t => far (paPkg (t * 512)),
    part := s.part.filter fun e => far (paPkg (e.1 / 16 * 64)),
    l2tlb := s.l2tlb.filter fun e => far (e.1 / 16),
    locks := s.locks.filter fun l => far (paPkg (l.line * 64)),
    pages := s.pages.filter fun p => far (paPkg (p.frame * 1024)),
    owners := s.owners.filter fun o => far (o.cluster / 16),
    poison := s.poison.filter fun l => far (paPkg (l * 64)),
    probeMiss := s.probeMiss.filter fun e => far (paPkg (e / 16 * 64)),
    lostHomes := s.lostHomes.filter fun e => far (e / 16),
    doms := s.doms.filter fun d => d.members.all fun k => far (pkgOf k),
    arb := s.arb.filter fun e => far (e.1 / 512),
    copyLast := s.copyLast.filter fun e => far (e.1 / 512),
    gatherLast := s.gatherLast.filter fun e => far (e.1 / 16),
    launches := s.launches.filter fun l => far l.pkg,
    seq := s.seq.filter fun e => far e.1,
    events := s.events.filter fun e => far e.1,
    occ := s.occ.filter fun e => far (pkgOf e.1),
    parts := s.parts.filter fun e => far (e.1 / 128),
    hwins := s.hwins.filter fun h => far h.pkg,
    rings := s.rings.filter fun e => far (e.1 / 65536),
    evlog := s.evlog.filter fun e => far e.pkg,
    sessions := s.sessions.filter fun e => far (e.1 / 65536),
    hostq := s.hostq.filter fun m => far m.pkg,
    tables := s.tables.filter fun t => far t.pkg,
    links := s.links.filter fun e => far (e.1 / 64 % 256),
    lostPkgs := s.lostPkgs.filter far,
    spares := s.spares.filter fun c => far (c / 16),
    islands := s.islands.filter fun e => far (e.1 / 64) }

/-- A withheld die or DDR-5 channel that DEGRADE does not allow, or a die that is always required (20 R393). -/
def bootStops (degrade : BitVec 4) (failed : BitVec 23) (channels : BitVec 12) : Bool :=
  (channels != 0 && !degrade.getLsbD 1) ||
  (List.range 23).any fun i => failed.getLsbD i &&
    (if i < 4 then !degrade.getLsbD 3 else if i < 12 then !degrade.getLsbD 2 else if i < 20 then !degrade.getLsbD 0 else true)

/-- BRING_UP: the six steps of R392. Dies that fail to authenticate or to train are withheld, and so are sockets without a die (log
entry 34) and channels that fail to train. -/
def execBringUp (pkg : Nat) (imageOk : Bool) (found : Training) (strap : BitVec 8) (s : State) : Out :=
  let b := bootOf s pkg
  let num := strap.toNat
  let out := found.failed ||| found.absent
  let boot : Boot :=
    if imageOk = false then { stage := 2, stopped := true, degrade := b.degrade, strap := num }
    else
      let x : Boot := { withheld := out, absent := found.absent, channels := found.channels, degrade := b.degrade, strap := num }
      if bootStops b.degrade out found.channels then { x with stage := 4, stopped := true } else x
  let s := powerOn s pkg num
  .next { s with boots := fset (fdel s.boots pkg) num boot }

end Sys2Proof.Machine
end

