-- ==== Sys2Proof/Machine/Power.lean ====
section
/-! DEFINITION. Islands, clocks and power (20 R395 to R397). -/
namespace Sys2Proof.Machine

def islandAt (s : State) (pkg i : Nat) : Island := fget {} s.islands (pkg * 64 + i)
def setIsland (s : State) (pkg i : Nat) (x : Island) : State := { s with islands := fset s.islands (pkg * 64 + i) x }

def floorMhz : Nat := 950

/-- Lower an island by 100 MHz, not below the floor. -/
def lowerIsland (pkg : Nat) (s : State) (i : Nat) : State :=
  let x := islandAt s pkg i
  if x.mhz ≤ floorMhz then s
  else
    let f := max floorMhz (x.mhz - 100)
    let b := bootOf s pkg
    setIsland { s with boots := fset s.boots pkg { b with lowered := i :: b.lowered } } pkg i
      { x with mhz := f, floorSince := if f = floorMhz then some s.cycle else x.floorSince }

/-- Raise the island lowered last among those that are not hot. -/
def raiseIsland (s : State) (pkg : Nat) (hot : List Nat) : State :=
  let b := bootOf s pkg
  match b.lowered.find? fun i => !hot.contains i with
  | none => s
  | some i =>
    let x := islandAt s pkg i
    setIsland { s with boots := fset s.boots pkg { b with lowered := b.lowered.erase i } } pkg i
      { x with mhz := min 1900 (if x.mhz = floorMhz then 1000 else x.mhz + 100), floorSince := none, throttled := false }

/-- The compute islands above the floor with the highest measured power (log entry 35). -/
def hottest (s : State) (pkg : Nat) (power : List Nat) : List Nat :=
  let up := (List.range 32).filter fun i => decide (floorMhz < (islandAt s pkg i).mhz)
  let top := up.foldl (fun m i => max m (power.getD i 0)) 0
  up.filter fun i => power.getD i 0 == top

/-- POWER_CHECK: hot islands are lowered whatever the power; below 2,600 W another is raised. -/
def execPowerCheck (pkg watts : Nat) (power temps : List Nat) (s : State) : Out :=
  let hot := (List.range 32).filter fun i => decide (105 ≤ temps.getD i 0)
  let hotter := if 2700 < watts then hottest s pkg power else []
  let s := if watts < 2600 then raiseIsland s pkg hot else s
  .next ((hotter ++ hot.filter fun i => !hotter.contains i).foldl (lowerIsland pkg) s)

/-- The quads of an island. -/
def islandQuads (i : Nat) : List Nat := (List.range 4).map fun j => i * 4 + j

/-- THROTTLE: one event for every tenant with a core in the island. -/
def execThrottle (pkg island : Nat) (s : State) : Out :=
  let x := islandAt s pkg island
  match x.floorSince with
  | none => .next s
  | some t =>
    if 32 ≤ island ∨ x.throttled = true ∨ s.cycle < t + 1000 * Config.cyclesPerUs then .next s
    else
      let us := BitVec.ofNat 64 ((s.cycle - t) / Config.cyclesPerUs)
      let mine := s.parts.filter fun e => e.1 / 128 == pkg && (islandQuads island).any fun q => e.2.quads.getLsbD q
      let once := (mine.map fun e => e.2.tenant).eraseDups.filterMap fun t => mine.find? fun e => e.2.tenant == t
      let s := setIsland s pkg island { x with throttled := true }
      .next (once.foldl (fun s e => postPart s pkg (e.1 % 128) e.2 11 island us 0) s)

/-- THERMAL_SHUTDOWN: every partition is reset and the package stops. -/
def execThermalShutdown (pkg temp : Nat) (s : State) : Out :=
  if temp < 115 then .next s
  else
    let mine := s.parts.filter fun e => e.1 / 128 == pkg
    let s := mine.foldl (fun s e => resetPart s pkg (e.1 % 128) e.2) s
    .next { s with boots := fset s.boots pkg { bootOf s pkg with stopped := true } }

/-- A core without a live context, a queued command or engine work. -/
def coreIdle (c : Core) : Bool :=
  !anyLive c && c.vq.isEmpty && c.mq.isEmpty && c.cq.isEmpty && (ownGathers c).isEmpty && c.pubs.isEmpty && c.ctxops.isEmpty

/-- The cores of a compute island. -/
def islandCores (pkg i : Nat) : List Nat := (List.range 128).map fun j => pkg * 4096 + i * 128 + j

/-- The gather engine and the barrier unit of a cluster, which lie in the island of its octets 0 to 15 (20 R395), have no work. -/
def unitsIdle (s : State) (pkg cl : Nat) : Bool :=
  let mine := fun (k : Nat) => clusterOf k == pkg * 16 + cl
  (s.cores.all fun e => !mine e.1 || e.2.gq.isEmpty) &&
    s.msgs.all fun m => match m.kind with
      | .arrive _ _ _ _ _ => !mine m.core
      | .completion _ _ k _ _ => !mine k
      | .entry _ _ dst _ => !mine dst
      | _ => true

/-- Nothing in the island works: its cores, and those units of its cluster that lie in it (20 R397). -/
def islandIdle (s : State) (pkg i : Nat) : Bool :=
  ((islandCores pkg i).all fun k => coreIdle (getCore s k)) && (i % 2 == 1 || unitsIdle s pkg (i / 2))

/-- The home slices of a package that answer. -/
def homesUp (s : State) (pkg : Nat) : List Nat := (List.range 16).filter fun h => !s.lostHomes.contains (pkg * 16 + h)

/-- The next home acknowledges the notice, and marks the island's agents as sleeping (17 R332). -/
def gateAck (pkg island : Nat) (s : State) : Out :=
  let x := islandAt s pkg island
  match (homesUp s pkg).find? fun h => !x.acked.contains h with
  | some h => if x.notice then .next (setIsland s pkg island { x with acked := x.acked ++ [h] }) else .next s
  | none => .next s

/-- POWER_GATE: the power manager gives notice of an idle island to every home, and gates it once every home has acknowledged
(17 R332, 20 R397). -/
def execPowerGate (pkg island : Nat) (s : State) : Out :=
  let x := islandAt s pkg island
  if 32 ≤ island ∨ x.gated = true then .next s
  else if islandIdle s pkg island = false then .next (setIsland s pkg island { x with notice := false, acked := [] })
  else if x.notice = false then .next (setIsland s pkg island { x with notice := true, acked := [] })
  else if (homesUp s pkg).all x.acked.contains then .next (setIsland s pkg island { x with gated := true, notice := false })
  else .next s

/-- The islands' own cycles: one that runs slower than 1,900 MHz falls behind (20 R396). -/
def passLag (s : State) : State :=
  { s with islands := s.islands.map fun e => if e.2.mhz < 1900 then (e.1, { e.2 with lag := e.2.lag + (1900 - e.2.mhz) }) else e }

end Sys2Proof.Machine
end

