-- ==== Sys2Proof/Machine/System.lean ====
section
/-! DEFINITION. Fences of the base, system calls, breakpoints, trap returns, wfi and illegal words (00 R7, R8; 01 R15; 03
R54; 12 R263, R398). -/
namespace Sys2Proof.Machine

/-- FENCE with every field: a full fence at system scope (00 R7) -/
def execFence (_rd _rs1 : BitVec 5) (_imm : BitVec 12) (s : State) : Out :=
  issue { extra := [.fence 2 10] } (fun s => .next (retire s)) s

/-- FENCE.I: the instruction cache empties once every store of the core's contexts is performed (00 R7) -/
def execFenceI (_rd _rs1 : BitVec 5) (_imm : BitVec 12) (s : State) : Out :=
  issue { extra := [.reachQuiet 0] } (fun s => .next (retire (modMyCore s fun c => { c with icache := [] }))) s

/-- A word of an unimplemented feature or an unallocated encoding (00 R8, 03 R51) -/
def execIllegalInstruction (word : BitVec 32) (s : State) : Out := illegal s word

/-- ecall from S mode with a7 = 1: firmware applies the core's policy (12 R263, R398). -/
def passFault (s : State) : State :=
  escalate s s.turn s.cur (bitsOf (readX (regs s) 10) 15 0) (readX (regs s) 11) (readX (regs s) 12)

/-- ecall from S mode with a7 = 2: an INTERRUPT event with a0; a0 := 0 (12 R398). -/
def raiseInterrupt (s : State) : State :=
  retireX (postFor s s.turn s.cur 10 0 0 (readX (regs s) 10) 0) 10 0

/-- The three calls, each once the registers it names are there. -/
def callPass (s : State) : Out :=
  whenMet [.xPresent 10, .xPresent 11, .xPresent 12] (fun s => .next (passFault s)) s
def callRaise (s : State) : Out :=
  whenMet [.xPresent 10, .xSettled 10] (fun s => .next (raiseInterrupt s)) s
def callUnknown (s : State) : Out :=
  whenMet [.xSettled 10] (fun s => .next (retireX s 10 (BitVec.allOnes 64))) s

/-- Firmware serves ecall from S mode by a7 (12 R398). -/
def serveCall (s : State) : Out :=
  if readX (regs s) 17 = 1 then callPass s
  else if readX (regs s) 17 = 2 then callRaise s
  else callUnknown s

/-- ecall of a context in U mode: the parcel's end, BADCTX in a helper, or the runtime (01 R15). -/
def userCall (s : State) : Out :=
  if readX (regs s) 17 = 0 then
    if s.cur ≠ 0 then trap s Cause.badctx 0
    else whenMet [.accessesDone] (fun s => .next (endParcel s s.turn)) s
  else trap s Cause.ecallU 0

/-- Registers that ecall reads in each mode. -/
def callNeeds (s : State) : Needs :=
  match (me s).mode with
  | .u => { xr := [17] }
  | .s => { xr := [17] }
  | .m => {}

/-- ecall -/
def execEcall (s : State) : Out :=
  issue (callNeeds s) (fun s => match (me s).mode with
    | .u => userCall s
    | .s => serveCall s
    | .m => trap s Cause.ecallM 0) s

/-- ecall from S mode with a7 = 1: in any other mode, or with another call, it is that ecall -/
def execEcallPassFault (s : State) : Out :=
  issue (callNeeds s) (fun s => match (me s).mode with
    | .u => userCall s
    | .s => if readX (regs s) 17 = 1 then callPass s else serveCall s
    | .m => trap s Cause.ecallM 0) s

/-- ecall from S mode with a7 = 2: in any other mode, or with another call, it is that ecall -/
def execEcallRaiseInterrupt (s : State) : Out :=
  issue (callNeeds s) (fun s => match (me s).mode with
    | .u => userCall s
    | .s => if readX (regs s) 17 = 2 then callRaise s else serveCall s
    | .m => trap s Cause.ecallM 0) s

/-- ebreak (12 R255) -/
def execEbreak (s : State) : Out := issue {} (fun s => trap s Cause.breakpoint 0) s

/-- sret: S or M mode -/
def execSret (s : State) : Out :=
  if privileged s = false then illegal s (wordOfInstr .sret)
  else issue {} (fun s => .next (returnS s)) s

/-- mret: M mode -/
def execMret (s : State) : Out :=
  if (me s).mode ≠ .m then illegal s (wordOfInstr .mret)
  else issue {} (fun s => .next (returnM s)) s

/-- wfi: in S or M mode the context waits until an interrupt is pending for it (00 R7, 20 R385); it then issues again
and goes on, or the interrupt is taken on the next instruction -/
def execWfi (s : State) : Out :=
  if privileged s = false then illegal s (wordOfInstr .wfi)
  else issue {} (fun s => if interruptPending (myCore s) s.cur then .next (retire s) else .next (await s .wfi)) s

end Sys2Proof.Machine
end

