-- ==== Sys2Proof/Machine/Dispatch.lean ====
section
/-! DEFINITION. One arm per constructor of Instr: a direct call of its meaning. -/
namespace Sys2Proof.Machine

/-- The effect of an instruction or event. -/
def exec (i : Instr) (s : State) : Host.Outcome State Fault Refusal :=
  match i with
  | .lui rd imm => Sys2Proof.Machine.execLui rd imm s
  | .auipc rd imm => Sys2Proof.Machine.execAuipc rd imm s
  | .jal rd off => Sys2Proof.Machine.execJal rd off s
  | .jalr rd rs1 imm => Sys2Proof.Machine.execJalr rd rs1 imm s
  | .beq rs1 rs2 off => Sys2Proof.Machine.execBeq rs1 rs2 off s
  | .bne rs1 rs2 off => Sys2Proof.Machine.execBne rs1 rs2 off s
  | .blt rs1 rs2 off => Sys2Proof.Machine.execBlt rs1 rs2 off s
  | .bge rs1 rs2 off => Sys2Proof.Machine.execBge rs1 rs2 off s
  | .bltu rs1 rs2 off => Sys2Proof.Machine.execBltu rs1 rs2 off s
  | .bgeu rs1 rs2 off => Sys2Proof.Machine.execBgeu rs1 rs2 off s
  | .lb rd rs1 imm => Sys2Proof.Machine.execLb rd rs1 imm s
  | .lh rd rs1 imm => Sys2Proof.Machine.execLh rd rs1 imm s
  | .lw rd rs1 imm => Sys2Proof.Machine.execLw rd rs1 imm s
  | .ld rd rs1 imm => Sys2Proof.Machine.execLd rd rs1 imm s
  | .lbu rd rs1 imm => Sys2Proof.Machine.execLbu rd rs1 imm s
  | .lhu rd rs1 imm => Sys2Proof.Machine.execLhu rd rs1 imm s
  | .lwu rd rs1 imm => Sys2Proof.Machine.execLwu rd rs1 imm s
  | .sb rs2 rs1 imm => Sys2Proof.Machine.execSb rs2 rs1 imm s
  | .sh rs2 rs1 imm => Sys2Proof.Machine.execSh rs2 rs1 imm s
  | .sw rs2 rs1 imm => Sys2Proof.Machine.execSw rs2 rs1 imm s
  | .sd rs2 rs1 imm => Sys2Proof.Machine.execSd rs2 rs1 imm s
  | .addi rd rs1 imm => Sys2Proof.Machine.execAddi rd rs1 imm s
  | .slti rd rs1 imm => Sys2Proof.Machine.execSlti rd rs1 imm s
  | .sltiu rd rs1 imm => Sys2Proof.Machine.execSltiu rd rs1 imm s
  | .xori rd rs1 imm => Sys2Proof.Machine.execXori rd rs1 imm s
  | .ori rd rs1 imm => Sys2Proof.Machine.execOri rd rs1 imm s
  | .andi rd rs1 imm => Sys2Proof.Machine.execAndi rd rs1 imm s
  | .slli rd rs1 sh => Sys2Proof.Machine.execSlli rd rs1 sh s
  | .srli rd rs1 sh => Sys2Proof.Machine.execSrli rd rs1 sh s
  | .srai rd rs1 sh => Sys2Proof.Machine.execSrai rd rs1 sh s
  | .addiw rd rs1 imm => Sys2Proof.Machine.execAddiw rd rs1 imm s
  | .slliw rd rs1 sh => Sys2Proof.Machine.execSlliw rd rs1 sh s
  | .srliw rd rs1 sh => Sys2Proof.Machine.execSrliw rd rs1 sh s
  | .sraiw rd rs1 sh => Sys2Proof.Machine.execSraiw rd rs1 sh s
  | .add rd rs1 rs2 => Sys2Proof.Machine.execAdd rd rs1 rs2 s
  | .sll rd rs1 rs2 => Sys2Proof.Machine.execSll rd rs1 rs2 s
  | .slt rd rs1 rs2 => Sys2Proof.Machine.execSlt rd rs1 rs2 s
  | .sltu rd rs1 rs2 => Sys2Proof.Machine.execSltu rd rs1 rs2 s
  | .xor rd rs1 rs2 => Sys2Proof.Machine.execXor rd rs1 rs2 s
  | .srl rd rs1 rs2 => Sys2Proof.Machine.execSrl rd rs1 rs2 s
  | .or rd rs1 rs2 => Sys2Proof.Machine.execOr rd rs1 rs2 s
  | .and rd rs1 rs2 => Sys2Proof.Machine.execAnd rd rs1 rs2 s
  | .sub rd rs1 rs2 => Sys2Proof.Machine.execSub rd rs1 rs2 s
  | .sra rd rs1 rs2 => Sys2Proof.Machine.execSra rd rs1 rs2 s
  | .mul rd rs1 rs2 => Sys2Proof.Machine.execMul rd rs1 rs2 s
  | .mulh rd rs1 rs2 => Sys2Proof.Machine.execMulh rd rs1 rs2 s
  | .mulhsu rd rs1 rs2 => Sys2Proof.Machine.execMulhsu rd rs1 rs2 s
  | .mulhu rd rs1 rs2 => Sys2Proof.Machine.execMulhu rd rs1 rs2 s
  | .div rd rs1 rs2 => Sys2Proof.Machine.execDiv rd rs1 rs2 s
  | .divu rd rs1 rs2 => Sys2Proof.Machine.execDivu rd rs1 rs2 s
  | .rem rd rs1 rs2 => Sys2Proof.Machine.execRem rd rs1 rs2 s
  | .remu rd rs1 rs2 => Sys2Proof.Machine.execRemu rd rs1 rs2 s
  | .addw rd rs1 rs2 => Sys2Proof.Machine.execAddw rd rs1 rs2 s
  | .sllw rd rs1 rs2 => Sys2Proof.Machine.execSllw rd rs1 rs2 s
  | .srlw rd rs1 rs2 => Sys2Proof.Machine.execSrlw rd rs1 rs2 s
  | .subw rd rs1 rs2 => Sys2Proof.Machine.execSubw rd rs1 rs2 s
  | .sraw rd rs1 rs2 => Sys2Proof.Machine.execSraw rd rs1 rs2 s
  | .mulw rd rs1 rs2 => Sys2Proof.Machine.execMulw rd rs1 rs2 s
  | .divw rd rs1 rs2 => Sys2Proof.Machine.execDivw rd rs1 rs2 s
  | .divuw rd rs1 rs2 => Sys2Proof.Machine.execDivuw rd rs1 rs2 s
  | .remw rd rs1 rs2 => Sys2Proof.Machine.execRemw rd rs1 rs2 s
  | .remuw rd rs1 rs2 => Sys2Proof.Machine.execRemuw rd rs1 rs2 s
  | .fence rd rs1 imm => Sys2Proof.Machine.execFence rd rs1 imm s
  | .fenceI rd rs1 imm => Sys2Proof.Machine.execFenceI rd rs1 imm s
  | .csrrw rd rs1 csr => Sys2Proof.Machine.execCsrrw rd rs1 csr s
  | .csrrs rd rs1 csr => Sys2Proof.Machine.execCsrrs rd rs1 csr s
  | .csrrc rd rs1 csr => Sys2Proof.Machine.execCsrrc rd rs1 csr s
  | .csrrwi rd uimm csr => Sys2Proof.Machine.execCsrrwi rd uimm csr s
  | .csrrsi rd uimm csr => Sys2Proof.Machine.execCsrrsi rd uimm csr s
  | .csrrci rd uimm csr => Sys2Proof.Machine.execCsrrci rd uimm csr s
  | .flw rd rs1 imm => Sys2Proof.Machine.execFlw rd rs1 imm s
  | .fsw rs2 rs1 imm => Sys2Proof.Machine.execFsw rs2 rs1 imm s
  | .fmaddS rd rs1 rs2 rs3 rm => Sys2Proof.Machine.execFmaddS rd rs1 rs2 rs3 rm s
  | .fmsubS rd rs1 rs2 rs3 rm => Sys2Proof.Machine.execFmsubS rd rs1 rs2 rs3 rm s
  | .fnmsubS rd rs1 rs2 rs3 rm => Sys2Proof.Machine.execFnmsubS rd rs1 rs2 rs3 rm s
  | .fnmaddS rd rs1 rs2 rs3 rm => Sys2Proof.Machine.execFnmaddS rd rs1 rs2 rs3 rm s
  | .faddS rd rs1 rs2 rm => Sys2Proof.Machine.execFaddS rd rs1 rs2 rm s
  | .fsubS rd rs1 rs2 rm => Sys2Proof.Machine.execFsubS rd rs1 rs2 rm s
  | .fmulS rd rs1 rs2 rm => Sys2Proof.Machine.execFmulS rd rs1 rs2 rm s
  | .fdivS rd rs1 rs2 rm => Sys2Proof.Machine.execFdivS rd rs1 rs2 rm s
  | .fsqrtS rd rs1 rm => Sys2Proof.Machine.execFsqrtS rd rs1 rm s
  | .fsgnjS rd rs1 rs2 => Sys2Proof.Machine.execFsgnjS rd rs1 rs2 s
  | .fsgnjnS rd rs1 rs2 => Sys2Proof.Machine.execFsgnjnS rd rs1 rs2 s
  | .fsgnjxS rd rs1 rs2 => Sys2Proof.Machine.execFsgnjxS rd rs1 rs2 s
  | .fminS rd rs1 rs2 => Sys2Proof.Machine.execFminS rd rs1 rs2 s
  | .fmaxS rd rs1 rs2 => Sys2Proof.Machine.execFmaxS rd rs1 rs2 s
  | .fleS rd rs1 rs2 => Sys2Proof.Machine.execFleS rd rs1 rs2 s
  | .fltS rd rs1 rs2 => Sys2Proof.Machine.execFltS rd rs1 rs2 s
  | .feqS rd rs1 rs2 => Sys2Proof.Machine.execFeqS rd rs1 rs2 s
  | .fcvtWS rd rs1 rm => Sys2Proof.Machine.execFcvtWS rd rs1 rm s
  | .fcvtWuS rd rs1 rm => Sys2Proof.Machine.execFcvtWuS rd rs1 rm s
  | .fcvtLS rd rs1 rm => Sys2Proof.Machine.execFcvtLS rd rs1 rm s
  | .fcvtLuS rd rs1 rm => Sys2Proof.Machine.execFcvtLuS rd rs1 rm s
  | .fcvtSW rd rs1 rm => Sys2Proof.Machine.execFcvtSW rd rs1 rm s
  | .fcvtSWu rd rs1 rm => Sys2Proof.Machine.execFcvtSWu rd rs1 rm s
  | .fcvtSL rd rs1 rm => Sys2Proof.Machine.execFcvtSL rd rs1 rm s
  | .fcvtSLu rd rs1 rm => Sys2Proof.Machine.execFcvtSLu rd rs1 rm s
  | .fmvXW rd rs1 => Sys2Proof.Machine.execFmvXW rd rs1 s
  | .fclassS rd rs1 => Sys2Proof.Machine.execFclassS rd rs1 s
  | .fmvWX rd rs1 => Sys2Proof.Machine.execFmvWX rd rs1 s
  | .illegalInstruction word => Sys2Proof.Machine.execIllegalInstruction word s
  | .hstart rd rs1 rs2 => Sys2Proof.Machine.execHstart rd rs1 rs2 s
  | .hwait rs1 => Sys2Proof.Machine.execHwait rs1 s
  | .hkill rs1 => Sys2Proof.Machine.execHkill rs1 s
  | .pnext rd => Sys2Proof.Machine.execPnext rd s
  | .pclr kind reg => Sys2Proof.Machine.execPclr kind reg s
  | .ptest rd kind reg => Sys2Proof.Machine.execPtest rd kind reg s
  | .nput rs1 rs2 => Sys2Proof.Machine.execNput rs1 rs2 s
  | .ctxSave rd rs1 rs2 => Sys2Proof.Machine.execCtxSave rd rs1 rs2 s
  | .ctxLoad rd rs1 rs2 => Sys2Proof.Machine.execCtxLoad rd rs1 rs2 s
  | .barInit rs1 => Sys2Proof.Machine.execBarInit rs1 s
  | .barArr rd => Sys2Proof.Machine.execBarArr rd s
  | .barWait rs1 => Sys2Proof.Machine.execBarWait rs1 s
  | .barAwt rd => Sys2Proof.Machine.execBarAwt rd s
  | .barDrop rd => Sys2Proof.Machine.execBarDrop rd s
  | .domSet rd rs1 rs2 => Sys2Proof.Machine.execDomSet rd rs1 rs2 s
  | .domGet rd rs1 => Sys2Proof.Machine.execDomGet rd rs1 s
  | .xchBeg rs1 => Sys2Proof.Machine.execXchBeg rs1 s
  | .xsend rs1 vs => Sys2Proof.Machine.execXsend rs1 vs s
  | .xrecv rd rs1 => Sys2Proof.Machine.execXrecv rd rs1 s
  | .qtrap rs1 code => Sys2Proof.Machine.execQtrap rs1 code s
  | .amAdd rd rs1 rs2 ord w sc => Sys2Proof.Machine.execAmAdd rd rs1 rs2 ord w sc s
  | .amAnd rd rs1 rs2 ord w sc => Sys2Proof.Machine.execAmAnd rd rs1 rs2 ord w sc s
  | .amOr rd rs1 rs2 ord w sc => Sys2Proof.Machine.execAmOr rd rs1 rs2 ord w sc s
  | .amXor rd rs1 rs2 ord w sc => Sys2Proof.Machine.execAmXor rd rs1 rs2 ord w sc s
  | .amMin rd rs1 rs2 ord w sc => Sys2Proof.Machine.execAmMin rd rs1 rs2 ord w sc s
  | .amMax rd rs1 rs2 ord w sc => Sys2Proof.Machine.execAmMax rd rs1 rs2 ord w sc s
  | .amMinn rd rs1 rs2 ord w sc => Sys2Proof.Machine.execAmMinn rd rs1 rs2 ord w sc s
  | .amMaxn rd rs1 rs2 ord w sc => Sys2Proof.Machine.execAmMaxn rd rs1 rs2 ord w sc s
  | .amSwp rd rs1 rs2 ord w sc => Sys2Proof.Machine.execAmSwp rd rs1 rs2 ord w sc s
  | .amCas rd rs1 rs2 ord w sc => Sys2Proof.Machine.execAmCas rd rs1 rs2 ord w sc s
  | .amFadd rd rs1 rs2 ord w sc => Sys2Proof.Machine.execAmFadd rd rs1 rs2 ord w sc s
  | .amCasQ rd rs1 rs2 ord sc => Sys2Proof.Machine.execAmCasQ rd rs1 rs2 ord sc s
  | .vld v rs1 et km h => Sys2Proof.Machine.execVld v rs1 et km h s
  | .vlds v rs1 rs2 et km h => Sys2Proof.Machine.execVlds v rs1 rs2 et km h s
  | .vldx v rs1 vs et km h => Sys2Proof.Machine.execVldx v rs1 vs et km h s
  | .vbc v rs1 et km h => Sys2Proof.Machine.execVbc v rs1 et km h s
  | .vst v rs1 et km h => Sys2Proof.Machine.execVst v rs1 et km h s
  | .vsts v rs1 rs2 et km h => Sys2Proof.Machine.execVsts v rs1 rs2 et km h s
  | .vstx v rs1 vs et km h => Sys2Proof.Machine.execVstx v rs1 vs et km h s
  | .gwait rd rs1 rs2 rs3 => Sys2Proof.Machine.execGwait rd rs1 rs2 rs3 s
  | .cpG2g rd rs1 rs2 rs3 => Sys2Proof.Machine.execCpG2g rd rs1 rs2 rs3 s
  | .cp2d rd rs1 rs2 rs3 => Sys2Proof.Machine.execCp2d rd rs1 rs2 rs3 s
  | .cpG2s rd rs1 rs2 rs3 => Sys2Proof.Machine.execCpG2s rd rs1 rs2 rs3 s
  | .cpS2g rd rs1 rs2 rs3 => Sys2Proof.Machine.execCpS2g rd rs1 rs2 rs3 s
  | .cpS2s rd rs1 rs2 rs3 => Sys2Proof.Machine.execCpS2s rd rs1 rs2 rs3 s
  | .redAdd rs1 rs2 w => Sys2Proof.Machine.execRedAdd rs1 rs2 w s
  | .redMin rs1 rs2 w => Sys2Proof.Machine.execRedMin rs1 rs2 w s
  | .redMax rs1 rs2 w => Sys2Proof.Machine.execRedMax rs1 rs2 w s
  | .redFadd rs1 rs2 w => Sys2Proof.Machine.execRedFadd rs1 rs2 w s
  | .fncAcq scope => Sys2Proof.Machine.execFncAcq scope s
  | .fncRel scope => Sys2Proof.Machine.execFncRel scope s
  | .fncFull scope => Sys2Proof.Machine.execFncFull scope s
  | .gsig rs1 rs2 => Sys2Proof.Machine.execGsig rs1 rs2 s
  | .tkGet rd rs1 => Sys2Proof.Machine.execTkGet rd rs1 s
  | .tkWait rs1 rs2 => Sys2Proof.Machine.execTkWait rs1 rs2 s
  | .tkAdv rs1 => Sys2Proof.Machine.execTkAdv rs1 s
  | .lkAcq rd rs1 rs2 => Sys2Proof.Machine.execLkAcq rd rs1 rs2 s
  | .lkTry rd rs1 => Sys2Proof.Machine.execLkTry rd rs1 s
  | .lkRel rs1 => Sys2Proof.Machine.execLkRel rs1 s
  | .lkStat rd rs1 => Sys2Proof.Machine.execLkStat rd rs1 s
  | .txBeg rd => Sys2Proof.Machine.execTxBeg rd s
  | .txAbt rs1 => Sys2Proof.Machine.execTxAbt rs1 s
  | .txStat rd => Sys2Proof.Machine.execTxStat rd s
  | .cpPub rd rs1 => Sys2Proof.Machine.execCpPub rd rs1 s
  | .cpCancel rd => Sys2Proof.Machine.execCpCancel rd s
  | .gth rd rs1 rs2 => Sys2Proof.Machine.execGth rd rs1 rs2 s
  | .sct rd rs1 rs2 => Sys2Proof.Machine.execSct rd rs1 rs2 s
  | .clWb rs1 => Sys2Proof.Machine.execClWb rs1 s
  | .clInv rs1 => Sys2Proof.Machine.execClInv rs1 s
  | .clFlush rs1 => Sys2Proof.Machine.execClFlush rs1 s
  | .tlbInv rs1 rs2 => Sys2Proof.Machine.execTlbInv rs1 rs2 s
  | .pgMig rd rs1 rs2 => Sys2Proof.Machine.execPgMig rd rs1 rs2 s
  | .pgStat rd rs1 => Sys2Proof.Machine.execPgStat rd rs1 s
  | .vadd vd vs1 vs2 ft rm km h => Sys2Proof.Machine.execVadd vd vs1 vs2 ft rm km h s
  | .vsub vd vs1 vs2 ft rm km h => Sys2Proof.Machine.execVsub vd vs1 vs2 ft rm km h s
  | .vmul vd vs1 vs2 ft rm km h => Sys2Proof.Machine.execVmul vd vs1 vs2 ft rm km h s
  | .vdiv vd vs1 vs2 ft rm km h => Sys2Proof.Machine.execVdiv vd vs1 vs2 ft rm km h s
  | .vsqrt vd vs1 ft rm km h => Sys2Proof.Machine.execVsqrt vd vs1 ft rm km h s
  | .vfma vd vs1 vs2 ft rm km h => Sys2Proof.Machine.execVfma vd vs1 vs2 ft rm km h s
  | .vfms vd vs1 vs2 ft rm km h => Sys2Proof.Machine.execVfms vd vs1 vs2 ft rm km h s
  | .vfnma vd vs1 vs2 ft rm km h => Sys2Proof.Machine.execVfnma vd vs1 vs2 ft rm km h s
  | .vmin vd vs1 vs2 ft km h => Sys2Proof.Machine.execVmin vd vs1 vs2 ft km h s
  | .vmax vd vs1 vs2 ft km h => Sys2Proof.Machine.execVmax vd vs1 vs2 ft km h s
  | .vabs vd vs1 ft km h => Sys2Proof.Machine.execVabs vd vs1 ft km h s
  | .vneg vd vs1 ft km h => Sys2Proof.Machine.execVneg vd vs1 ft km h s
  | .vcvt vd vs1 sf ft rm km h => Sys2Proof.Machine.execVcvt vd vs1 sf ft rm km h s
  | .vredsum vd vs1 ft rm km h => Sys2Proof.Machine.execVredsum vd vs1 ft rm km h s
  | .vredmin vd vs1 ft km h => Sys2Proof.Machine.execVredmin vd vs1 ft km h s
  | .vredmax vd vs1 ft km h => Sys2Proof.Machine.execVredmax vd vs1 ft km h s
  | .viadd vd vs1 vs2 et km h => Sys2Proof.Machine.execViadd vd vs1 vs2 et km h s
  | .visub vd vs1 vs2 et km h => Sys2Proof.Machine.execVisub vd vs1 vs2 et km h s
  | .vimul vd vs1 vs2 et km h => Sys2Proof.Machine.execVimul vd vs1 vs2 et km h s
  | .vand vd vs1 vs2 et km h => Sys2Proof.Machine.execVand vd vs1 vs2 et km h s
  | .vor vd vs1 vs2 et km h => Sys2Proof.Machine.execVor vd vs1 vs2 et km h s
  | .vxor vd vs1 vs2 et km h => Sys2Proof.Machine.execVxor vd vs1 vs2 et km h s
  | .vsll vd vs1 vs2 et km h => Sys2Proof.Machine.execVsll vd vs1 vs2 et km h s
  | .vsrl vd vs1 vs2 et km h => Sys2Proof.Machine.execVsrl vd vs1 vs2 et km h s
  | .vsra vd vs1 vs2 et km h => Sys2Proof.Machine.execVsra vd vs1 vs2 et km h s
  | .vcmpeq kd vs1 vs2 et km h => Sys2Proof.Machine.execVcmpeq kd vs1 vs2 et km h s
  | .vcmpne kd vs1 vs2 et km h => Sys2Proof.Machine.execVcmpne kd vs1 vs2 et km h s
  | .vcmplt kd vs1 vs2 et km h => Sys2Proof.Machine.execVcmplt kd vs1 vs2 et km h s
  | .vcmple kd vs1 vs2 et km h => Sys2Proof.Machine.execVcmple kd vs1 vs2 et km h s
  | .vcmpltn kd vs1 vs2 et km h => Sys2Proof.Machine.execVcmpltn kd vs1 vs2 et km h s
  | .vperm vd vs1 vs2 et km h => Sys2Proof.Machine.execVperm vd vs1 vs2 et km h s
  | .vslide vd vs1 xs et km h => Sys2Proof.Machine.execVslide vd vs1 xs et km h s
  | .vzip vd vs1 vs2 et km h => Sys2Proof.Machine.execVzip vd vs1 vs2 et km h s
  | .vunzip vd vs1 vs2 et km h => Sys2Proof.Machine.execVunzip vd vs1 vs2 et km h s
  | .vmerge vd vs1 vs2 et km h => Sys2Proof.Machine.execVmerge vd vs1 vs2 et km h s
  | .vmv vd vs1 km h => Sys2Proof.Machine.execVmv vd vs1 km h s
  | .vins vd xs xi et h => Sys2Proof.Machine.execVins vd xs xi et h s
  | .vext rd vs xi et => Sys2Proof.Machine.execVext rd vs xi et s
  | .kand kd ks1 ks2 => Sys2Proof.Machine.execKand kd ks1 ks2 s
  | .kor kd ks1 ks2 => Sys2Proof.Machine.execKor kd ks1 ks2 s
  | .kxor kd ks1 ks2 => Sys2Proof.Machine.execKxor kd ks1 ks2 s
  | .knot kd ks1 => Sys2Proof.Machine.execKnot kd ks1 s
  | .kpop rd ks1 => Sys2Proof.Machine.execKpop rd ks1 s
  | .kfirst rd ks1 => Sys2Proof.Machine.execKfirst rd ks1 s
  | .mmBf16 rd rs1 rs2 fs => Sys2Proof.Machine.execMmBf16 rd rs1 rs2 fs s
  | .mmFp16 rd rs1 rs2 fs => Sys2Proof.Machine.execMmFp16 rd rs1 rs2 fs s
  | .mmE4e4 rd rs1 rs2 fs => Sys2Proof.Machine.execMmE4e4 rd rs1 rs2 fs s
  | .mmE5e5 rd rs1 rs2 fs => Sys2Proof.Machine.execMmE5e5 rd rs1 rs2 fs s
  | .mmE4e5 rd rs1 rs2 fs => Sys2Proof.Machine.execMmE4e5 rd rs1 rs2 fs s
  | .mmE5e4 rd rs1 rs2 fs => Sys2Proof.Machine.execMmE5e4 rd rs1 rs2 fs s
  | .mmQe4 rd rs1 rs2 fs => Sys2Proof.Machine.execMmQe4 rd rs1 rs2 fs s
  | .mmQbf rd rs1 rs2 fs => Sys2Proof.Machine.execMmQbf rd rs1 rs2 fs s
  | .mmI8 rd rs1 rs2 fs => Sys2Proof.Machine.execMmI8 rd rs1 rs2 fs s
  | .mmFp32 rd rs1 rs2 fs => Sys2Proof.Machine.execMmFp32 rd rs1 rs2 fs s
  | .maZero rd acc => Sys2Proof.Machine.execMaZero rd acc s
  | .maLd rd acc rs1 => Sys2Proof.Machine.execMaLd rd acc rs1 s
  | .maSt rd acc rs1 rm => Sys2Proof.Machine.execMaSt rd acc rs1 rm s
  | .maMv rd accD accS => Sys2Proof.Machine.execMaMv rd accD accS s
  | .laClr rd rs1 => Sys2Proof.Machine.execLaClr rd rs1 s
  | .laFma rd rs1 va vb => Sys2Proof.Machine.execLaFma rd rs1 va vb s
  | .laAdd rd rs1 va => Sys2Proof.Machine.execLaAdd rd rs1 va s
  | .laRnd rd rs1 fmt rm => Sys2Proof.Machine.execLaRnd rd rs1 fmt rm s
  | .laMrg rd rs1 rs2 => Sys2Proof.Machine.execLaMrg rd rs1 rs2 s
  | .hxBin rd rs1 va ft => Sys2Proof.Machine.execHxBin rd rs1 va ft s
  | .hxClr rd rs1 => Sys2Proof.Machine.execHxClr rd rs1 s
  | .hxMrg rd rs1 rs2 => Sys2Proof.Machine.execHxMrg rd rs1 rs2 s
  | .ecall => Sys2Proof.Machine.execEcall s
  | .ecallPassFault => Sys2Proof.Machine.execEcallPassFault s
  | .ecallRaiseInterrupt => Sys2Proof.Machine.execEcallRaiseInterrupt s
  | .ebreak => Sys2Proof.Machine.execEbreak s
  | .sret => Sys2Proof.Machine.execSret s
  | .mret => Sys2Proof.Machine.execMret s
  | .wfi => Sys2Proof.Machine.execWfi s
  | .hend => Sys2Proof.Machine.execHend s
  | .yield => Sys2Proof.Machine.execYield s
  | .upret => Sys2Proof.Machine.execUpret s
  | .qhalt => Sys2Proof.Machine.execQhalt s
  | .xchEnd => Sys2Proof.Machine.execXchEnd s
  | .txEnd => Sys2Proof.Machine.execTxEnd s
  | .csrWrite csr v => Sys2Proof.Machine.execCsrWrite csr v s
  | .qrgnWrite word v => Sys2Proof.Machine.execQrgnWrite word v s
  | .qrxcntWrite v => Sys2Proof.Machine.execQrxcntWrite v s
  | .qcontWrite v => Sys2Proof.Machine.execQcontWrite v s
  | .qsaveWrite v => Sys2Proof.Machine.execQsaveWrite v s
  | .reply id => Sys2Proof.Machine.execReply id s
  | .vectorQueueExecute core => Sys2Proof.Machine.execVectorQueueExecute core s
  | .nputFill id => Sys2Proof.Machine.execNputFill id s
  | .parcelEnd core => Sys2Proof.Machine.execParcelEnd core s
  | .matrixGrant octet => Sys2Proof.Machine.execMatrixGrant octet s
  | .mtxCompletion core => Sys2Proof.Machine.execMtxCompletion core s
  | .operandsConsumed core => Sys2Proof.Machine.execOperandsConsumed core s
  | .pairing core => Sys2Proof.Machine.execPairing core s
  | .pairtimeout core => Sys2Proof.Machine.execPairtimeout core s
  | .copyEngineTurn octet => Sys2Proof.Machine.execCopyEngineTurn octet s
  | .copyCompletion core => Sys2Proof.Machine.execCopyCompletion core s
  | .publishFlip core => Sys2Proof.Machine.execPublishFlip core s
  | .gatherEngineTurn cluster => Sys2Proof.Machine.execGatherEngineTurn cluster s
  | .barrierArrival id => Sys2Proof.Machine.execBarrierArrival id s
  | .barrierCompletion id => Sys2Proof.Machine.execBarrierCompletion id s
  | .domSetCompletion dom => Sys2Proof.Machine.execDomSetCompletion dom s
  | .exchangeSlot dom => Sys2Proof.Machine.execExchangeSlot dom s
  | .entryLanding id => Sys2Proof.Machine.execEntryLanding id s
  | .ctxSaveCompletion core ctx => Sys2Proof.Machine.execCtxSaveCompletion core ctx s
  | .ctxLoadCompletion core ctx => Sys2Proof.Machine.execCtxLoadCompletion core ctx s
  | .gsigPerform id => Sys2Proof.Machine.execGsigPerform id s
  | .gwaitTimeout core ctx => Sys2Proof.Machine.execGwaitTimeout core ctx s
  | .watchValue pkg word => Sys2Proof.Machine.execWatchValue pkg word s
  | .homeRead id part => Sys2Proof.Machine.execHomeRead id part s
  | .homeWrite id part => Sys2Proof.Machine.execHomeWrite id part s
  | .homeReduce id part => Sys2Proof.Machine.execHomeReduce id part s
  | .homeEviction cluster line => Sys2Proof.Machine.execHomeEviction cluster line s
  | .reductionAtL2 id part => Sys2Proof.Machine.execReductionAtL2 id part s
  | .probe cluster line => Sys2Proof.Machine.execProbe cluster line s
  | .probeTimeout cluster line => Sys2Proof.Machine.execProbeTimeout cluster line s
  | .lockRequest id => Sys2Proof.Machine.execLockRequest id s
  | .successorLink id => Sys2Proof.Machine.execSuccessorLink id s
  | .lockReleaseHome id => Sys2Proof.Machine.execLockReleaseHome id s
  | .lockHandoff id => Sys2Proof.Machine.execLockHandoff id s
  | .lockTimeout core ctx => Sys2Proof.Machine.execLockTimeout core ctx s
  | .deadlockSearch core ctx => Sys2Proof.Machine.execDeadlockSearch core ctx s
  | .grantParkExpiry core ctx => Sys2Proof.Machine.execGrantParkExpiry core ctx s
  | .txAbortMessage core ctx => Sys2Proof.Machine.execTxAbortMessage core ctx s
  | .txPrepare core ctx home => Sys2Proof.Machine.execTxPrepare core ctx home s
  | .txPrepareAck core ctx => Sys2Proof.Machine.execTxPrepareAck core ctx s
  | .txRelease core ctx home => Sys2Proof.Machine.execTxRelease core ctx home s
  | .upcallDelivery core => Sys2Proof.Machine.execUpcallDelivery core s
  | .deferredTrap core ctx => Sys2Proof.Machine.execDeferredTrap core ctx s
  | .interruptTake core => Sys2Proof.Machine.execInterruptTake core s
  | .watchdog core => Sys2Proof.Machine.execWatchdog core s
  | .yieldWindowEnd core ctx => Sys2Proof.Machine.execYieldWindowEnd core ctx s
  | .quarantine core => Sys2Proof.Machine.execQuarantine core s
  | .launch pkg tenant queue msg => Sys2Proof.Machine.execLaunch pkg tenant queue msg s
  | .submit pkg => Sys2Proof.Machine.execSubmit pkg s
  | .retire pkg => Sys2Proof.Machine.execRetire pkg s
  | .saved pkg => Sys2Proof.Machine.execSaved pkg s
  | .ctl pkg => Sys2Proof.Machine.execCtl pkg s
  | .part pkg num tenant quads windows l2mask llcWays bwHbm bwDdr => Sys2Proof.Machine.execPart pkg num tenant quads windows l2mask llcWays bwHbm bwDdr s
  | .rankStart core => Sys2Proof.Machine.execRankStart core s
  | .preempt core => Sys2Proof.Machine.execPreempt core s
  | .restore core => Sys2Proof.Machine.execRestore core s
  | .coreReset core => Sys2Proof.Machine.execCoreReset core s
  | .partitionReset pkg num => Sys2Proof.Machine.execPartitionReset pkg num s
  | .bringUp pkg imageOk found strap => Sys2Proof.Machine.execBringUp pkg imageOk found strap s
  | .homeLost pkg slice => Sys2Proof.Machine.execHomeLost pkg slice s
  | .moduleDown pkg socket => Sys2Proof.Machine.execModuleDown pkg socket s
  | .memrd pkg tenant msgId pa len => Sys2Proof.Machine.execMemrd pkg tenant msgId pa len s
  | .memwr pkg tenant msgId pa data => Sys2Proof.Machine.execMemwr pkg tenant msgId pa data s
  | .doorbell pkg tenant msgId core => Sys2Proof.Machine.execDoorbell pkg tenant msgId core s
  | .evread pkg tenant msgSeq index => Sys2Proof.Machine.execEvread pkg tenant msgSeq index s
  | .keyagree pkg msgId pub sig => Sys2Proof.Machine.execKeyagree pkg msgId pub sig s
  | .keyset pkg msgId tenant h2d d2h => Sys2Proof.Machine.execKeyset pkg msgId tenant h2d d2h s
  | .evring pkg msgId tenant log2n window offset => Sys2Proof.Machine.execEvring pkg msgId tenant log2n window offset s
  | .hwin pkg msgId tenant window wr base size => Sys2Proof.Machine.execHwin pkg msgId tenant window wr base size s
  | .attest pkg msgId nonce => Sys2Proof.Machine.execAttest pkg msgId nonce s
  | .hostReply id answer => Sys2Proof.Machine.execHostReply id answer s
  | .proxyAtomic id => Sys2Proof.Machine.execProxyAtomic id s
  | .retransmit pkg tenant msgSeq => Sys2Proof.Machine.execRetransmit pkg tenant msgSeq s
  | .linkCodeword pkg link good cells credits nak ackSeq => Sys2Proof.Machine.execLinkCodeword pkg link good cells credits nak ackSeq s
  | .linkDown pkg link => Sys2Proof.Machine.execLinkDown pkg link s
  | .peerLostTimeout pkg peer => Sys2Proof.Machine.execPeerLostTimeout pkg peer s
  | .remoteRequest id part => Sys2Proof.Machine.execRemoteRequest id part s
  | .migrationPassEnd frame => Sys2Proof.Machine.execMigrationPassEnd frame s
  | .install frame => Sys2Proof.Machine.execInstall frame s
  | .installAck frame => Sys2Proof.Machine.execInstallAck frame s
  | .fwd id part => Sys2Proof.Machine.execFwd id part s
  | .redirect id => Sys2Proof.Machine.execRedirect id s
  | .purge id => Sys2Proof.Machine.execPurge id s
  | .purgeAck id => Sys2Proof.Machine.execPurgeAck id s
  | .migchain id part => Sys2Proof.Machine.execMigchain id part s
  | .migstale id part => Sys2Proof.Machine.execMigstale id part s
  | .tailIdleTimeout frame => Sys2Proof.Machine.execTailIdleTimeout frame s
  | .tailLifetimeExpiry frame => Sys2Proof.Machine.execTailLifetimeExpiry frame s
  | .staleMarkExpiry frame => Sys2Proof.Machine.execStaleMarkExpiry frame s
  | .powerCheck pkg watts power temps => Sys2Proof.Machine.execPowerCheck pkg watts power temps s
  | .throttle pkg island => Sys2Proof.Machine.execThrottle pkg island s
  | .thermalShutdown pkg temp => Sys2Proof.Machine.execThermalShutdown pkg temp s
  | .powerGate pkg island => Sys2Proof.Machine.execPowerGate pkg island s
  | .fResultWritten core ctx reg => Sys2Proof.Machine.execFResultWritten core ctx reg s
  | .scratchpadWindowRequest id part => Sys2Proof.Machine.execScratchpadWindowRequest id part s

end Sys2Proof.Machine
end

