-- ==== Sys2Proof/Machine/Step.lean ====
section
/-! DEFINITION. One step: an event that the environment has placed, or, of the core whose turn it is, an instruction of
the context that round robin selects, or an event of the machine that is due (02 R20; log entries 1 and 5). -/
namespace Sys2Proof.Machine

/-! ### the passing of a cycle -/

/-- The listed core after the core of the turn, wrapping (log entry 1). -/
def nextTurn (s : State) : Nat :=
  match s.cores.find? fun e => decide (s.turn < e.1) with
  | some e => e.1
  | none => match s.cores with
    | e :: _ => e.1
    | [] => s.turn

/-- A cycle has passed: waits on words see what was written (05 R128), requests that may leave for other packages are sent
(19 R365), islands count their own cycles (20 R396) and the turn moves on. -/
def tick (s : State) : State :=
  let s := passLag (stampSent (notifyWaiters s))
  { s with cycle := s.cycle + 1, turn := nextTurn s }

/-- An outcome once its cycle has passed. -/
def ticked : Out → Out
  | .next s => .next (tick s)
  | o => o

/-! ### issue -/

/-- The state in which context n of the core of the turn issues: an issue ends a halt, whose time does not count for the watchdog
(04 R113). -/
def toIssue (s : State) (n : Nat) : State :=
  modMyCore { s with cur := n } fun c =>
    { c with halted := false, lastIssue := if c.halted then ownCycle s s.turn else c.lastIssue }

/-- Another context of the core has issued: a yield waits for one context less (04 R86). -/
def yieldSees (n : Nat) (c : Context) : Context :=
  match c.st with
  | .waiting (.yield d others) => { c with st := .waiting (.yield d (others.filter (· != n))) }
  | _ => c

def isParked (c : Context) : Bool :=
  match c.st with
  | .parked _ => true
  | _ => false

/-- After an issue of context n of core k: round robin goes on from n (02 R20) and the watchdog starts again (02 R42).
An instruction that waits for its conditions has not issued. -/
def issued (k n cycle : Nat) (s : State) : State :=
  if isParked (getCtx s k n) then s
  else modCore s k fun c =>
    let xs : FMap Context := c.ctxs.map fun e => if e.1 = n then e else (e.1, yieldSees n e.2)
    { c with last := n, lastIssue := cycle, wdogs := 0, ctxs := xs }

/-- What follows the instruction of an issue. -/
def afterIssue (k n : Nat) (old : State) : Out → Out
  | .next s => .next (serveFirmware k n old (issued k n (ownCycle old k) s))
  | o => o

/-- Issue of context n of the core of the turn: fetch and run one instruction; a fetch that waits is made again. -/
def issueCtx (s : State) (n : Nat) : Out :=
  match fetch (toIssue s n) with
  | (.wait, u) => .next u
  | (.fault code, u) => afterIssue s.turn n s (.next (takeFault u code (regs u).pc))
  | (.word w, u) => afterIssue s.turn n s (exec (decodeOrIllegal w) u)

/-! ### what a core takes before its next instruction -/

/-- An event of the core at an instruction boundary: an abort raised by a home (17 R337), a deferred trap (12 R257), an
upcall (12 R258), the doorbell interrupt (20 R385). -/
def boundaryEvent (s : State) (k : Nat) : Option (State → Out) :=
  match (List.range 11).find? fun n => (getCtx s k n).abortMsg.isSome with
  | some n => some (execTxAbortMessage k n)
  | none => match (List.range 11).find? fun n => (dueTrap s k n).isSome with
    | some n => some (execDeferredTrap k n)
    | none =>
      if (dueUpcall s k).isSome then some (execUpcallDelivery k)
      else if interruptDue s k then some (execInterruptTake k)
      else none

/-! ### events of the machine (log entry 1) -/

/-- Events of one part of a request. -/
def partEvents (id i : Nat) : List (State → Out) :=
  [execHomeRead id i, execHomeWrite id i, execHomeReduce id i, execReductionAtL2 id i, execScratchpadWindowRequest id i,
   execRemoteRequest id i, execFwd id i, execMigchain id i, execMigstale id i]

/-- Events of a request. -/
def reqEvents (r : Req) : List (State → Out) :=
  (List.range r.parts.length).flatMap (partEvents r.id) ++
  [execGsigPerform r.id, execProxyAtomic r.id, execReply r.id] ++
  (match r.dst with
    | .f reg => [execFResultWritten r.core r.ctx reg]
    | _ => [])

/-- Events of a message. -/
def msgEvents (m : Msg) : List (State → Out) :=
  match m.kind with
  | .arrive _ _ _ _ _ => [execBarrierArrival m.id]
  | .completion _ _ _ _ _ => [execBarrierCompletion m.id]
  | .nput _ _ => [execNputFill m.id]
  | .entry _ _ _ _ => [execEntryLanding m.id]
  | .lockReq _ _ _ _ => [execLockRequest m.id]
  | .succLink _ _ _ _ _ => [execSuccessorLink m.id]
  | .lockRel _ _ => [execLockReleaseHome m.id]
  | .handoff _ _ _ _ => [execLockHandoff m.id]
  | .redirect _ _ _ _ => [execRedirect m.id]
  | .txRelease home _ => [execTxRelease m.core m.ctx home]
  | .purge _ _ _ => [execPurge m.id]
  | .purgeAck _ _ => [execPurgeAck m.id]

/-- Events of context n of core k. -/
def ctxEvents (k n : Nat) (c : Context) : List (State → Out) :=
  (if n < 16 then [execCtxSaveCompletion k n, execCtxLoadCompletion k n, execTxAbortMessage k n, execTxPrepareAck k n,
    execGwaitTimeout k n, execDeferredTrap k n, execYieldWindowEnd k n] ++ (List.range 16).map (execTxPrepare k n) else []) ++
  [execLockTimeout k n, execDeadlockSearch k n, execGrantParkExpiry k n] ++
  (watchesOf c).map fun w => execWatchValue (pkgOf k) w.loc

/-- Events of a core. -/
def coreEvents (k : Nat) (c : Core) : List (State → Out) :=
  [execVectorQueueExecute k, execMatrixGrant (octetOf k), execMtxCompletion k, execOperandsConsumed k, execPairing k,
   execPairtimeout k, execCopyEngineTurn (octetOf k), execCopyCompletion k, execGatherEngineTurn (clusterOf k),
   execPublishFlip k, execParcelEnd k, execUpcallDelivery k, execInterruptTake k, execWatchdog k, execPreempt k,
   execRestore k, execRankStart k, makeRoom k] ++
  c.ctxs.flatMap fun e => ctxEvents k e.1 e.2

/-- Events of a package. -/
def pkgEvents (s : State) (p : Nat) : List (State → Out) :=
  [execSubmit p, execRetire p, execSaved p, execCtl p] ++ (List.range 32).map (execThrottle p) ++
  s.pkgs.map (execPeerLostTimeout p)

/-- Events of a page that moves. -/
def pageEvents (p : Page) : List (State → Out) :=
  [execMigrationPassEnd p.frame, execInstall p.frame, execInstallAck p.frame, execTailIdleTimeout p.frame,
   execTailLifetimeExpiry p.frame, execStaleMarkExpiry p.frame]

/-- Events of an island whose gating the power manager has given notice of (17 R332). -/
def islandEvents (e : Nat × Island) : List (State → Out) :=
  if e.2.notice then [gateAck (e.1 / 64) (e.1 % 64), execPowerGate (e.1 / 64) (e.1 % 64)] else []

/-- Events of the transport: the memory requests of each tenant in order, launch packets and tables (20 R384, 11 R235). -/
def transportEvents (s : State) : List (State → Out) :=
  (s.sessions.map fun e s => .next (serveHost (e.1 / 65536) (e.1 % 65536) s)) ++
  (s.tables.map fun t s => .next (serveTable t.id s)) ++
  s.hostq.map fun m => execRetransmit m.pkg m.tenant m.seq

/-- The events that the machine itself brings about. -/
def events (s : State) : List (State → Out) :=
  s.reqs.flatMap reqEvents ++ s.msgs.flatMap msgEvents ++ s.cores.flatMap (fun e => coreEvents e.1 e.2) ++
  s.doms.flatMap (fun d => [execDomSetCompletion d.id, execExchangeSlot d.id]) ++ s.pkgs.flatMap (pkgEvents s) ++
  s.pages.flatMap pageEvents ++ s.islands.flatMap islandEvents ++ transportEvents s

/-- The outcome is another state, or a stop. -/
def changes (s : State) : Out → Bool
  | .next t => decide (t ≠ s)
  | _ => true

/-- The first event that does something. -/
def firstEvent (s : State) : List (State → Out) → Option Out
  | [] => none
  | e :: es => if changes s (e s) then some (e s) else firstEvent s es

/-- The event of this cycle: the list rotates, so that each gets its turn. -/
def dueEvent (s : State) : Option Out :=
  let es := events s
  let i := s.cycle / 2 % (es.length + 1)
  firstEvent s (es.drop i ++ es.take i)

/-! ### the step -/

/-- The compute die of a core works (20 R393). -/
def coreWorks (s : State) (k : Nat) : Bool := !(bootOf s (pkgOf k)).withheld.getLsbD (lidOf k / 1024)

/-- An issue of the core of the turn, if a context is ready. -/
def dueIssue (s : State) : Option Out := if coreWorks s s.turn then (nextCtx s s.turn).map (issueCtx s) else none

/-- What happens in a cycle: even cycles try an issue first, odd ones an event. -/
def inCycle (s : State) : Out :=
  match boundaryEvent s s.turn with
  | some e => e s
  | none =>
    let first := if s.cycle % 2 = 0 then dueIssue s else dueEvent s
    match first with
    | some o => o
    | none => ((if s.cycle % 2 = 0 then dueEvent s else dueIssue s).getD (.next s))

/-- Every package of the pod has stopped (20 R392, R393, R397). -/
def allStopped (s : State) : Bool := !s.pkgs.isEmpty && s.pkgs.all fun p => (bootOf s p).stopped

/-- One step of the machine. -/
def step (s : State) : Host.Outcome State Fault Refusal :=
  match s.agenda with
  | i :: rest => ticked (exec i { s with agenda := rest })
  | [] =>
    if allStopped s then .fault .packageStopped
    else if (bootOf s (pkgOf s.turn)).stopped then .next (tick s)
    else ticked (inCycle s)

/-! ### placing an instruction -/

/-- The next step fetches an instruction of an M-mode context of the core of the turn from main memory. -/
def fetchesNext (s : State) : Bool :=
  !(bootOf s (pkgOf s.turn)).stopped && coreWorks s s.turn && (boundaryEvent s s.turn).isNone &&
  match nextCtx s s.turn with
  | some n =>
    let pc := (getCtx s s.turn n).regs.pc.toNat
    (getCtx s s.turn n).mode == .m && pc % 4 == 0 && isMain pc && (accessError s s.turn .m pc 4 false false).isNone &&
      (dirOf s (lineOf pc)).st != .p && (pageAt s pc).isNone && !heldForCommit s (lineOf pc * 64) 64
  | none => false

/-- The core of the turn as a core reset leaves it (02 R28; log entry 2), its package present, running and whole. -/
def restartTurn (s : State) : State :=
  let p := pkgOf s.turn
  let c := Core.reset.setCtx 0 { mode := .m, st := .live, regs := { pc := BitVec.ofNat 64 (p * 2 ^ 48) } }
  let s := { s with
    boots := fset s.boots p {},
    pkgs := if s.pkgs.contains p then s.pkgs else p :: s.pkgs,
    lostHomes := s.lostHomes.filter fun h => h / 16 != p,
    poison := s.poison.filter fun l => l != lineOf (p * 2 ^ 48),
    pages := s.pages.filter fun g => paPkg (g.frame * 1024) != p,
    dir := fdel s.dir (lineOf (p * 2 ^ 48)) }
  setCore s s.turn c

/-- The PC of the context that issues next. -/
def nextPc (s : State) : Nat := (getCtx s s.turn ((nextCtx s s.turn).getD 0)).regs.pc.toNat

/-- s with an instruction of 32 bits stored where the next step fetches: no event is placed, the cycle is one that
tries an issue first, and the instruction cache does not hold the line. Where the next step would not fetch from
main memory in M mode, the core of the turn is reset. -/
def State.withFetchWord (s : State) (nbits w : Nat) : State :=
  let s := { s with agenda := [], cycle := s.cycle + s.cycle % 2 }
  let s := if fetchesNext s then s else restartTurn s
  let pc := nextPc s
  let s := modMyCore s fun c => { c with icache := c.icache.filter fun e => e.1 != lineOf pc }
  { s with mem := putBytes s.mem pc (leBytes 4 (w % 2 ^ nbits)) }

end Sys2Proof.Machine
end

