-- ==== Sys2Proof/Safety.lean ====
section
/-! DEFINITION. What a safe run keeps, and the words in which statements speak of one instruction: which registers are
there, and what a state that follows may differ in. -/
namespace Sys2Proof.Machine

/-- The invariant of every step: main memory is in canonical form. -/
def State.memWf (s : State) : Prop := Memory.wf s.mem = true

/-- The identifiers of the outstanding requests are below the next one, so that a new request has one of its own. -/
abbrev State.idsBelow (s : State) : Prop := ∀ r ∈ s.reqs, r.id < s.nextId

/-- An outcome keeps the invariant: it is a stop, or a state whose main memory is in canonical form. -/
def outMemWf : Out → Prop
  | .next t => t.memWf
  | .fault _ => True
  | .refused _ => True

/-! ### operands of the executing context -/

/-- x[r] is present (02 R24). -/
def Present (s : State) (r : BitVec 5) : Prop := (regs s).xpres.getLsbD r.toNat = true
/-- x[r] has no pending mark (02 R24, R25). -/
def Settled (s : State) (r : BitVec 5) : Prop := (regs s).xpend.getLsbD r.toNat = false
/-- v[r] is present, and has no pending mark. -/
def PresentV (s : State) (r : BitVec 4) : Prop := (regs s).vpres.getLsbD r.toNat = true
def SettledV (s : State) (r : BitVec 4) : Prop := (regs s).vpend.getLsbD r.toNat = false
/-- No result of f[r] is in flight (02 R27). -/
def FreeF (s : State) (r : BitVec 5) : Prop := (regs s).fpend.getLsbD r.toNat = false
/-- The core's vector queue has room (02 R20). -/
def VqRoom (s : State) : Prop := (myCore s).vq.length < Config.vectorQueue
/-- The executing context is outside a transaction. -/
def NoTx (s : State) : Prop := (me s).tx = none
/-- The executing context is in the mode. -/
def InMode (s : State) (m : Mode) : Prop := (me s).mode = m

/-! ### what may differ after an instruction -/

/-- x[rd] := v and the PC advances; the executing context's other registers, and all else of the machine, are as they
were. x0 stays 0. -/
structure WritesX (s t : State) (rd : BitVec 5) (v : Word) : Prop where
  /-- nothing outside the executing context differs: no memory, no other context, no core register -/
  machine : t = setMe s (me t)
  /-- of the context, only its registers -/
  context : me t = { me s with st := .live, regs := regs t }
  /-- of the registers, only x, its presence and the PC -/
  registers : regs t = { regs s with x := (regs t).x, xpres := (regs t).xpres, pc := (regs s).pc + 4 }
  value : xr t rd = if rd = 0 then 0 else v
  others : ∀ r : BitVec 5, r ≠ rd → xr t r = xr s r
  present : rd ≠ 0 → Present t rd
  presence : ∀ r : BitVec 5, r ≠ rd → (regs t).xpres.getLsbD r.toNat = (regs s).xpres.getLsbD r.toNat

/-- As `WritesX`, and the flags accumulate. -/
structure WritesXF (s t : State) (rd : BitVec 5) (v : Word) (flags : Nat) : Prop where
  machine : t = setMe s (me t)
  context : me t = { me s with st := .live, regs := regs t }
  registers : regs t = { regs s with x := (regs t).x, xpres := (regs t).xpres, fflags := (regs t).fflags, pc := (regs s).pc + 4 }
  value : xr t rd = if rd = 0 then 0 else v
  others : ∀ r : BitVec 5, r ≠ rd → xr t r = xr s r
  present : rd ≠ 0 → Present t rd
  presence : ∀ r : BitVec 5, r ≠ rd → (regs t).xpres.getLsbD r.toNat = (regs s).xpres.getLsbD r.toNat
  accrued : (regs t).fflags = (regs s).fflags ||| BitVec.ofNat 5 flags

/-- f[rd] := v, the flags accumulate and the PC advances; nothing else differs. -/
structure WritesF (s t : State) (rd : BitVec 5) (v flags : Nat) : Prop where
  machine : t = setMe s (me t)
  context : me t = { me s with st := .live, regs := regs t }
  registers : regs t = { regs s with f := (regs t).f, fflags := (regs t).fflags, pc := (regs s).pc + 4 }
  value : readF (regs t) rd.toNat = BitVec.ofNat 32 v
  others : ∀ r : BitVec 5, r ≠ rd → readF (regs t) r.toNat = readF (regs s) r.toNat
  accrued : (regs t).fflags = (regs s).fflags ||| BitVec.ofNat 5 flags

/-- Lane i of v[vd] becomes res i for every lane of w bits; the entry that executes later joins the vector queue, the
flags accumulate, qsrctr counts a rounding under SR, the PC advances; the reuse latch keeps the hinted source and loses v[vd]
(06 R178); nothing else differs. -/
structure WritesV (s t : State) (vd : BitVec 4) (w : Nat) (res : Nat → Nat) (flags : BitVec 5) (sr : Bool)
    (hint : Option (BitVec 4)) : Prop where
  machine : t = modMyCore (setMe s (me t)) fun c => { c with vq := c.vq ++ [{ ctx := s.cur, work := .done }] }
  context : me t = { me s with st := .live, regs := regs t }
  registers : regs t = { regs s with
    v := (regs t).v, vpres := (regs t).vpres, latch := (regs t).latch, fflags := (regs t).fflags,
    qsrctr := (regs t).qsrctr, pc := (regs s).pc + 4 }
  value : ∀ i < laneCount w, lane (readV (regs t) vd.toNat) w i = res i % 2 ^ w
  others : ∀ r : BitVec 4, r ≠ vd → readV (regs t) r.toNat = readV (regs s) r.toNat
  present : PresentV t vd
  presence : ∀ r : BitVec 4, r ≠ vd → (regs t).vpres.getLsbD r.toNat = (regs s).vpres.getLsbD r.toNat
  accrued : (regs t).fflags = (regs s).fflags ||| flags
  drawn : (regs t).qsrctr = (regs s).qsrctr + if sr then 1 else 0
  latched : (regs t).latch = match hint with
    | some r => if r = vd then none else some r.toNat
    | none => if (regs s).latch = some vd.toNat then none else (regs s).latch

/-- k[kd] := m through the vector queue; the flags accumulate, and the reuse latch keeps the hinted source. -/
structure WritesK (s t : State) (kd : BitVec 3) (m : Word) (flags : BitVec 5) (hint : Option (BitVec 4)) : Prop where
  machine : t = modMyCore (setMe s (me t)) fun c => { c with vq := c.vq ++ [{ ctx := s.cur, work := .done }] }
  context : me t = { me s with st := .live, regs := regs t }
  registers : regs t = { regs s with
    k := (regs t).k, latch := (regs t).latch, fflags := (regs t).fflags, pc := (regs s).pc + 4 }
  value : readK (regs t) kd.toNat = m
  others : ∀ r : BitVec 3, r ≠ kd → readK (regs t) r.toNat = readK (regs s) r.toNat
  accrued : (regs t).fflags = (regs s).fflags ||| flags
  latched : (regs t).latch = match hint with
    | some r => some r.toNat
    | none => (regs s).latch

/-- x[rd] is empty and pending, and an entry of the vector queue fills it with v (06 R159); nothing else differs. -/
structure FillsLater (s t : State) (rd : BitVec 5) (v : Word) : Prop where
  machine : t = modMyCore (setMe s (me t)) fun c => { c with vq := c.vq ++ [{ ctx := s.cur, work := .fillX rd.toNat v }] }
  context : me t = { me s with st := .live, regs := { emptyX (regs s) rd.toNat with pc := (regs s).pc + 4 } }

/-- A matrix command joins the end of the core's matrix queue (07 R181): its token registers are empty and pending,
qsrctr counts a command of mode SR, and a paired multiply that is then at the head is at the pairing point; nothing else
differs but the PC. -/
structure Queues (s t : State) (x : MtxCmd) (tokens : List Nat) : Prop where
  machine : t = atPoint (modMyCore { setMe s (me t) with nextId := s.nextId + 1 } fun c => { c with mq := c.mq ++ [x] }) s.turn
  context : me t = { me s with st := .live, regs := { tokens.foldl emptyX (regs s) with
    pc := (regs s).pc + 4, qsrctr := (regs s).qsrctr + if x.rm = Rm.sr then 1 else 0 } }
/-- The core's matrix queue and scoreboard take the command (02 R20, R21; 07 R183). -/
def MqRoom (s : State) (x : MtxCmd) : Prop :=
  (myCore s).mq.length < Config.matrixQueue ∧
  rangesInUse (myCore s) + ((mtxReads (myCore s) x).length + (mtxWrites (myCore s) x).length) ≤ Config.scoreboardRanges

/-- Lane i's result where the lane is active, else what it held (06 R157). -/
def onActive (s : State) (vd : BitVec 4) (km w : Nat) (f : Nat → Nat) (i : Nat) : Nat :=
  if active (regs s) km i then f i else lane (readV (regs s) vd.toNat) w i
/-- The OR of the flags of the active lanes (06 R162). -/
def activeFlags (s : State) (km w : Nat) (f : Nat → Nat) : BitVec 5 :=
  BitVec.ofNat 5 (((List.range (laneCount w)).filter (active (regs s) km)).foldr (fun i fl => f i ||| fl) 0)

/-- A node of the reduction tree (06 R168): level j, start lane b; absent without an active lane below it. -/
def treeNode (f : Nat → Nat → Nat → Nat → Nat × Nat) (leaf : Nat → Option Nat) : Nat → Nat → Option Nat
  | 0, b => leaf b
  | j + 1, b => match treeNode f leaf j b, treeNode f leaf j (b + 2 ^ j) with
    | some x, some y => some (f (j + 1) b x y).1
    | some x, none => some x
    | none, y => y
/-- The flags of the combinations in the tree below a node. -/
def treeNodeFlags (f : Nat → Nat → Nat → Nat → Nat × Nat) (leaf : Nat → Option Nat) : Nat → Nat → Nat
  | 0, _ => 0
  | j + 1, b =>
    treeNodeFlags f leaf j b ||| treeNodeFlags f leaf j (b + 2 ^ j) |||
      match treeNode f leaf j b, treeNode f leaf j (b + 2 ^ j) with
      | some x, some y => (f (j + 1) b x y).2
      | _, _ => 0

/-- One element of a multiply (07 R192, R193): groups of G exact products in ascending k, each added to the element and
rounded once; an integer multiply adds modulo 2^32. -/
def multiplied (x : MtxCmd) (old : Nat) (a b : Nat → Nat) : Nat :=
  match mtxFmt x.code, mtxFmtB x.code with
  | some fa, some fb =>
    let g := mtxGroup x.code
    let scale := (mulExact (decodeF fp32 x.sa.toNat) (decodeF fp32 x.sb.toNat)).1
    (List.range (opKlen x.a1 / g)).foldl (fun c i => groupRound c ((List.range g).map fun t =>
      (mulExact (mulExact scale (decodeF fa (a (g * i + t)))).1 (decodeF fb (b (g * i + t)))).1)) old % 2 ^ 32
  | _, _ => (((old : Int) + ((List.range (opKlen x.a1)).map fun t => signedOf 8 (a t) * signedOf 8 (b t)).sum) % 2 ^ 32).toNat
/-- The elements of A that a multiply reads in a state: of the operand's area, or of the row's QE8 stream (09 R224). -/
def ReadsA (v : State) (k : Nat) (x : MtxCmd) (rows : List Nat) (a : Nat → Nat → Nat) : Prop :=
  if mtxIsQe x.code then ∀ i ∈ rows, ∃ es, qeRow v k x i = .ok es ∧ ∀ j, a i j = es.getD j 0
  else ∀ i j, a i j = elemA v k x (mtxElem x.code) i j
/-- A multiply has written the rows that it computes, of its accumulator and no other, and succeeded: b i is the B that
row i meets. -/
structure Multiplies (s t : State) (k : Nat) (x : MtxCmd) (rows : List Nat) (a : Nat → Nat → Nat) (b : Nat → Nat → Nat → Nat) :
    Prop where
  computed : ∀ i ∈ rows, ∀ j < 64,
    accAt (getCore t k) (bitsOf x.a1 49 48) i j % 2 ^ 32 =
      multiplied x (if x.a1.getLsbD 50 then 0 else accAt (getCore s k) (bitsOf x.a1 49 48) i j) (a i) fun r => b i r j
  kept : ∀ n < 4, ∀ i < 64, ∀ j < 64, (n ≠ bitsOf x.a1 49 48 ∨ i ∉ rows) →
    accAt (getCore t k) n i j = accAt (getCore s k) n i j
  status : (headCmd t k).map (·.status) = some (some 0)

/-- x[rd] receives the address of the next word and the PC goes to a target; nothing else differs. -/
structure Links (s t : State) (rd : BitVec 5) (target : Word) : Prop where
  machine : t = setMe s (me t)
  context : me t = { me s with st := .live, regs := regs t }
  registers : regs t = { regs s with x := (regs t).x, xpres := (regs t).xpres, pc := target }
  value : xr t rd = if rd = 0 then 0 else (regs s).pc + 4
  others : ∀ r : BitVec 5, r ≠ rd → xr t r = xr s r
  present : rd ≠ 0 → Present t rd
  presence : ∀ r : BitVec 5, r ≠ rd → (regs t).xpres.getLsbD r.toNat = (regs s).xpres.getLsbD r.toNat

/-- The PC goes to a target; nothing else differs. -/
structure JumpsTo (s t : State) (target : Word) : Prop where
  machine : t = setMe s (me t)
  context : me t = { me s with st := .live, regs := { regs s with pc := target } }

/-- The PC advances and nothing else differs. -/
def Advances (s t : State) : Prop := JumpsTo s t ((regs s).pc + 4)

/-- The request that the executing context makes; a part that names another package is remote from now on (19 R363). -/
def request (s : State) (kind : ReqKind) (dst : Dst) (parts : List Part) (acq rel : Option Nat := none) : Req :=
  { id := s.nextId, core := s.turn, ctx := s.cur, kind := kind, dst := dst, acq := acq, rel := rel,
    parts := parts.map fun p => { p with far := partRemote s s.turn p },
    tx := inTx s, mode := (me s).mode, born := s.cycle, order := s.nextId, after := (me s).after.filter (undone s) }

/-- The instruction leaves a request: it joins the outstanding ones, its destination is empty and pending, and the PC
advances; nothing else differs. -/
structure Leaves (s t : State) (r : Req) : Prop where
  /-- nothing outside the executing context and the requests differs -/
  machine : t = { setMe s (me t) with reqs := s.reqs ++ [r], nextId := s.nextId + 1 }
  /-- of the context, only the destination's presence and the PC -/
  context : me t = { me s with st := .live, regs := { emptyDst (regs s) r.dst with pc := (regs s).pc + 4 } }

/-- The request of a result that is computed at issue and delivered to x[rd] by a later REPLY (02 R24). -/
def computed (s : State) (rd : BitVec 5) (v : Word) : Req :=
  request s .compute (.x rd.toNat 8 false) [{ pa := 0, va := 0, n := 8, done := true, res := v.toNat, own := true }]

/-- What an access finds: the bytes as they stand, for a load under the context's own earlier stores (16 R317). -/
def found (s : State) (r : Req) (p : Part) (bs : List Byte) : Nat :=
  leNat (if r.kind = .load then forwardOwn s r p bs else bs)
/-- Part i of a request has its answer: its value waits for the reply. A request that fills nothing may be gone. -/
def HasAnswer (t : State) (r : Req) (i : Nat) (p : Part) (v : Nat) : Prop :=
  r.dst ≠ .none → ∃ r' ∈ t.reqs, r'.id = r.id ∧ r'.parts[i]? = some { p with done := true, res := v }
/-- Part i of a request is performed on main memory: it has read the value there, a write has left the new one, and no
other byte of memory differs. -/
structure Performed (s t : State) (r : Req) (i : Nat) (p : Part) : Prop where
  answer : HasAnswer t r i p (readValue r.kind (found s r p (getBytes s.mem p.pa p.n)))
  value : isWriteKind r.kind = true →
    readLE t.mem p.pa p.n = newValue r.kind p (readLE s.mem p.pa p.n) % 2 ^ (8 * p.n)
  others : ∀ a, (isWriteKind r.kind = false ∨ a < p.pa ∨ p.pa + p.n ≤ a) → byteAt t.mem a = byteAt s.mem a

/-! ### completion -/

/-- The instruction answers a next state with a property. -/
def Answers (i : Instr) (s : State) (P : State → Prop) : Prop := ∃ t, exec i s = .next t ∧ P t

/-- The instruction writes v to x[rd] and does nothing else. -/
def Gives (i : Instr) (s : State) (rd : BitVec 5) (v : Word) : Prop := Answers i s fun t => WritesX s t rd v
/-- The instruction writes the value and flags of r to f[rd] and does nothing else. -/
def GivesF (i : Instr) (s : State) (rd : BitVec 5) (r : Nat × Nat) : Prop := Answers i s fun t => WritesF s t rd r.1 r.2
/-- The instruction leaves the request r and does nothing else. -/
def Asks (i : Instr) (s : State) (r : Req) : Prop := Answers i s fun t => Leaves s t r
/-- Every remote request of an access may be sent, or it has none (05 R116). -/
def Room (s : State) (ps : List Part) : Prop :=
  remoteCount s ps = 0 ∨ condHolds s s.turn s.cur (.remoteRoom (remoteCount s ps)) = true
/-- The instruction makes an access: where its addresses cannot be reached the outcome is that of the checks
(`Claims.AccessChecks`), else it leaves the request of the parts that they reach (`Claims.IssuedRequests`). -/
def Accesses (i : Instr) (s : State) (acc : Acc) (ws : List Want) (kind : ReqKind) (dst : Dst) (fill : Part → Part := id)
    (acq rel : Option Nat := none) : Prop :=
  (∀ o u, reach s ws acc = (.out o, u) → exec i s = o) ∧
  ∀ ps u, reach s ws acc = (.parts ps, u) → Room u ps →
    exec i s = .next (retire (issueReq u kind dst (ps.map fill) acq rel false))
/-- The instruction takes a precise trap with a cause and a value. -/
def Traps (i : Instr) (s : State) (code : Nat) (value : Word) : Prop := exec i s = .next (takeTrap s code value)
/-- The instruction does not issue: nothing happens but that its context parks on conditions, each of which does not
hold (02 R20, R25). -/
def Parks (i : Instr) (s : State) : Prop :=
  Answers i s fun t => ∃ cs, t = park s cs ∧ cs ≠ [] ∧ ∀ c ∈ cs, condHolds s s.turn s.cur c = false
/-- A conditional branch: to its target when the condition holds, which must then be 4-byte aligned, else on. -/
def Branch (i : Instr) (s : State) (taken : Prop) (target : Word) : Prop :=
  (taken → target.toNat % 4 = 0 → Answers i s fun t => JumpsTo s t target) ∧
  (taken → target.toNat % 4 ≠ 0 → Traps i s Cause.pcMisaligned target) ∧
  (¬ taken → Answers i s fun t => Advances s t)
def GivesXF (i : Instr) (s : State) (rd : BitVec 5) (v : Word) (fl : Nat) : Prop := Answers i s fun t => WritesXF s t rd v fl

end Sys2Proof.Machine
end

