-- ==== Sys2Proof/Certificates/Slice0/Obligations.lean ====
section
/-! DEFINITION. The statements for the provers: what an instruction or the machine does, rule by rule of spec/. -/
open Sys2Proof Sys2Proof.Machine Host

/-! ### the integer base -/

/-- 03 R54, 00 R6: the register-register instructions write rd with the standard's result of x[rs1] and x[rs2] and
change nothing else: no other register, no flag, no CSR, no memory. -/
def Obligations.IntegerRegister : Prop :=
  ∀ (s : State) (rd rs1 rs2 : BitVec 5), Present s rs1 → Present s rs2 → Settled s rd →
    let a := xr s rs1
    let b := xr s rs2
    let a32 := a.setWidth 32
    let b32 := b.setWidth 32
    Gives (.add rd rs1 rs2) s rd (a + b) ∧
    Gives (.sub rd rs1 rs2) s rd (a - b) ∧
    Gives (.sll rd rs1 rs2) s rd (a <<< (b.toNat % 64)) ∧
    Gives (.srl rd rs1 rs2) s rd (a >>> (b.toNat % 64)) ∧
    Gives (.sra rd rs1 rs2) s rd (a.sshiftRight (b.toNat % 64)) ∧
    Gives (.slt rd rs1 rs2) s rd (if a.toInt < b.toInt then 1 else 0) ∧
    Gives (.sltu rd rs1 rs2) s rd (if a.toNat < b.toNat then 1 else 0) ∧
    Gives (.xor rd rs1 rs2) s rd (a ^^^ b) ∧
    Gives (.or rd rs1 rs2) s rd (a ||| b) ∧
    Gives (.and rd rs1 rs2) s rd (a &&& b) ∧
    Gives (.mul rd rs1 rs2) s rd (a * b) ∧
    Gives (.mulh rd rs1 rs2) s rd (BitVec.ofInt 64 (a.toInt * b.toInt / 2 ^ 64)) ∧
    Gives (.mulhsu rd rs1 rs2) s rd (BitVec.ofInt 64 (a.toInt * (b.toNat : Int) / 2 ^ 64)) ∧
    Gives (.mulhu rd rs1 rs2) s rd (BitVec.ofNat 64 (a.toNat * b.toNat / 2 ^ 64)) ∧
    Gives (.addw rd rs1 rs2) s rd ((a32 + b32).signExtend 64) ∧
    Gives (.subw rd rs1 rs2) s rd ((a32 - b32).signExtend 64) ∧
    Gives (.sllw rd rs1 rs2) s rd ((a32 <<< (b.toNat % 32)).signExtend 64) ∧
    Gives (.srlw rd rs1 rs2) s rd ((a32 >>> (b.toNat % 32)).signExtend 64) ∧
    Gives (.sraw rd rs1 rs2) s rd ((a32.sshiftRight (b.toNat % 32)).signExtend 64) ∧
    Gives (.mulw rd rs1 rs2) s rd ((a32 * b32).signExtend 64)

/-- 03 R54, 00 R6: the instructions with an immediate write rd with the standard's result, and change nothing else. -/
def Obligations.IntegerImmediate : Prop :=
  ∀ (s : State) (rd rs1 : BitVec 5) (imm : BitVec 12) (sh : BitVec 6) (shw : BitVec 5) (up : BitVec 20),
    Present s rs1 → Settled s rd →
    let a := xr s rs1
    let c : Word := imm.signExtend 64
    let u : Word := (up ++ (0 : BitVec 12)).signExtend 64
    Gives (.addi rd rs1 imm) s rd (a + c) ∧
    Gives (.slti rd rs1 imm) s rd (if a.toInt < imm.toInt then 1 else 0) ∧
    Gives (.sltiu rd rs1 imm) s rd (if a.toNat < c.toNat then 1 else 0) ∧
    Gives (.xori rd rs1 imm) s rd (a ^^^ c) ∧
    Gives (.ori rd rs1 imm) s rd (a ||| c) ∧
    Gives (.andi rd rs1 imm) s rd (a &&& c) ∧
    Gives (.slli rd rs1 sh) s rd (a <<< sh.toNat) ∧
    Gives (.srli rd rs1 sh) s rd (a >>> sh.toNat) ∧
    Gives (.srai rd rs1 sh) s rd (a.sshiftRight sh.toNat) ∧
    Gives (.addiw rd rs1 imm) s rd (((a + c).setWidth 32).signExtend 64) ∧
    Gives (.slliw rd rs1 shw) s rd ((a.setWidth 32 <<< shw.toNat).signExtend 64) ∧
    Gives (.srliw rd rs1 shw) s rd ((a.setWidth 32 >>> shw.toNat).signExtend 64) ∧
    Gives (.sraiw rd rs1 shw) s rd (((a.setWidth 32).sshiftRight shw.toNat).signExtend 64) ∧
    Gives (.lui rd up) s rd u ∧
    Gives (.auipc rd up) s rd ((regs s).pc + u)

/-- 02 R24, 00 R6: a division empties rd at issue, sets its pending mark and leaves a request that holds the quotient or
remainder, which a later REPLY writes (`Claims.ReplyWrites`). Division by zero gives all ones and the dividend; the
quotient of the most negative number by -1 wraps; nothing traps. -/
def Obligations.Division : Prop :=
  ∀ (s : State) (rd rs1 rs2 : BitVec 5), s.idsBelow → Present s rs1 → Present s rs2 → Settled s rd →
    let a := xr s rs1
    let b := xr s rs2
    let a32 := a.setWidth 32
    let b32 := b.setWidth 32
    Asks (.div rd rs1 rs2) s (computed s rd (if b = 0 then BitVec.allOnes 64 else a.sdiv b)) ∧
    Asks (.divu rd rs1 rs2) s (computed s rd (if b = 0 then BitVec.allOnes 64 else a / b)) ∧
    Asks (.rem rd rs1 rs2) s (computed s rd (if b = 0 then a else a.srem b)) ∧
    Asks (.remu rd rs1 rs2) s (computed s rd (if b = 0 then a else a % b)) ∧
    Asks (.divw rd rs1 rs2) s (computed s rd ((if b32 = 0 then BitVec.allOnes 32 else a32.sdiv b32).signExtend 64)) ∧
    Asks (.divuw rd rs1 rs2) s (computed s rd ((if b32 = 0 then BitVec.allOnes 32 else a32 / b32).signExtend 64)) ∧
    Asks (.remw rd rs1 rs2) s (computed s rd ((if b32 = 0 then a32 else a32.srem b32).signExtend 64)) ∧
    Asks (.remuw rd rs1 rs2) s (computed s rd ((if b32 = 0 then a32 else a32 % b32).signExtend 64))

/-- 03 R54, 00 R7: jal and jalr go to a 4-byte aligned target and link; a target that is not aligned raises the
instruction-address-misaligned trap at the jump, with the target as its value and no link. -/
def Claims.Jumps : Prop :=
  ∀ (s : State) (rd rs1 : BitVec 5) (imm : BitVec 12) (off : BitVec 20), Settled s rd →
    let pc := (regs s).pc
    let near : Word := pc + (off ++ (0 : BitVec 1)).signExtend 64
    let far : Word := (xr s rs1 + imm.signExtend 64) &&& ~~~1
    (near.toNat % 4 = 0 → Answers (.jal rd off) s fun t => Links s t rd near) ∧
    (near.toNat % 4 ≠ 0 → Traps (.jal rd off) s 0 near) ∧
    (Present s rs1 → far.toNat % 4 = 0 → Answers (.jalr rd rs1 imm) s fun t => Links s t rd far) ∧
    (Present s rs1 → far.toNat % 4 ≠ 0 → Traps (.jalr rd rs1 imm) s 0 far)

/-- 03 R54, 00 R7: a conditional branch goes to its target when its comparison holds and to the next word when it does
not; only a taken branch to a target that is not 4-byte aligned traps. -/
def Claims.Branches : Prop :=
  ∀ (s : State) (rs1 rs2 : BitVec 5) (off : BitVec 12), Present s rs1 → Present s rs2 →
    let a := xr s rs1
    let b := xr s rs2
    let target : Word := (regs s).pc + (off ++ (0 : BitVec 1)).signExtend 64
    Branch (.beq rs1 rs2 off) s (a = b) target ∧
    Branch (.bne rs1 rs2 off) s (a ≠ b) target ∧
    Branch (.blt rs1 rs2 off) s (a.toInt < b.toInt) target ∧
    Branch (.bge rs1 rs2 off) s (b.toInt ≤ a.toInt) target ∧
    Branch (.bltu rs1 rs2 off) s (a.toNat < b.toNat) target ∧
    Branch (.bgeu rs1 rs2 off) s (b.toNat ≤ a.toNat) target

/-- Jumps link and go to their target, branches go there when taken; a target off 4 bytes traps. -/
def Obligations.JumpsAndBranches : Prop :=
  Claims.Jumps ∧ Claims.Branches

/-! ### single precision -/

/-- 03 R54, 00 R6: fused and plain arithmetic in FP32, rounded once in the mode of rm, or of fcsr.frm for rm = 111; f[rd]
receives the result and fflags the flags, and nothing else differs. -/
def Obligations.FloatArithmetic : Prop :=
  ∀ (s : State) (rd rs1 rs2 rs3 : BitVec 5) (rm : BitVec 3), FreeF s rs1 → FreeF s rs2 → FreeF s rs3 → FreeF s rd →
    let m := if rm = 7 then (regs s).frm.toNat else rm.toNat
    let a := decodeF fp32 (readF (regs s) rs1.toNat).toNat
    let b := decodeF fp32 (readF (regs s) rs2.toNat).toNat
    let c := decodeF fp32 (readF (regs s) rs3.toNat).toNat
    m ≤ 4 →
    GivesF (.faddS rd rs1 rs2 rm) s rd (fAdd fp32 m 0 a b) ∧
    GivesF (.fsubS rd rs1 rs2 rm) s rd (fAdd fp32 m 0 a b.neg) ∧
    GivesF (.fmulS rd rs1 rs2 rm) s rd (fMul fp32 m 0 a b) ∧
    GivesF (.fmaddS rd rs1 rs2 rs3 rm) s rd (fMulAdd fp32 m 0 a b c) ∧
    GivesF (.fmsubS rd rs1 rs2 rs3 rm) s rd (fMulAdd fp32 m 0 a b c.neg) ∧
    GivesF (.fnmsubS rd rs1 rs2 rs3 rm) s rd (fMulAdd fp32 m 0 a.neg b c) ∧
    GivesF (.fnmaddS rd rs1 rs2 rs3 rm) s rd (fMulAdd fp32 m 0 a.neg b c.neg)

/-- 02 R27: fdiv.s and fsqrt.s do not park at issue: the flags accumulate, f[rd] is locked and the result arrives by
F_RESULT_WRITTEN. Every F instruction that reads or writes a locked register does not issue, flw and fsw too: its context
parks. -/
def Claims.FloatLateResults : Prop :=
  ∀ (s : State) (rd rs1 rs2 rs3 : BitVec 5) (rm : BitVec 3) (imm : BitVec 12), s.idsBelow →
    let m := if rm = 7 then (regs s).frm.toNat else rm.toNat
    let a := decodeF fp32 (readF (regs s) rs1.toNat).toNat
    let b := decodeF fp32 (readF (regs s) rs2.toNat).toNat
    let late := fun (r : Nat × Nat) => request s .compute (.f rd.toNat)
      [{ pa := 0, va := 0, n := 4, done := true, res := r.1, own := true }]
    (m ≤ 4 → FreeF s rs1 → FreeF s rs2 → FreeF s rd →
      Answers (.fdivS rd rs1 rs2 rm) s fun t =>
        Leaves (accrue s (fDiv fp32 m 0 a b).2) t (late (fDiv fp32 m 0 a b))) ∧
    (m ≤ 4 → FreeF s rs1 → FreeF s rd →
      Answers (.fsqrtS rd rs1 rm) s fun t => Leaves (accrue s (fSqrt fp32 m 0 a).2) t (late (fSqrt fp32 m 0 a))) ∧
    (m ≤ 4 → ¬ FreeF s rs1 ∨ ¬ FreeF s rs2 ∨ ¬ FreeF s rs3 ∨ ¬ FreeF s rd →
      ∀ i ∈ [Instr.fmaddS rd rs1 rs2 rs3 rm, .fmsubS rd rs1 rs2 rs3 rm, .fnmsubS rd rs1 rs2 rs3 rm, .fnmaddS rd rs1 rs2 rs3 rm],
        Parks i s) ∧
    (m ≤ 4 → ¬ FreeF s rs1 ∨ ¬ FreeF s rs2 ∨ ¬ FreeF s rd →
      ∀ i ∈ [Instr.faddS rd rs1 rs2 rm, .fsubS rd rs1 rs2 rm, .fmulS rd rs1 rs2 rm, .fdivS rd rs1 rs2 rm], Parks i s) ∧
    (¬ FreeF s rs1 ∨ ¬ FreeF s rs2 ∨ ¬ FreeF s rd →
      ∀ i ∈ [Instr.fsgnjS rd rs1 rs2, .fsgnjnS rd rs1 rs2, .fsgnjxS rd rs1 rs2, .fminS rd rs1 rs2, .fmaxS rd rs1 rs2],
        Parks i s) ∧
    (m ≤ 4 → ¬ FreeF s rs1 ∨ ¬ FreeF s rd → Parks (.fsqrtS rd rs1 rm) s) ∧
    (¬ FreeF s rs1 ∨ ¬ FreeF s rs2 → ∀ i ∈ [Instr.fleS rd rs1 rs2, .fltS rd rs1 rs2, .feqS rd rs1 rs2], Parks i s) ∧
    (m ≤ 4 → ¬ FreeF s rs1 →
      ∀ i ∈ [Instr.fcvtWS rd rs1 rm, .fcvtWuS rd rs1 rm, .fcvtLS rd rs1 rm, .fcvtLuS rd rs1 rm], Parks i s) ∧
    (¬ FreeF s rs1 → ∀ i ∈ [Instr.fmvXW rd rs1, .fclassS rd rs1], Parks i s) ∧
    (m ≤ 4 → ¬ FreeF s rd →
      ∀ i ∈ [Instr.fcvtSW rd rs1 rm, .fcvtSWu rd rs1 rm, .fcvtSL rd rs1 rm, .fcvtSLu rd rs1 rm], Parks i s) ∧
    (¬ FreeF s rd → Parks (.fmvWX rd rs1) s ∧ Parks (.flw rd rs1 imm) s) ∧
    (¬ FreeF s rs2 → Parks (.fsw rs2 rs1 imm) s)

/-- 03 R54, 00 R6: sign injection, minimum and maximum, comparisons, classification and moves between x and f. -/
def Claims.FloatMoves : Prop :=
  ∀ (s : State) (rd rs1 rs2 : BitVec 5),
    let x := readF (regs s) rs1.toNat
    let y := readF (regs s) rs2.toNat
    let a := decodeF fp32 x.toNat
    let b := decodeF fp32 y.toNat
    let less := ltVal a b
    let same := eqVal a b
    let nan := a.isNaN || b.isNaN
    let snan := a.isSignalling || b.isSignalling
    (FreeF s rs1 → FreeF s rs2 → FreeF s rd →
      GivesF (.fsgnjS rd rs1 rs2) s rd (((x &&& 0x7FFFFFFF) ||| (y &&& 0x80000000)).toNat, 0) ∧
      GivesF (.fsgnjnS rd rs1 rs2) s rd (((x &&& 0x7FFFFFFF) ||| (~~~y &&& 0x80000000)).toNat, 0) ∧
      GivesF (.fsgnjxS rd rs1 rs2) s rd ((x ^^^ (y &&& 0x80000000)).toNat, 0) ∧
      GivesF (.fminS rd rs1 rs2) s rd (fMinMax fp32 false x.toNat y.toNat) ∧
      GivesF (.fmaxS rd rs1 rs2) s rd (fMinMax fp32 true x.toNat y.toNat)) ∧
    (FreeF s rs1 → FreeF s rs2 → Settled s rd →
      GivesXF (.fleS rd rs1 rs2) s rd (if less || same then 1 else 0) (if nan then 16 else 0) ∧
      GivesXF (.fltS rd rs1 rs2) s rd (if less then 1 else 0) (if nan then 16 else 0) ∧
      GivesXF (.feqS rd rs1 rs2) s rd (if same then 1 else 0) (if snan then 16 else 0)) ∧
    (FreeF s rs1 → Settled s rd →
      Gives (.fmvXW rd rs1) s rd (x.signExtend 64) ∧
      Gives (.fclassS rd rs1) s rd (BitVec.ofNat 64 (fClass fp32 x.toNat))) ∧
    (Present s rs1 → FreeF s rd → GivesF (.fmvWX rd rs1) s rd (((xr s rs1).setWidth 32).toNat, 0))

/-- fdiv.s and fsqrt.s deliver later; sign injections, moves, comparisons and minima act at issue. -/
def Obligations.FloatLateAndMoves : Prop :=
  Claims.FloatLateResults ∧ Claims.FloatMoves

/-- 03 R54, 00 R6: conversions between FP32 and integers of 32 and 64 bits, in the mode of rm; an out-of-range value
gives the nearest bound with NV, and a 32-bit integer result is sign-extended. -/
def Obligations.FloatConversions : Prop :=
  ∀ (s : State) (rd rs1 : BitVec 5) (rm : BitVec 3),
    let m := if rm = 7 then (regs s).frm.toNat else rm.toNat
    let a := decodeF fp32 (readF (regs s) rs1.toNat).toNat
    let x := xr s rs1
    m ≤ 4 →
    (FreeF s rs1 → Settled s rd →
      GivesXF (.fcvtWS rd rs1 rm) s rd ((BitVec.ofInt 32 (fToInt m 32 true a).1).signExtend 64) (fToInt m 32 true a).2 ∧
      GivesXF (.fcvtWuS rd rs1 rm) s rd ((BitVec.ofInt 32 (fToInt m 32 false a).1).signExtend 64) (fToInt m 32 false a).2 ∧
      GivesXF (.fcvtLS rd rs1 rm) s rd (BitVec.ofInt 64 (fToInt m 64 true a).1) (fToInt m 64 true a).2 ∧
      GivesXF (.fcvtLuS rd rs1 rm) s rd (BitVec.ofInt 64 (fToInt m 64 false a).1) (fToInt m 64 false a).2) ∧
    (Present s rs1 → FreeF s rd →
      GivesF (.fcvtSW rd rs1 rm) s rd (roundVal fp32 m 0 (ofInt (x.setWidth 32).toInt)) ∧
      GivesF (.fcvtSWu rd rs1 rm) s rd (roundVal fp32 m 0 (ofInt (x.setWidth 32).toNat)) ∧
      GivesF (.fcvtSL rd rs1 rm) s rd (roundVal fp32 m 0 (ofInt x.toInt)) ∧
      GivesF (.fcvtSLu rd rs1 rm) s rd (roundVal fp32 m 0 (ofInt x.toNat)))

/-- 09 R216: the five deterministic modes. A magnitude m * 2^e in units of 2^q is rounded to u units: toward zero u is
the floor; toward minus or plus infinity the ceiling for the sign that moves away; to nearest no unit is nearer, and a
tie goes to the even unit (RNE) or away from zero (RMM). The result is inexact exactly when it differs from the value. -/
def Claims.RoundingModes : Prop :=
  ∀ (neg : Bool) (m k : Nat) (e : Int),
    let u := fun rm => (quantise rm 0 neg m e (e + k) false).1
    let nx := fun rm => (quantise rm 0 neg m e (e + k) false).2
    let up := (m + 2 ^ k - 1) / 2 ^ k
    u 1 = m / 2 ^ k ∧
    u 2 = (if neg then up else m / 2 ^ k) ∧
    u 3 = (if neg then m / 2 ^ k else up) ∧
    (2 * (u 0 * 2 ^ k) ≤ 2 * m + 2 ^ k ∧ 2 * m ≤ 2 * (u 0 * 2 ^ k) + 2 ^ k) ∧
    ((2 * (u 0 * 2 ^ k) = 2 * m + 2 ^ k ∨ 2 * m = 2 * (u 0 * 2 ^ k) + 2 ^ k) → u 0 % 2 = 0) ∧
    (2 * (u 4 * 2 ^ k) ≤ 2 * m + 2 ^ k ∧ 2 * m < 2 * (u 4 * 2 ^ k) + 2 ^ k) ∧
    ∀ rm ≤ 4, (nx rm = true ↔ u rm * 2 ^ k ≠ m)

/-- 09 R215, R216: a value that the format holds exactly is neither rounded nor raises a flag, in any mode: the encoding
of a finite number or infinity of each of the six formats comes back from RoundTo. -/
def Claims.RoundExact : Prop :=
  ∀ f ∈ [fp64, fp32, fp16, bf16, e4m3, e5m2], ∀ (rm r b : Nat), b < 2 ^ f.width →
    (decodeF f b).isNaN = false → roundVal f rm r (decodeF f b) = (b, 0)

/-- Rounding picks a neighbour by the mode, and an exact value stays without a flag. -/
def Obligations.Rounding : Prop :=
  Claims.RoundingModes ∧ Claims.RoundExact

/-! ### control and status registers -/

/-- 02 R28, R33 to R45: in the reset state, and after a reset of any core in any state, every CSR of the core reads its reset
value in each of its contexts; the rank and size of its domain are 0, the core, context and package numbers its own. qoutst is
0 after a core reset where nothing of a saved rank and no message of the core is left. -/
def Claims.CsrReset : Prop :=
  ∀ (s : State) (k n : Nat), n < 11 → (∃ t, exec (.coreReset k) s = .next t) ∧ csrRead State.reset k n 0xCC5 = 0 ∧
  ∀ t, t = State.reset ∨ exec (.coreReset k) s = .next t →
    let read := csrRead t k n
    ((∀ r ∈ t.reqs, r.core ≠ k) → (∀ m ∈ t.msgs, m.core ≠ k) → (∀ e ∈ (getCore s k).ctxs, e.1 < 16) → read 0xCC5 = 0) ∧
    read 0xCC0 = 0 ∧ read 0xCC1 = 0 ∧ read 0xCC2 = BitVec.ofNat 64 (k % 4096) ∧ read 0xCC4 = BitVec.ofNat 64 (k / 4096) ∧
    read 0x800 = 0 ∧ read 0x801 = 0 ∧ read 0x802 = 0 ∧ read 0x803 = 0xE2 ∧ read 0x804 = 0 ∧ read 0x805 = 0 ∧
    (∀ a ∈ [0x810, 0x811, 0x812, 0x813, 0x814], read a = 0) ∧ (∀ i < 16, read (0x5C0 + i) = 0) ∧
    read 0x5D0 = 256 ∧ read 0x5D1 = 1 ∧ read 0x5D2 = 65536 ∧ read 0x5D3 = 1900000 ∧ read 0x5D4 = 19000 ∧
    read 0x5D5 = 0 ∧ read 0x5D6 = 10000 ∧ read 0x5D7 = 0 ∧ read 0x5D8 = 0xC00071 ∧
    (∀ i < 16, read (0x7C0 + i) = 21 * 2 ^ 56) ∧ read 0x7D0 = 0 ∧
    read 0xCC3 = BitVec.ofNat 64 n ∧ read 0xCC6 = 0 ∧ read 0xCC7 = 0 ∧
    read 0xCC8 = 0xFFFFFFFF ∧ read 0xCC9 = 0xFFFF

/-- 02 R31 to R45, 00 R7: what a CSR reads after a write that is stored: reserved bits read 0, a value outside a range
of R41 or R44 is the nearest one inside, DEPTH and ACT keep theirs. -/
def Claims.CsrFields : Prop :=
  ∀ (s : State) (k n : Nat) (v : Word),
    let back := fun a => csrRead (csrWrite s k n a v) k n a
    let c := getCore s k
    let within := fun (lo hi bits : Nat) => BitVec.ofNat 64 (min (max (v.toNat % 2 ^ bits) lo) hi)
    back 0x001 = v &&& 0x1F ∧ back 0x002 = v &&& 7 ∧ back 0x003 = v &&& 0xFF ∧
    back 0x800 = v &&& 7 ∧ back 0x801 = v ∧ back 0x802 = v ∧ back 0x803 = v &&& 0xFF ∧
    back 0x804 = BitVec.ofNat 64 (4 * c.domDepth.toNat) + (v &&& 3) ∧ back 0x805 = v &&& 0xFFFFFFFF ∧
    back 0x810 = v &&& ~~~2 ∧ back 0x811 = (v &&& 0xFFFF) ||| (c.qupcause &&& 0x8000000000000000) ∧ back 0x812 = v ∧
    back 0x813 = v &&& 0xFFFFFFFF00003F0F ∧ back 0x814 = v &&& ~~~3 ∧
    (∀ i < 8, back (0x5C0 + 2 * i) = v ∧ back (0x5C1 + 2 * i) = v &&& 0xE0FFFFFFFFFFF000) ∧
    back 0x5D0 = within 1 256 9 ∧ back 0x5D1 = within 1 15 4 ∧ back 0x5D2 = within 1024 (2 ^ 32 - 1) 32 ∧
    back 0x5D3 = v &&& 0xFFFFFFFF ∧ back 0x5D4 = v &&& 0xFFFFFFFF ∧ back 0x5D6 = within 200 (2 ^ 32 - 1) 32 ∧
    back 0x5D5 = v &&& 0x000000FFFFFF0F30 ∧ back 0x5D7 = v &&& 0x00FFFFFFFFFFF001 ∧
    back 0x5D8 = BitVec.ofNat 64 (min (v.toNat / 2 ^ 16 % 2 ^ 16) 192 * 2 ^ 16 + max (v.toNat / 16 % 8) 1 * 16 + v.toNat % 2) ∧
    (∀ i < 16, back (0x7C0 + i) = v &&& 0xFFFFFFFFFFE00000) ∧ back 0x7D0 = v &&& 0x7FFFFF ∧
    back 0x340 = v ∧ back 0x341 = v &&& ~~~3 ∧ back 0x342 = v ∧ back 0x343 = v ∧
    back 0x140 = v ∧ back 0x141 = v &&& ~~~3 ∧ back 0x142 = v ∧ back 0x143 = v

/-- 02 R29, R31: a CSR write reaches one core and, of it, one context: memory, every other core and every other context
are as before, and so are the context's registers, presence and pending marks and PC; only a write of qrxcnt that satisfies an
xrecv reaches the context that waits there (02 R37, 04 R109). Of the written core's CSRs every other one reads as before, but
for those that show the same state under another address, the rank and size of the level that qdom selects, and qoutst under
another limit of qmaxout. -/
def Claims.CsrWriteFrame : Prop :=
  ∀ (s : State) (k n a : Nat) (v : Word),
    let t := csrWrite s k n a v
    t.mem = s.mem ∧ t.reqs = s.reqs ∧ t.msgs = s.msgs ∧
    (∀ j, j ≠ k → getCore t j = getCore s j) ∧
    let receives := fun (m : Nat) => ∃ c r, Wait.received c r ∈ waitsOf (getCtx s k m)
    let shares := fun (b : Nat) => (a, b) ∈ [(0x001, 0x003), (0x002, 0x003), (0x003, 0x001), (0x003, 0x002), (0x100, 0x300),
      (0x300, 0x100), (0x104, 0x304), (0x304, 0x104), (0x344, 0x144), (0x804, 0xCC0), (0x804, 0xCC1), (0x5D0, 0xCC5)]
    (∀ m, m ≠ n → a ≠ 0x805 ∨ ¬ receives m → getCtx t k m = getCtx s k m) ∧
    (a ≠ 0x805 ∨ ¬ receives n → ∀ b, b ≠ a → ¬ shares b → csrRead t k n b = csrRead s k n b) ∧
    (a ≠ 0x805 ∨ ¬ receives n →
    let g := (getCtx s k n).regs
    let h := (getCtx t k n).regs
    h = { g with fflags := h.fflags, frm := h.frm, qrm := h.qrm, qsrctr := h.qsrctr })

/-- CSRs hold their reset values; a write changes the fields of its register and what shows the same state, nothing else. -/
def Obligations.CsrRegisters : Prop :=
  Claims.CsrReset ∧ Claims.CsrFields ∧ Claims.CsrWriteFrame

/-- 03 R54, 02 R31: the Zicsr instructions read the CSR into rd and store x[rs1] or the immediate, set its bits or clear
them; the forms that name x0 or 0 read only; csrrw with rd = x0 writes only. They run where the CSR exists, the mode
reaches it, and the value is one that its fields allow. -/
def Claims.CsrInstructions : Prop :=
  ∀ (s : State) (rd rs1 : BitVec 5) (csr : BitVec 12), NoTx s → Present s rs1 → Settled s rd →
    (csr = 1 ∨ csr = 3 → condHolds s s.turn s.cur .vecDone = true) →
    let a := csr.toNat
    let old := csrRead s s.turn s.cur a
    let stores := fun (v : Word) (i : Instr) (link : Bool) =>
      csrAllowed (me s).mode a true = true → csrForbids (myCore s) a v = false →
      exec i s = .next (if link then retireX (csrWrite s s.turn s.cur a v) rd old else retire (csrWrite s s.turn s.cur a v))
    let imm : Word := rs1.setWidth 64
    stores (xr s rs1) (.csrrw rd rs1 csr) (rd != 0) ∧
    (rs1 ≠ 0 → stores (old ||| xr s rs1) (.csrrs rd rs1 csr) true) ∧
    (rs1 ≠ 0 → stores (old &&& ~~~ xr s rs1) (.csrrc rd rs1 csr) true) ∧
    stores imm (.csrrwi rd rs1 csr) (rd != 0) ∧
    (rs1 ≠ 0 → stores (old ||| imm) (.csrrsi rd rs1 csr) true) ∧
    (rs1 ≠ 0 → stores (old &&& ~~~ imm) (.csrrci rd rs1 csr) true) ∧
    (rs1 = 0 → csrAllowed (me s).mode a false = true →
      Gives (.csrrs rd rs1 csr) s rd old ∧ Gives (.csrrc rd rs1 csr) s rd old ∧
      Gives (.csrrsi rd rs1 csr) s rd old ∧ Gives (.csrrci rd rs1 csr) s rd old)

/-- 02 R31, 00 R8: an access from a lower privilege than the CSR's class, a write of a read-only CSR, an address that is
not allocated and a value that a field's table forbids raise the illegal-instruction trap with the word as its value, and
nothing is written: of all six Zicsr instructions, of which csrrs and csrrc with x0 and the forms with the immediate 0 write
nothing. -/
def Claims.CsrTraps : Prop :=
  ∀ (s : State) (rd rs1 : BitVec 5) (csr : BitVec 12),
    let a := csr.toNat
    let old := csrRead s s.turn s.cur a
    let imm : Word := rs1.setWidth 64
    let illegal := fun (i : Instr) => ∀ word, encode i = some word → Traps i s 2 (word.setWidth 64)
    let forms : List (Instr × Bool × Bool × Bool × Word) := [
      (.csrrw rd rs1 csr, true, true, rd != 0, xr s rs1), (.csrrs rd rs1 csr, true, rs1 != 0, true, old ||| xr s rs1),
      (.csrrc rd rs1 csr, true, rs1 != 0, true, old &&& ~~~ xr s rs1), (.csrrwi rd rs1 csr, false, true, rd != 0, imm),
      (.csrrsi rd rs1 csr, false, rs1 != 0, true, old ||| imm), (.csrrci rd rs1 csr, false, rs1 != 0, true, old &&& ~~~ imm)]
    ∀ f ∈ forms, ∀ (reg writes reads : Bool) (v : Word), f.2 = (reg, writes, reads, v) →
    (((a / 256 % 4 > (me s).mode.code) ∨ (writes = true ∧ a / 1024 = 3) ∨ (standardCsr a = false ∧ quistadCsr a = false)) →
      illegal f.1) ∧
    (NoTx s → (reg = true → Present s rs1) → Settled s rd → (reads = false ∨ (csr ≠ 1 ∧ csr ≠ 3)) → writes = true →
      csrAllowed (me s).mode a true = true →
      let v := v.toNat
      ((a = 0x800 ∧ 6 ≤ v % 8) ∨ (a = 0x804 ∧ (myCore s).domDepth.toNat < v % 4) ∨
        (0x5C0 ≤ a ∧ a ≤ 0x5CF ∧ a % 2 = 1 ∧ v / 2 ^ 62 % 4 = 3) ∨ (a = 0x5D5 ∧ 2 < v / 256 % 16) ∨
        (0x7C0 ≤ a ∧ a ≤ 0x7CF ∧ (v / 2 ^ 56 % 64 < 21 ∨ 44 < v / 2 ^ 56 % 64))) →
      illegal f.1)

/-- 02 R37, R40, R42, R43, 04 R109, 14 R298: the rows for CSR writes: a write by a context whose mode reaches the CSR is stored
under the field rules. A write of qrxcnt ends the waits of the core's contexts that it satisfies,
those that an upcall interrupted too (12 R258). A region word drops that region's entries from the core's TLBs; a change of NOPRE or of qsave.V
raises a CTL event. -/
def Claims.CsrWriteRows : Prop :=
  ∀ (s : State) (csr : BitVec 12) (word : BitVec 4) (v : Word),
    (csrAllowed (me s).mode csr.toNat true = true → csrForbids (myCore s) csr.toNat v = false →
      exec (.csrWrite csr v) s = .next (csrWrite s s.turn s.cur csr.toNat v)) ∧
    Answers (.qrxcntWrite v) s (fun t => (myCore t).qrxcnt = v.setWidth 32 ∧ t.mem = s.mem ∧ t.reqs = s.reqs ∧ t.msgs = s.msgs ∧
      (∀ k, k ≠ s.turn → getCore t k = getCore s k) ∧
      ∀ n < 11, let c := getCtx s s.turn n
        let kept := ∃ m r, c.keptWait = some (.received m r)
        let waits := ∃ m r, c.st = .waiting (.received m r)
        (¬ kept → ¬ waits → getCtx t s.turn n = c) ∧
        (∀ m r, ¬ kept → c.st = .waiting (.received m r) → getCtx t s.turn n =
          if m ≤ v.toNat % 2 ^ 32 then
            { c with st := .live, regs := { writeX c.regs r (v &&& 0xFFFFFFFF) with pc := c.regs.pc + 4 } } else c) ∧
        ∀ m r, ¬ waits → c.keptWait = some (.received m r) → getCtx t s.turn n =
          if m ≤ v.toNat % 2 ^ 32 then
            { c with keptWait := some .ended, regs := writeX c.regs r (v &&& 0xFFFFFFFF) } else c) ∧
    ((me s).mode ≠ .u → (word.getLsbD 0 = true → v.toNat / 2 ^ 62 ≠ 3) →
      Answers (.qrgnWrite word v) s fun t =>
        csrRead t s.turn s.cur (0x5C0 + word.toNat) = (if word.getLsbD 0 then v &&& 0xE0FFFFFFFFFFF000 else v) ∧
        (∀ e ∈ (myCore t).itlb ++ (myCore t).dtlb, e ∈ (myCore s).itlb ++ (myCore s).dtlb ∧
          let r := regionOf (myCore s).qrgn (word.toNat / 2)
          ¬ (r.kind = 1 ∧ e.base = r.base ∧ e.pgsz = r.pgsz ∧ e.root = r.root))) ∧
    ((me s).mode ≠ .u → v.toNat / 256 % 16 ≤ 2 →
      Answers (.qcontWrite v) s fun t => (myCore t).qcont = v &&& 0x000000FFFFFF0F30 ∧
        fget [] t.events (pkgOf s.turn) = fget [] s.events (pkgOf s.turn) ++
          (if (myCore s).qcont.getLsbD 5 = v.getLsbD 5 then []
           else [Sched.ctl s.turn ((myCore s).qsave.getLsbD 0) (v.getLsbD 5)])) ∧
    ((me s).mode ≠ .u →
      Answers (.qsaveWrite v) s fun t => (myCore t).qsave = v &&& 0x00FFFFFFFFFFF001 ∧
        fget [] t.events (pkgOf s.turn) = fget [] s.events (pkgOf s.turn) ++
          (if (myCore s).qsave.getLsbD 0 = v.getLsbD 0 then []
           else [Sched.ctl s.turn (v.getLsbD 0) ((myCore s).qcont.getLsbD 5)]))

/-- CSR instructions read the old value, write the new one where the rules allow, and trap elsewhere. -/
def Obligations.CsrAccesses : Prop :=
  Claims.CsrInstructions ∧ Claims.CsrTraps ∧ Claims.CsrWriteRows

/-! ### traps, returns, system calls -/

/-- 02 R29, R30, 12 R254: a precise trap. Outside a transaction a context in U mode enters S mode: sepc, scause and stval
receive its PC, the cause and the value, SPP becomes U, SPIE takes SIE, SIE is cleared and the PC goes to stvec; a context
in S or M mode enters M mode in the same way. Only the mode and CSRs of that context change: its x, f, v and k registers,
every other context, every register of the core and memory stay. Inside a transaction the transaction aborts with FAULT
instead. -/
def Obligations.TrapEntry : Prop :=
  ∀ (s : State) (code : Nat) (value : Word),
    let t := takeTrap s code value
    let c := me s
    (NoTx s → c.mode = .u →
      let st := putBit (putBit (putBit c.mstatus 5 (c.mstatus.getLsbD 1)) 1 false) 8 false
      t = setMe s { c with
        mode := .s, sepc := (regs s).pc, scause := BitVec.ofNat 64 code &&& 0x7FFFFFFFFFFFFFFF, stval := value, mstatus := st,
        st := .live, regs := { regs s with pc := (myCore s).stvec &&& ~~~3 } }) ∧
    (NoTx s → c.mode ≠ .u →
      ∃ st : Word, (∀ i, i ∉ [3, 7, 11, 12] → st.getLsbD i = c.mstatus.getLsbD i) ∧ st.getLsbD 7 = c.mstatus.getLsbD 3 ∧
        st.getLsbD 3 = false ∧ bitsOf st 12 11 = c.mode.code ∧
      t = setMe s { c with
        mode := .m, mepc := (regs s).pc, mcause := BitVec.ofNat 64 code, mtval := value, mstatus := st,
        st := .live, regs := { regs s with pc := (myCore s).mtvec &&& ~~~3 } }) ∧
    (¬ NoTx s → t = abortMe s 8 0 (if addressCause code then value else 0)) ∧
    t.mem = s.mem ∧ ∀ k n, (k, n) ≠ (s.turn, s.cur) → getCtx t k n = getCtx s k n

/-- 00 R6, 02 R29: sret returns to the mode of SPP at sepc with SIE from SPIE, SPIE set and SPP U; mret to that of MPP at
mepc with MIE from MPIE, MPIE set and MPP U. Below the mode that may return, the word is illegal. -/
def Claims.TrapReturns : Prop :=
  ∀ s : State,
    let c := me s
    let st := c.mstatus
    (NoTx s → c.mode ≠ .u → Answers .sret s fun t =>
      ∃ st' : Word, (∀ i, i ∉ [1, 5, 8] → st'.getLsbD i = st.getLsbD i) ∧ st'.getLsbD 1 = st.getLsbD 5 ∧
        st'.getLsbD 5 = true ∧ st'.getLsbD 8 = false ∧
        me t = { c with mode := if st.getLsbD 8 then .s else .u, mstatus := st', st := .live,
                        regs := { regs s with pc := c.sepc &&& ~~~3 } } ∧
        t.mem = s.mem ∧ ∀ k n, (k, n) ≠ (s.turn, s.cur) → getCtx t k n = getCtx s k n) ∧
    (NoTx s → c.mode = .m → Answers .mret s fun t =>
      ∃ st' : Word, (∀ i, i ∉ [3, 7, 11, 12] → st'.getLsbD i = st.getLsbD i) ∧ st'.getLsbD 3 = st.getLsbD 7 ∧
        st'.getLsbD 7 = true ∧ bitsOf st' 12 11 = 0 ∧
        t = setMe s { c with mode := Mode.ofCode (bitsOf st 12 11), mstatus := st', st := .live,
                             regs := { regs s with pc := c.mepc &&& ~~~3 } }) ∧
    (c.mode = .u → Traps .sret s 2 0x10200073 ∧ Traps .wfi s 2 0x10500073) ∧
    (c.mode ≠ .m → Traps .mret s 2 0x30200073)

/-- 01 R15, 12 R255, R398: ecall by the mode and a7, and ebreak. From U mode with a7 = 0 context 0 ends its parcel once
its accesses have completed and parks until then, and a helper takes BADCTX; with another a7 cause 8. From S mode firmware serves the call: it
passes a fault on, raises an INTERRUPT event, or answers -1. From M mode it is cause 11. -/
def Claims.SystemCalls : Prop :=
  ∀ s : State, NoTx s →
    let a7 := readX (regs s) 17
    let x := fun r => readX (regs s) r
    (InMode s .u → Present s 17 →
      (a7 = 0 → s.cur = 0 → condHolds s s.turn s.cur .accessesDone = true → exec .ecall s = .next (endParcel s s.turn)) ∧
      (a7 = 0 → s.cur = 0 → condHolds s s.turn s.cur .accessesDone = false → exec .ecall s = .next (park s [.accessesDone])) ∧
      (a7 = 0 → s.cur ≠ 0 → Traps .ecall s 0x100 0) ∧ (a7 ≠ 0 → Traps .ecall s 8 0)) ∧
    (InMode s .s → Present s 17 →
      (a7 = 1 → Present s 10 → Present s 11 → Present s 12 →
        ∀ i ∈ [Instr.ecall, .ecallPassFault], exec i s =
          .next (escalate s s.turn s.cur ((x 10).toNat % 65536) (x 11) (x 12))) ∧
      (a7 = 2 → Present s 10 → Settled s 10 →
        ∀ i ∈ [Instr.ecall, .ecallRaiseInterrupt],
          exec i s = .next (retireX (postFor s s.turn s.cur 10 0 0 (x 10) 0) 10 0)) ∧
      (a7 ≠ 1 → a7 ≠ 2 → Settled s 10 → Gives .ecall s 10 (BitVec.allOnes 64))) ∧
    (InMode s .m → Traps .ecall s 11 0) ∧ Traps .ebreak s 3 0

/-- 00 R7, 20 R385: FENCE issues once every earlier access of the context has been performed, FENCE.I once every access
of the core has and its lock messages have reached their homes, and then empties the instruction cache; until then the context parks with its PC unchanged. wfi of context 0 in S or M
mode goes on where the external interrupt is pending and enabled, and else waits for it. -/
def Claims.FencesAndWfi : Prop :=
  ∀ (s : State) (rd rs1 : BitVec 5) (imm : BitVec 12), NoTx s →
    ((∀ r ∈ s.reqs, r.core = s.turn → r.ctx = s.cur → r.orphan = true ∨ reqDone r = true) → nputOpen s s.turn s.cur = false →
      Answers (.fence rd rs1 imm) s fun t => Advances s t) ∧
    ((∃ r ∈ s.reqs, r.core = s.turn ∧ r.ctx = s.cur ∧ r.orphan = false ∧ r.kind ≠ .compute ∧ reqDone r = false) →
      Answers (.fence rd rs1 imm) s fun t => ∃ cs, t = park s cs) ∧
    ((∀ r ∈ s.reqs, r.core = s.turn → reqDone r = true) → lockSent s s.turn = false →
      Answers (.fenceI rd rs1 imm) s fun t => Advances (modMyCore s fun c => { c with icache := [] }) t) ∧
    ((me s).mode ≠ .u → s.cur = 0 → (myCore s).mip.getLsbD 9 = true → (myCore s).mie.getLsbD 9 = true →
      Answers .wfi s fun t => Advances s t) ∧
    ((me s).mode ≠ .u → (s.cur ≠ 0 ∨ (myCore s).mip.getLsbD 9 = false ∨ (myCore s).mie.getLsbD 9 = false) →
      exec .wfi s = .next (await s .wfi))

/-- 03 R50: the grid of bits [6:2]: a word is illegal by its opcode exactly where its bits [1:0] are not 0b11 or its entry is
marked illegal; it then runs as ILLEGAL_INSTRUCTION. A word of any other entry is read by the table of that name. -/
def Obligations.OpcodeGrid : Prop :=
  ∀ w : IWord,
    let illegal := w.toNat % 4 ≠ 3 ∨ w.toNat / 4 % 32 ∈ [7, 11, 15, 21, 23, 26, 29, 31]
    let grid : List (Nat × (IWord → Except Reject Instr)) := [
      (0, decodeLoad), (1, decodeLoadFp), (2, decodeCtx), (3, decodeMiscMem), (4, decodeOpImm), (5, decodeAuipc), (6, decodeOpImm32),
      (8, decodeStore), (9, decodeStoreFp), (10, decodeMem), (12, decodeOp), (13, decodeLui), (14, decodeOp32),
      (16, decodeMadd), (17, decodeMsub), (18, decodeNmsub), (19, decodeNmadd), (20, decodeOpFp), (22, decodeVec),
      (24, decodeBranch), (25, decodeJalr), (27, decodeJal), (28, decodeSystem), (30, decodeMtx)]
    (decode w = .error .opcode ↔ illegal) ∧ (illegal → decodeOrIllegal w = .illegalInstruction w) ∧
    ∀ e ∈ grid, w.toNat % 4 = 3 → w.toNat / 4 % 32 = e.1 → decode w = e.2 w

/-- 03 R51, 00 R8: every word that is no encoding of a well-formed instruction decodes to the illegal instruction, words whose
fields no table allocates or that break a field's rule among them; the illegal instruction raises a precise trap whose value is
the word, and has no other effect. -/
def Claims.ReservedWords : Prop :=
  (∀ w ∈ [0x00001067#32, 0x00003063#32, 0x00007003#32, 0x00004023#32, 0x04001013#32, 0x40004033#32, 0x00005027#32,
    0x02000053#32, 0x00006053#32, 0x12000073#32, 0x00004073#32, 0xFE00000B#32, 0xFE00002B#32, 0x0600707B#32],
    decodeOrIllegal w = .illegalInstruction w) ∧
  (∀ w : IWord, (∀ i : Instr, (∀ x, i ≠ .illegalInstruction x) → i.wf = true → encode i ≠ some w) →
    decodeOrIllegal w = .illegalInstruction w) ∧
  ∀ (w : IWord) (s : State), Traps (.illegalInstruction w) s 2 (w.setWidth 64)

/-- Trap returns, system calls, fences and wfi act as their rules say; unallocated words trap. -/
def Obligations.SystemInstructions : Prop :=
  Claims.TrapReturns ∧ Claims.SystemCalls ∧ Claims.FencesAndWfi ∧ Claims.ReservedWords

/-! ### helpers, presence, parcels and upcalls (chapter 04) -/

/-- 04 R80: hstart starts the lowest-numbered free helper: in the issuer's mode at PC x[rs1], a0 the argument, a1 its
number, sp the top of its stack, every other register 0 and present, qrm, qsrseed, qhbase and fcsr.frm copied, qsrctr and
fflags 0; rd receives its number, or 0 where none is free. A PC that is not 4-byte aligned raises cause 0. The helper's
accesses follow those of its starter that are not performed (04 R85). No other context, no memory and no message differs. -/
def Claims.HelperStart : Prop :=
  ∀ (s : State) (rd rs1 rs2 : BitVec 5), NoTx s → (me s).st = .live → Present s rs1 → Present s rs2 → Settled s rd →
    let pc := xr s rs1
    let free := fun n => ((myCore s).ctx n).st = .free ∧ (myCore s).ctxops.all (fun o => o.target != n)
    (pc.toNat % 4 ≠ 0 → Traps (.hstart rd rs1 rs2) s 0 pc) ∧
    (pc.toNat % 4 = 0 → (∀ h, 1 ≤ h → h ≤ 10 → ¬ free h) → Gives (.hstart rd rs1 rs2) s rd 0) ∧
    ∀ h, 1 ≤ h → h ≤ 10 → pc.toNat % 4 = 0 → free h → (∀ n, 1 ≤ n → n < h → ¬ free n) →
      Answers (.hstart rd rs1 rs2) s fun t =>
        let c := getCtx t s.turn h
        let g := c.regs
        xr t rd = (if rd = 0 then 0 else BitVec.ofNat 64 h) ∧ (∀ r : BitVec 5, r ≠ rd → xr t r = xr s r) ∧
        (regs t).pc = (regs s).pc + 4 ∧
        c.st = .live ∧ c.mode = (me s).mode ∧ g.pc = pc ∧ readX g 10 = xr s rs2 ∧ readX g 11 = BitVec.ofNat 64 h ∧
        readX g 2 = spHelper (myCore s).qrgn (hstackOf s (myCore s)) (myCore s).rank h ∧
        (∀ r, r ∉ [2, 10, 11] → readX g r = 0) ∧ (∀ r, readF g r = 0 ∧ readV g r = 0 ∧ readK g r = 0) ∧
        g.xpres = BitVec.allOnes 32 ∧ g.vpres = BitVec.allOnes 16 ∧ g.xpend = 0 ∧ g.vpend = 0 ∧ g.fpend = 0 ∧
        g.qrm = (regs s).qrm ∧ g.frm = (regs s).frm ∧ c.qsrseed = (me s).qsrseed ∧ c.qhbase = (me s).qhbase ∧
        g.qsrctr = 0 ∧ g.fflags = 0 ∧ c.tx = none ∧ c.locks = [] ∧ c.after = undoneOf s s.turn s.cur ∧
        t.mem = s.mem ∧ t.reqs = s.reqs ∧ t.msgs = s.msgs ∧
        ∀ k n, (k, n) ≠ (s.turn, s.cur) → (k, n) ≠ (s.turn, h) → getCtx t k n = getCtx s k n

/-- 04 R81, R83, R84: hend frees the helper that runs it; hkill frees another one and does nothing to a free one; hwait
goes on where the helpers it names are free, its later accesses then following those of the ended ones (04 R85), and else
waits for the end of one. Context 0, a context that names itself or none, and a held lock or a queued
lock request take their traps; the HENDBUSY of a helper with an open transaction is that transaction's abort with FAULT (05
R141, log entry 59). Memory is as before. -/
def Claims.HelperEnd : Prop :=
  ∀ (s : State) (rs1 : BitVec 5), (¬ NoTx s → s.cur ≠ 0 → Traps .hend s 0x101 0 ∧ takeTrap s 0x101 0 = abortMe s 8 0 0) ∧
  (NoTx s → (me s).st = .live →
    let h := xn s rs1
    let busy := (myCore s).ctxops.any fun o => o.target == h
    (s.cur = 0 → Traps .hend s 0x100 0) ∧
    (s.cur ≠ 0 → ((me s).locks ≠ [] ∨ lockRequests (me s) ≠ []) → Traps .hend s 0x101 0) ∧
    (s.cur ≠ 0 → (me s).locks = [] → lockRequests (me s) = [] → Answers .hend s fun t =>
      (getCtx t s.turn s.cur).st = .free ∧ t.mem = s.mem) ∧
    (Present s rs1 → (h = 0 ∨ 10 < h ∨ h = s.cur ∨ busy = true) → Traps (.hkill rs1) s 0x100 0) ∧
    (Present s rs1 → 1 ≤ h → h ≤ 10 → h ≠ s.cur → busy = false → (getCtx s s.turn h).st = .free →
      Answers (.hkill rs1) s fun t => Advances s t) ∧
    (Present s rs1 → 1 ≤ h → h ≤ 10 → h ≠ s.cur → busy = false → (getCtx s s.turn h).st ≠ .free →
      Answers (.hkill rs1) s fun t => (getCtx t s.turn h).st = .free ∧ (getCtx t s.turn h).locks = [] ∧
        (getCtx t s.turn h).tx = none ∧ (regs t).pc = (regs s).pc + 4 ∧ t.mem = s.mem) ∧
    (Present s rs1 → (10 < h ∨ (h ≠ 0 ∧ h = s.cur)) → Traps (.hwait rs1) s 0x100 0) ∧
    let vacant := fun n => (getCtx s s.turn n).st = .free ∨ (getCtx s s.turn n).st = .reserved
    let follows := modMe s fun c => { c with after := helperAccesses s s.turn s.cur h }
    (Present s rs1 → 1 ≤ h → h ≤ 10 → h ≠ s.cur → vacant h → Answers (.hwait rs1) s fun t => Advances follows t) ∧
    (Present s rs1 → h = 0 → (∀ n, 1 ≤ n → n ≤ 10 → n ≠ s.cur → vacant n) → Answers (.hwait rs1) s fun t => Advances follows t) ∧
    (Present s rs1 → 1 ≤ h → h ≤ 10 → h ≠ s.cur → ¬ vacant h → exec (.hwait rs1) s = .next (await s (.helper h))) ∧
    ∀ n, Present s rs1 → h = 0 → 1 ≤ n → n ≤ 10 → n ≠ s.cur → ¬ vacant n → exec (.hwait rs1) s = .next (await s (.helper 0)))

/-- hstart starts a free helper with its registers, hend ends it, hkill and hwait end or await one. -/
def Obligations.Helpers : Prop :=
  Claims.HelperStart ∧ Claims.HelperEnd

/-- 04 R87: pclr empties a register and leaves its pending mark; pclr x0 does nothing. Nothing else differs
but the reuse latch, which loses a cleared v register (06 R178). -/
def Claims.ClearPresence : Prop :=
  ∀ (s : State) (reg : BitVec 5),
    (Answers (.pclr 0 reg) s fun t => t = setMe s (me t) ∧ me t = { me s with st := .live, regs := regs t } ∧
      regs t = { regs s with xpres := (regs t).xpres, pc := (regs s).pc + 4 } ∧
      ∀ i, (regs t).xpres.getLsbD i = ((regs s).xpres.getLsbD i && !(decide (i = reg.toNat) && reg != 0))) ∧
    (Answers (.pclr 1 reg) s fun t => t = setMe s (me t) ∧ me t = { me s with st := .live, regs := regs t } ∧
      regs t = { regs s with vpres := (regs t).vpres, latch := (regs t).latch, pc := (regs s).pc + 4 } ∧
      ∀ i, (regs t).vpres.getLsbD i = ((regs s).vpres.getLsbD i && !decide (i = reg.toNat)))

/-- 04 R88: ptest writes the pending and present bits of the named register to rd at issue, 0b01 for x0, and never parks
on the register. -/
def Obligations.TestPresence : Prop :=
  ∀ (s : State) (rd reg : BitVec 5), Settled s rd →
    let bits := fun (pend pres : Bool) => (if pend then 2 else 0 : Word) + (if pres then 1 else 0)
    Gives (.ptest rd 0 reg) s rd
      (if reg = 0 then 1 else bits ((regs s).xpend.getLsbD reg.toNat) ((regs s).xpres.getLsbD reg.toNat)) ∧
    Gives (.ptest rd 1 reg) s rd (bits ((regs s).vpend.getLsbD reg.toNat) ((regs s).vpres.getLsbD reg.toNat))

/-- 04 R86: yield changes nothing but issue: the instruction is done, and the context waits until the contexts that are
ready now have issued once, or 11 cycles of its core have passed (20 R396). -/
def Claims.Yield : Prop :=
  ∀ s : State, Answers .yield s fun t => ∃ others,
    t = setMe s { me s with
      st := .waiting (.yield (ownCycle s s.turn + 11) others), regs := { regs s with pc := (regs s).pc + 4 } } ∧
    ∀ j, j ∈ others ↔ j < 11 ∧ j ≠ s.cur ∧ ctxReady s s.turn j = true

/-- pclr empties a register and leaves its pending mark; yield waits for the other contexts. -/
def Obligations.Presence : Prop :=
  Claims.ClearPresence ∧ Claims.Yield

/-- 04 R89: a well-formed nput posts a fill for its target and goes on; a reserved bit, FIN or LANE with an x target, a
context above 10, a register out of range and a core outside the launch raise NPUTRANGE with the descriptor. -/
def Claims.RegisterPut : Prop :=
  ∀ (s : State) (rs1 rs2 : BitVec 5), NoTx s → Present s rs1 → Present s rs2 →
    let d := xr s rs1
    let target := s.turn / 256 * 256 + d.toNat % 256
    let reg := d.toNat / 2 ^ 12 % 32
    let vreg := d.getLsbD 17
    let good := d.toNat / 2 ^ 22 = 0 ∧ (if vreg then reg ≤ 15 else 1 ≤ reg ∧ d.toNat / 2 ^ 18 % 16 = 0) ∧
      d.toNat / 2 ^ 8 % 16 ≤ 10 ∧ target ∈ launchCores s s.turn
    (good → Answers (.nput rs1 rs2) s fun t => t = { setMe s (me t) with
        msgs := s.msgs ++ [{ id := s.nextId, core := s.turn, ctx := s.cur, kind := .nput d (xr s rs2) }],
        nextId := s.nextId + 1 } ∧
      me t = { me s with st := .live, regs := { regs s with pc := (regs s).pc + 4 } }) ∧
    (¬ good → Traps (.nput rs1 rs2) s 0x102 d)

/-- 04 R91, 01 R16: where the rank has a further parcel, pnext counts the parcel that ends, empties rd and leaves the
request that PARCEL_END fills with the new parcel's number; where none remains rd receives all ones at issue; a helper
takes BADCTX. -/
def Claims.NextParcel : Prop :=
  ∀ (s : State) (rd : BitVec 5), NoTx s → Settled s rd →
    (s.cur ≠ 0 → Traps (.pnext rd) s 0x100 0) ∧
    (s.cur = 0 → (myCore s).launch = none → Gives (.pnext rd) s rd (BitVec.allOnes 64)) ∧
    ∀ (id : Nat) (l : Launch), s.cur = 0 → (myCore s).launch = some id → launchOf s id = some l →
      (l.parcels ≤ (myCore s).parcel + l.cores → Gives (.pnext rd) s rd (BitVec.allOnes 64)) ∧
      ((myCore s).parcel + l.cores < l.parcels →
        let p := (myCore s).parcel + l.cores
        let s' := modMyCore (modLaunch s id fun x => { x with done := x.done + 1 }) fun c => { c with parcel := p }
        Answers (.pnext rd) s fun t => Leaves s' t
          { request s' .compute (.x rd.toNat 8 false) [{ pa := 0, va := 0, n := 0, res := p, own := true }] with queued := true })

/-- 04 R92, 12 R258, R260: upret of context 0 with no upcall to deliver resumes at qupepc, in the wait that the upcall
interrupted, or after it where its event has come, and clears ACT; with one to deliver the PC goes to the handler and ACT
stays. The held helper that qupctx names goes on. Elsewhere, and with ACT = 0, it raises BADCTX. -/
def Claims.UpcallReturn : Prop :=
  ∀ s : State, NoTx s → (me s).st = .live →
    let c := myCore s
    (s.cur ≠ 0 ∨ c.qupcause.getLsbD 63 = false → Traps .upret s 0x100 0) ∧
    (s.cur = 0 → c.qupcause.getLsbD 63 = true → (c.upq = [] ∨ upcallsOn c = false) → Answers .upret s fun t =>
      ((me s).keptWait = none → me t = { me s with st := .live, regs := { regs s with pc := c.qupepc } }) ∧
      ((me s).keptWait = some .ended →
        me t = { me s with keptWait := none, st := .live, regs := { regs s with pc := c.qupepc + 4 } }) ∧
      (∀ w, (me s).keptWait = some w → w ≠ .ended →
        me t = { me s with keptWait := none, st := .waiting w, regs := { regs s with pc := c.qupepc } }) ∧
      (myCore t).qupcause = c.qupcause &&& 0x7FFFFFFFFFFFFFFF ∧ (myCore t).actSlot = none ∧ t.mem = s.mem) ∧
    (s.cur = 0 → c.qupcause.getLsbD 63 = true → ∀ a, (getCtx s s.turn (c.qupctx.toNat % 16)).st = .held a →
      Answers .upret s fun t => (getCtx t s.turn (c.qupctx.toNat % 16)).st = .live) ∧
    (∀ u us, s.cur = 0 → c.qupcause.getLsbD 63 = true → c.upq = u :: us → upcallsOn c = true → Answers .upret s fun t =>
      me t = { me s with st := .live, regs := { regs s with pc := c.qupv &&& ~~~3 } } ∧
      (myCore t).qupcause = BitVec.ofNat 64 (2 ^ 63 + u.code) ∧ (myCore t).qupval = u.value ∧
      (myCore t).qupctx = upctxWord u ∧ (myCore t).upq = us ∧ t.mem = s.mem)

/-- 04 R111 to R113: qtrap raises SWFAULT with the value of x[rs1]; qhalt in S or M mode halts the core, which then issues
no context until an enabled interrupt is pending, and inside an exchange phase raises XPHASE; in U mode it is illegal. -/
def Claims.SoftwareTrapAndHalt : Prop :=
  ∀ (s : State) (rs1 : BitVec 5) (code : BitVec 12),
    (NoTx s → Present s rs1 → Traps (.qtrap rs1 code) s 0x10F (xr s rs1)) ∧
    ((me s).mode = .u → ∀ w, encode .qhalt = some w → Traps .qhalt s 2 (w.setWidth 64)) ∧
    (NoTx s → (me s).mode ≠ .u → (myCore s).xch.isSome = true → Traps .qhalt s 0x10B 0) ∧
    (NoTx s → (me s).mode ≠ .u → (myCore s).xch = none → Answers .qhalt s fun t =>
      Advances (modMyCore s fun c => { c with halted := true }) t ∧
      ((myCore s).mip.getLsbD 9 = false ∨ (myCore s).mie.getLsbD 9 = false → nextCtx t s.turn = none))

/-- nput, pnext, upret, qtrap and qhalt act as their rules say. -/
def Obligations.ContextControl : Prop :=
  Claims.RegisterPut ∧ Claims.NextParcel ∧ Claims.UpcallReturn ∧ Claims.SoftwareTrapAndHalt

/-! ### barriers, domains and the exchange (chapter 04) -/

/-- 04 R97, R98, R102: bar.arr, bar.drop and bar.awt at a level where the core may arrive: rd is emptied, the level's
arrived flag (and for bar.drop the dropped flag) is set, and an arrival goes to the domain's unit; the context of bar.awt
waits with its PC at the instruction, the others go on. Memory, requests and every other context are as before. -/
def Claims.BarrierArrivals : Prop :=
  ∀ (s : State) (rd : BitVec 5) (l : Level), NoTx s → Settled s rd →
    let n := (myCore s).domLevel.toNat
    (myCore s).levels[n]? = some l → domBroken s l.dom = false → l.arrived = false → l.dropped = false →
    (∀ x, (myCore s).xch = some x → x.dom = l.dom → x.opening = true) →
    let sends := fun (t : State) (drop : Bool) (why : Option BarWhy) =>
      t.msgs = s.msgs ++ [{ id := s.nextId, core := s.turn, ctx := s.cur, kind := .arrive l.dom n drop rd.toNat why }] ∧
      (myCore t).levels = (myCore s).levels.mapIdx (fun i x => if i = n then { x with arrived := true, dropped := x.dropped || drop } else x) ∧
      t.mem = s.mem ∧ t.reqs = s.reqs ∧ ∀ k m, (k, m) ≠ (s.turn, s.cur) → getCtx t k m = getCtx s k m
    let after := { emptyX (regs s) rd.toNat with pc := (regs s).pc + 4 }
    (Answers (.barArr rd) s fun t => sends t false none ∧ me t = { me s with st := .live, regs := after }) ∧
    (Answers (.barDrop rd) s fun t => sends t true none ∧ me t = { me s with st := .live, regs := after }) ∧
    (Answers (.barAwt rd) s fun t => sends t false (some .awt) ∧
      me t = { me s with st := .waiting (.barrier l.dom n none rd.toNat .awt), regs := emptyX (regs s) rd.toNat })

/-- 04 R98, R103, R110: an arrival inside the core's own exchange phase raises XPHASE, at a broken counter BARBROKEN, with
the arrived flag set BARREPEAT and with the dropped flag set BARDROPPED; the last two report the phase in which it would
count. -/
def Claims.BarrierTraps : Prop :=
  ∀ (s : State) (rd : BitVec 5) (l : Level), NoTx s → Settled s rd →
    (myCore s).levels[(myCore s).domLevel.toNat]? = some l →
    let inside := ∃ x, (myCore s).xch = some x ∧ x.dom = l.dom ∧ x.opening = false
    let phase : Word := (l.last + 1).setWidth 64
    ∀ i ∈ [Instr.barArr rd, .barAwt rd, .barDrop rd],
      (inside → Traps i s 0x10B 0) ∧
      (¬ inside → domBroken s l.dom = true → Traps i s 0x107 0) ∧
      (¬ inside → domBroken s l.dom = false → l.arrived = true → Traps i s 0x104 phase) ∧
      (¬ inside → domBroken s l.dom = false → l.arrived = false → l.dropped = true → Traps i s 0x105 phase)

/-- 04 R100, R101: bar.init of rank 0 leaves a pending count, the domain size for 0; another rank or a larger count raises
BARCOUNT. bar.wait goes on at once when the phase has completed, by the core's last completed phase, and else waits for that
phase of that domain; at a broken counter it raises BARBROKEN. -/
def Claims.BarrierInitAndWait : Prop :=
  ∀ (s : State) (rs1 : BitVec 5) (l : Level), NoTx s → Present s rs1 →
    let n := (myCore s).domLevel.toNat
    (myCore s).levels[n]? = some l →
    let v := xn s rs1
    let p := v % 2 ^ 32
    let gone := (l.last.toNat + 1 + 2 ^ 32 - p) % 2 ^ 32
    (l.rank = 0 → v ≤ l.size → Answers (.barInit rs1) s fun t => Advances
      { s with doms := s.doms.map fun d => if d.id = l.dom then { d with pend := some (if v = 0 then l.size else v) } else d } t) ∧
    ((l.rank ≠ 0 ∨ l.size < v) → Traps (.barInit rs1) s 0x106 (xr s rs1)) ∧
    (1 ≤ gone → gone ≤ 2 ^ 31 - 1 → Answers (.barWait rs1) s fun t => Advances s t) ∧
    ((gone = 0 ∨ 2 ^ 31 ≤ gone) → domBroken s l.dom = false → exec (.barWait rs1) s = .next (await s (.phase l.dom p))) ∧
    ((gone = 0 ∨ 2 ^ 31 ≤ gone) → domBroken s l.dom = true → Traps (.barWait rs1) s 0x107 0)

/-- Barrier instructions arrive, wait, drop and initialise, and trap as their rules say. -/
def Obligations.BarrierInstructions : Prop :=
  Claims.BarrierArrivals ∧ Claims.BarrierTraps ∧ Claims.BarrierInitAndWait

/-- 04 R99: the unit counts an arrival in the current phase; when the expected ones have come the phase completes: PH
advances, A and the drops are 0, and E is the pending count of bar.init, else itself, less the drops, and every member is
told. The register of bar.arr and bar.drop receives the phase that it was counted in. (For an arrival that follows no access
and no fill still to be performed, 04 R102, and a domain with no exchange phase open.) -/
def Claims.BarrierCounting : Prop :=
  ∀ (s : State) (id dom lv rd : Nat) (drop : Bool) (m : Msg) (d : Dom),
    findMsg s id = some m → m.kind = .arrive dom lv drop rd none → m.ctx < 16 → rd < 32 →
    releaseBehind s m.core m.ctx m.id = false →
    domOf s dom = some d → d.broken = false → d.t0 = none → (∀ k ∈ d.counted ++ [m.core], xchOf s k dom = none) →
    (d.a ≠ d.e ∨ d.a = 0) →
    let drops := d.drops + if drop then 1 else 0
    Answers (.barrierArrival id) s fun t =>
      (rd ≠ 0 → readX (getCtx t m.core m.ctx).regs rd = BitVec.ofNat 64 d.ph.toNat) ∧ t.mem = s.mem ∧
      (d.a + 1 ≠ d.e → domOf t dom = some { d with a := d.a + 1, drops := drops, counted := d.counted ++ [m.core] }) ∧
      (d.a + 1 = d.e →
        domOf t dom = some { d with e := d.pend.getD d.e - drops, ph := d.ph + 1, a := 0, drops := 0, pend := none,
                                    counted := [], slot := 0, t0 := none } ∧
        ∀ k ∈ d.members, ∃ o ∈ t.msgs, o.kind = .completion dom d.ph.toNat k false d.pend.isSome)

/-- 04 R98, R101, R106, R110: at a member core a completed phase is the level's last one and clears its arrived flag; a
context that waits for it with bar.awt receives the phase in rd and goes on, and one that waits with bar.wait for it or an
earlier one goes on; an exchange phase that waited for it opens with qrxcnt 0, or closes. -/
def Claims.BarrierCompletes : Prop :=
  ∀ (s : State) (id dom phase k : Nat) (reinit : Bool) (m : Msg),
    findMsg s id = some m → m.kind = .completion dom phase k false reinit →
    (∃ l ∈ (getCore s k).levels, l.dom = dom) → arrivedAhead (dropMsg s id) k dom phase = false →
    Answers (.barrierCompletion id) s fun t =>
      (getCore t k).levels = (getCore s k).levels.map (fun l => if l.dom = dom then
        { l with last := BitVec.ofNat 32 phase, arrived := false, dropped := l.dropped && !reinit } else l) ∧
      t.mem = s.mem ∧
      (∀ x, (getCore s k).xch = some x → x.dom = dom → x.opening = true →
        (getCore t k).xch = some { x with opening := false } ∧ (getCore t k).qrxcnt = 0) ∧
      (∀ x, (getCore s k).xch = some x → x.dom = dom → x.opening = false → x.closing = true → (getCore t k).xch = none) ∧
      (∀ n lv rd, n < 11 → (getCtx s k n).st = .waiting (.barrier dom lv (some phase) rd .awt) → (getCtx s k n).keptWait = none →
        getCtx t k n = { getCtx s k n with st := .live, regs :=
          { replyX (getCtx s k n).regs rd (BitVec.ofNat 64 phase) with pc := (getCtx s k n).regs.pc + 4 } }) ∧
      ∀ n p, n < 11 → (getCtx s k n).st = .waiting (.phase dom p) → (getCtx s k n).keptWait = none →
        let gone := (phase % 2 ^ 32 + 1 + 2 ^ 32 - p % 2 ^ 32) % 2 ^ 32
        1 ≤ gone → gone ≤ 2 ^ 31 - 1 →
        getCtx t k n = { getCtx s k n with st := .live, regs := { (getCtx s k n).regs with pc := (getCtx s k n).regs.pc + 4 } }

/-- A domain's barrier counts arrivals, completes when all have arrived and releases its waiters. -/
def Obligations.BarrierRounds : Prop :=
  Claims.BarrierCounting ∧ Claims.BarrierCompletes

/-- 04 R104, R105: the checks and the issue of dom.set, and dom.get, which writes size and rank of a level to rd. -/
def Claims.Domains : Prop :=
  ∀ (s : State) (rd rs1 rs2 : BitVec 5), NoTx s → Present s rs1 → Settled s rd →
    let c := myCore s
    let colour := xn s rs1
    let pop := xr s rs1 = BitVec.allOnes 64
    let fits := if pop then c.domDepth ≠ 0 else c.domDepth ≠ 3
    (Present s rs2 →
      (¬ pop → 4095 < colour → Traps (.domSet rd rs1 rs2) s 0x108 (xr s rs1)) ∧
      ((pop ∨ colour ≤ 4095) → ¬ fits → Traps (.domSet rd rs1 rs2) s 0x109 (xr s rs1)) ∧
      ((pop ∨ colour ≤ 4095) → fits → c.domset.isSome = true → Traps (.domSet rd rs1 rs2) s 0x10A 0) ∧
      ((pop ∨ colour ≤ 4095) → fits → c.domset = none → c.xch.isSome = true → Traps (.domSet rd rs1 rs2) s 0x10B 0) ∧
      ((pop ∨ colour ≤ 4095) → fits → c.domset = none → c.xch = none → Answers (.domSet rd rs1 rs2) s fun t =>
        (myCore t).domset = some (s.cur, rd.toNat, (if pop then none else some colour), xn s rs2 % 2 ^ 32) ∧
        me t = { me s with st := .live, regs := { emptyX (regs s) rd.toNat with pc := (regs s).pc + 4 } } ∧ t.mem = s.mem)) ∧
    (c.domDepth.toNat < colour → Traps (.domGet rd rs1) s 0x108 (xr s rs1)) ∧
    ∀ l, c.levels[colour]? = some l → colour ≤ c.domDepth.toNat → l.size < 2 ^ 32 → l.rank < 2 ^ 32 →
      Gives (.domGet rd rs1) s rd (BitVec.ofNat 64 (l.size * 2 ^ 32 + l.rank))

/-- 04 R104: a collective dom.set completes once every member of the deepest domain has issued it. On a push the members of
one colour form a domain, ranked by key and then by parent rank; every member goes one level deeper and receives its rank.
On a pop every member leaves its deepest level. Before that nothing changes. -/
def Claims.DomainChange : Prop :=
  ∀ (s : State) (d : Dom), domOf s d.id = some d → d.members.Nodup → d.members ≠ [] →
    (∀ k ∈ d.members, ∀ m rd col key, (getCore s k).domset = some (m, rd, col, key) → m < 11 ∧ 0 < rd ∧ rd < 32) →
    let xs := settersOf s d
    (xs.length ≠ d.members.length → exec (.domSetCompletion d.id) s = .next s) ∧
    (xs.length = d.members.length → (∀ x ∈ xs, x.colour ≠ none) →
      countersFor s ((sortBy (fun a b => decide (a ≤ b)) (xs.filterMap (·.colour)).eraseDups).map fun c => (groupOf xs c).map (·.core)) = true →
      Answers (.domSetCompletion d.id) s fun t => ∀ x ∈ xs, ∀ col i, x.colour = some col → (groupOf xs col)[i]? = some x →
        ∃ id, s.nextId ≤ id ∧
          (getCore t x.core).levels = (getCore s x.core).levels ++ [{ dom := id, rank := i, size := (groupOf xs col).length }] ∧
          (getCore t x.core).domDepth = (getCore s x.core).domDepth + 1 ∧
          (getCore t x.core).domLevel = (getCore s x.core).domDepth + 1 ∧ (getCore t x.core).domset = none ∧
          readX (getCtx t x.core x.ctx).regs x.rd = BitVec.ofNat 64 i) ∧
    (xs.length = d.members.length → (∀ x ∈ xs, x.colour = none) →
      Answers (.domSetCompletion d.id) s fun t => domOf t d.id = none ∧ ∀ x ∈ xs,
        (getCore t x.core).levels = (getCore s x.core).levels.dropLast ∧
        (getCore t x.core).domDepth = (getCore s x.core).domDepth - 1 ∧
        (getCore t x.core).domLevel = (getCore s x.core).domDepth - 1 ∧ (getCore t x.core).domset = none)

/-- dom.get reads a level, dom.set joins a split that completes for all members at once. -/
def Obligations.DomainInstructions : Prop :=
  Claims.Domains ∧ Claims.DomainChange

/-- 04 R106, R107, R109, R110: the exchange instructions. xch.beg checks its area, arrives and waits; xsend queues v[vs]
for a member that the slot table names; xrecv waits for a count and reads it; xch.end arrives once the send buffer is
empty. Outside an open phase the last three raise XPHASE. -/
def Claims.ExchangePhase : Prop :=
  ∀ (s : State) (rd rs1 : BitVec 5) (vs : BitVec 4), NoTx s → Present s rs1 →
    let c := myCore s
    let w := (xr s rs1).toNat
    let badArea := 2 ^ 32 ≤ w ∨ w / 2 ^ 18 = 0 ∨ 4096 < w / 2 ^ 18 ∨ w % 64 ≠ 0 ∨ c.spmBytes < w % 2 ^ 18 + 64 * (w / 2 ^ 18)
    (badArea → Traps (.xchBeg rs1) s 0x10C (xr s rs1)) ∧
    (¬ badArea → c.xch.isSome = true → Traps (.xchBeg rs1) s 0x10B 0) ∧
    (∀ l, ¬ badArea → c.xch = none → c.levels[c.domLevel.toNat]? = some l → domBroken s l.dom = false →
      l.arrived = false → l.dropped = false → Answers (.xchBeg rs1) s fun t =>
        let why := BarWhy.xchBeg (w % 2 ^ 18) (w / 2 ^ 18)
        (myCore t).xch = some { dom := l.dom, level := c.domLevel.toNat, off := w % 2 ^ 18, cap := w / 2 ^ 18 } ∧
        me t = { me s with st := .waiting (.barrier l.dom c.domLevel.toNat none 0 why) } ∧
        (∃ o ∈ t.msgs, o.kind = .arrive l.dom c.domLevel.toNat false 0 (some why)) ∧ t.mem = s.mem) ∧
    ((∀ x, c.xch = some x → x.opening = true) →
      (PresentV s vs → Traps (.xsend rs1 vs) s 0x10B 0) ∧ (Settled s rd → Traps (.xrecv rd rs1) s 0x10B 0) ∧ Traps .xchEnd s 0x10B 0) ∧
    ∀ x, c.xch = some x → x.opening = false →
      (PresentV s vs → (memberRank s c x.dom w = false ∨ slotAllows s c w = false) → Traps (.xsend rs1 vs) s 0x10D (xr s rs1)) ∧
      (PresentV s vs → memberRank s c x.dom w = true → slotAllows s c w = true → x.buffer.length < 64 →
        Answers (.xsend rs1 vs) s fun t => Advances (modMyCore s fun c => { c with
          xch := some { x with buffer := x.buffer ++ [(w, readV (regs s) vs.toNat)] } }) t) ∧
      (Settled s rd → x.cap < w % 2 ^ 32 → Traps (.xrecv rd rs1) s 0x10C (xr s rs1)) ∧
      (Settled s rd → w % 2 ^ 32 ≤ x.cap → w % 2 ^ 32 ≤ c.qrxcnt.toNat → Gives (.xrecv rd rs1) s rd (c.qrxcnt.setWidth 64)) ∧
      (Settled s rd → w % 2 ^ 32 ≤ x.cap → c.qrxcnt.toNat < w % 2 ^ 32 →
        exec (.xrecv rd rs1) s = .next (await s (.received (w % 2 ^ 32) rd.toNat))) ∧
      (PresentV s vs → memberRank s c x.dom w = true → slotAllows s c w = true → 64 ≤ x.buffer.length →
        exec (.xsend rs1 vs) s = .next (park s [.sendRoom])) ∧
      ∀ l, c.levels[x.level]? = some l → domBroken s l.dom = false → l.arrived = false → l.dropped = false → x.buffer = [] →
        Answers .xchEnd s fun t => (myCore t).xch = some { x with closing := true } ∧
          me t = { me s with st := .waiting (.barrier l.dom x.level none 0 .xchEnd) } ∧
          (∃ o ∈ t.msgs, o.kind = .arrive l.dom x.level false 0 (some .xchEnd)) ∧ t.mem = s.mem

/-- 04 R107, R108, R106, 11 R250: a slot comes at its time, once the phase has begun on every member and the entries of the
slot before it have landed; in it the head of every member's send buffer that the slot's table entry names leaves for its
destination. An entry lands at OFF + 64 * COUNT of the receive area and COUNT goes up; one that finds the area full is
discarded with XRXOVF and leaves the count. -/
def Claims.ExchangeMoves : Prop :=
  (∀ (s : State) (d : Dom) (t0 : Nat), domOf s d.id = some d → d.t0 = some t0 →
    let early := s.cycle < t0 + d.slot * slotLength d.members ∨ stillOpening s d = true ∨ entriesOpen s d.id = true
    (early → exec (.exchangeSlot d.id) s = .next s) ∧
    (¬ early → d.members.Nodup → Answers (.exchangeSlot d.id) s fun t =>
      domOf t d.id = some { d with slot := d.slot + 1 } ∧ t.mem = s.mem ∧
      ∀ k ∈ d.members, ∀ x, (getCore s k).xch = some x → x.opening = false → x.dom = d.id →
        (∀ dst dest v rest, x.buffer = (dst, v) :: rest → slotEntry s d.launch d.slot (getCore s k).rank dst = true →
          coreOfRank s (getCore s k) dst = some dest → (getCore t k).xch = some { x with buffer := rest } ∧
          ∃ o ∈ t.msgs, o.core = k ∧ o.kind = .entry d.id (getCore s k).rank dest v) ∧
        ((∀ dst v rest, x.buffer = (dst, v) :: rest → slotEntry s d.launch d.slot (getCore s k).rank dst = false) →
          (getCore t k).xch = some x))) ∧
  ∀ (s : State) (id dom src dst : Nat) (v : VWord) (m : Msg) (x : Exchange),
    findMsg s id = some m → m.kind = .entry dom src dst v → (∀ o ∈ s.msgs, o.id < id → ∀ d a b, o.kind ≠ .entry d a dst b) →
    (getCore s dst).xch = some x → x.dom = dom →
    ((∀ d, domOf s dom = some d → d.a ≠ d.e) ∨ ∀ e ∈ s.cores, e.2.gq = []) →
    let c := getCore s dst
    (c.qrxcnt.toNat < x.cap →
      (∀ i < 64, remapAt c (x.off + 64 * c.qrxcnt.toNat + i) = none) →
      Answers (.entryLanding id) s fun t => (getCore t dst).qrxcnt = c.qrxcnt + 1 ∧
        ∀ o, remapAt c o = none → spmByte (getCore t dst) o =
          (if x.off + 64 * c.qrxcnt.toNat ≤ o ∧ o < x.off + 64 * c.qrxcnt.toNat + 64
           then BitVec.ofNat 8 (v.toNat / 2 ^ (8 * (o - (x.off + 64 * c.qrxcnt.toNat)))) else spmByte c o)) ∧
    (x.cap ≤ c.qrxcnt.toNat → Answers (.entryLanding id) s fun t => (getCore t dst).qrxcnt = c.qrxcnt ∧ (getCore t dst).spm = c.spm ∧
      ((getCtx s dst 0).st ≠ .free → (getCtx s dst 0).tx = none →
        (getCtx t dst 0).deferred = (getCtx s dst 0).deferred ++ [⟨0x10E, BitVec.ofNat 64 src⟩]))

/-- An exchange phase opens for the domain and moves entries to their receivers in order. -/
def Obligations.Exchange : Prop :=
  Claims.ExchangePhase ∧ Claims.ExchangeMoves

/-! ### scalar memory accesses -/

/-- 00 R7, 02 R24, 03 R54: a load of n bytes at x[rs1] + imm that stays in one 64-byte line leaves the load of those bytes
into rd; one that crosses a line traps as misaligned at its address. -/
def Claims.Loads : Prop :=
  ∀ (s : State) (rd rs1 : BitVec 5) (imm : BitVec 12), Present s rs1 →
    let va := xr s rs1 + imm.signExtend 64
    let reads := fun (i : Instr) (n : Nat) (dst : Dst) =>
      (64 < va.toNat % 64 + n → Traps i s 4 va) ∧
      (va.toNat % 64 + n ≤ 64 → Accesses i s .load [(0, va, n, 0)] .load dst)
    (Settled s rd →
      reads (.lb rd rs1 imm) 1 (.x rd.toNat 1 true) ∧ reads (.lh rd rs1 imm) 2 (.x rd.toNat 2 true) ∧
      reads (.lw rd rs1 imm) 4 (.x rd.toNat 4 true) ∧ reads (.ld rd rs1 imm) 8 (.x rd.toNat 8 true) ∧
      reads (.lbu rd rs1 imm) 1 (.x rd.toNat 1 false) ∧ reads (.lhu rd rs1 imm) 2 (.x rd.toNat 2 false) ∧
      reads (.lwu rd rs1 imm) 4 (.x rd.toNat 4 false)) ∧
    (FreeF s rd → reads (.flw rd rs1 imm) 4 (.f rd.toNat))

/-- 00 R7, 03 R54: a store leaves the store of the low bytes of its source register at x[rs1] + imm; one that crosses a
line traps as misaligned at its address. -/
def Claims.Stores : Prop :=
  ∀ (s : State) (rs1 rs2 : BitVec 5) (imm : BitVec 12), Present s rs1 →
    let va := xr s rs1 + imm.signExtend 64
    let writes := fun (i : Instr) (n v : Nat) =>
      (64 < va.toNat % 64 + n → Traps i s 6 va) ∧
      (va.toNat % 64 + n ≤ 64 → Accesses i s .store [(0, va, n, 0)] .store .none fun p => { p with data := v % 2 ^ (8 * n) })
    (Present s rs2 →
      writes (.sb rs2 rs1 imm) 1 (xn s rs2) ∧ writes (.sh rs2 rs1 imm) 2 (xn s rs2) ∧
      writes (.sw rs2 rs1 imm) 4 (xn s rs2) ∧ writes (.sd rs2 rs1 imm) 8 (xn s rs2)) ∧
    (FreeF s rs2 → writes (.fsw rs2 rs1 imm) 4 (readF (regs s) rs2.toNat).toNat)

/-- Loads and stores of every width make the access of their address and width. -/
def Obligations.LoadsAndStores : Prop :=
  Claims.Loads ∧ Claims.Stores

/-- 14 R290, 05 R121, R141, 14 R302: what the checks at issue make of one access. A failed translation is its fault, and a
walk that waits parks the context until it can go on, and the instruction has not issued (02 R20); an address of the own scratchpad or of memory is the part to perform; an
atomic on device registers is a store access fault, in a transaction too. In a transaction a host window or device register
aborts with IOSPACE and memory of another package with XPKG, at the tile's address, and one that the gateway turns away is
logged and aborts with FAULT (their order: log entry 39). -/
def Claims.AccessChecks : Prop :=
  ∀ (s : State) (va : Word) (n : Nat) (acc : Acc),
    let reached := reach s [(0, va, n, 0)] acc
    (∀ code u, translate s va acc = (.fault code, u) → reached = (.out (.next (takeFault u code va)), u)) ∧
    (∀ u, translate s va acc = (.wait, u) → reached = (.out (.next (park u [.walk va acc.code])), u)) ∧
    (∀ off u, translate s va acc = (.spm off, u) →
      reached = (.parts [{ pa := off, va := va.toNat, n := n, own := true }], u)) ∧
    ∀ pa u, translate s va acc = (.phys pa, u) →
      let tile : Word := BitVec.ofNat 64 (va.toNat / 512 * 512)
      let p : Part := { pa := pa, va := va.toNat, n := n }
      let outside := isHost pa = true ∨ isDevice pa = true
      let banned := acc = .atomic ∧ isDevice pa = true
      (banned → reached = (.out (.next (takeFault u 7 va)), u)) ∧
      (¬ banned → NoTx u → reached = (.parts [p], u)) ∧
      (¬ banned → ¬ NoTx u → outside → reached = (.out (.next (abortMe u 12 0 tile)), u)) ∧
      (¬ NoTx u → ¬ outside → isMain pa = true → paPkg pa ≠ pkgOf u.turn →
        reached = (.out (.next (abortMe u 4 0 tile)), u)) ∧
      (¬ NoTx u → ¬ outside → (isMain pa = false ∨ paPkg pa = pkgOf u.turn) →
        (accessError u u.turn (me u).mode pa n acc.writes false = none → reached = (.parts [p], u)) ∧
        ∀ reason, accessError u u.turn (me u).mode pa n acc.writes false = some reason →
          reached = (.out (.next (abortRefused u acc reason p)), u))

/-- 02 R24, 05 R119, R121, 13 R276: an issued access of memory that misses the L1 only joins the outstanding requests: its
destination is empty and pending until a reply, and no byte of a scratchpad, no message and no register of another context
differs, nor a byte of memory, unless a speculative line leaves the L1, for which a way of the L2 may be cleared (14 R285); a load, store or atomic of the own package's memory allocates a line of the L1. An access of the own
scratchpad that nothing before it and no engine command holds up is performed at once: the load's request holds the bytes, the
store has written them and no other byte. -/
def Claims.IssuedRequests : Prop :=
  ∀ (s : State) (kind : ReqKind) (dst : Dst) (p : Part) (acq rel : Option Nat), s.idsBelow →
    let t := retire (issueReq s kind dst [p] acq rel false)
    (p.own = false → isHost p.pa = false → l1Find (myCore s) (lineOf p.pa) = none →
      t.reqs = s.reqs ++ [request s kind dst [p] acq rel] ∧ t.nextId = s.nextId + 1 ∧
      regs t = { emptyDst (regs s) dst with pc := (regs s).pc + 4 } ∧ t.msgs = s.msgs ∧
      ((∀ l ∈ (myCore s).l1, l.spec = []) → t.mem = s.mem) ∧
      (∀ k, (getCore t k).spm = (getCore s k).spm) ∧
      (∀ k n, (k, n) ≠ (s.turn, s.cur) → (getCtx t k n).regs = (getCtx s k n).regs) ∧
      (isMain p.pa = true → paPkg p.pa = pkgOf s.turn → pageMoving s p.pa = false →
        (kind = .load ∨ kind = .store ∨ ∃ op, kind = .atomic op) → ∃ l ∈ (myCore t).l1, l.line = lineOf p.pa)) ∧
    (p.own = true → p.done = false → p.far = false → (∀ r ∈ s.reqs, r.core = s.turn → r.ctx ≠ s.cur) →
      (∀ i ∈ (me s).after, undone s i = false) → lockRequests (me s) = [] → nputOpen s s.turn s.cur = false →
      spmWaits (myCore s) s.nextId p.pa p.n (isWriteKind kind) = false →
      regs t = { emptyDst (regs s) dst with pc := (regs s).pc + 4 } ∧ t.mem = s.mem ∧
      (kind = .load → dst ≠ .none → (myCore t).spm = (myCore s).spm ∧
        t.reqs = s.reqs ++ [{ request s kind dst [{ p with done := true, res := leNat (spmRead (myCore s) p.pa p.n) }] acq rel with
          bound := [(s.turn, selectors (myCore s))] }]) ∧
      (kind = .store → dst = .none → t.reqs = s.reqs ∧ (myCore t).spm = (spmWrite (myCore s) false p.pa (leBytes p.n p.data)).spm))

/-- 05 R149: the own scratchpad reads the bytes last written to it, and a write leaves every other byte (for a range that
lies in no remap entry). -/
def Claims.ScratchpadBytes : Prop :=
  ∀ (c : Machine.Core) (off : Nat) (bs : List Byte), (∀ i, i < bs.length → remapAt c (off + i) = none) →
    let c' := spmWrite c false off bs
    spmRead c' off bs.length = bs ∧
    ∀ o, remapAt c o = none → (o < off ∨ off + bs.length ≤ o) → spmByte c' o = spmByte c o

/-- An issued access joins the outstanding requests; the own scratchpad is served at once. -/
def Obligations.IssuedAccesses : Prop :=
  Claims.IssuedRequests ∧ Claims.ScratchpadBytes

/-! ### atomics, reductions, fences and waits (chapter 05) -/

/-- 05 R120, R122, 03 R57: an atomic at a naturally aligned x[rs1] leaves the atomic of its operation on 4 or 8 bytes with
the low bytes of x[rs2] (and, for am.cas, of x[rd] to compare with), whose old value is due to rd, with the acquire and the
release that its ordering group and scope class name, outside a transaction; am.cas.q works on pairs of registers, and with rd =
x0 its reply is discarded while x0 and x1 are its compare value (log entry 61). One that
is not aligned raises MISALIGNED_ATOMIC with the address. -/
def Claims.Atomics : Prop :=
  ∀ (s : State) (rd rs1 rs2 : BitVec 5) (ord : BitVec 3) (w : BitVec 1) (sc : BitVec 2),
    Present s rs1 → Present s rs2 → Settled s rd →
    let va := xr s rs1
    let n := if w = 0 then 4 else 8
    let scope := match sc.toNat with | 0 => 1 | 1 => 4 | 2 => 6 | _ => 10
    let acq := if (ord = 1 ∨ ord = 5) ∧ inTx s = false then some scope else none
    let rel := if (ord = 2 ∨ ord = 5) ∧ inTx s = false then some scope else none
    let does := fun (i : Instr) (m op : Nat) (dst : Dst) (data cmp : Nat) =>
      (va.toNat % m ≠ 0 → Traps i s 0x110 va) ∧
      (va.toNat % m = 0 → Accesses i s .atomic [(0, va, m, 0)] (.atomic op) dst (fun p => { p with data := data, cmp := cmp }) acq rel)
    let one := fun (i : Instr) (op : Nat) => does i n op (.x rd.toNat n true) (xn s rs2 % 2 ^ (8 * n)) 0
    one (.amAdd rd rs1 rs2 ord w sc) 0 ∧ one (.amAnd rd rs1 rs2 ord w sc) 1 ∧ one (.amOr rd rs1 rs2 ord w sc) 2 ∧
    one (.amXor rd rs1 rs2 ord w sc) 3 ∧ one (.amMin rd rs1 rs2 ord w sc) 4 ∧ one (.amMax rd rs1 rs2 ord w sc) 5 ∧
    one (.amMinn rd rs1 rs2 ord w sc) 6 ∧ one (.amMaxn rd rs1 rs2 ord w sc) 7 ∧ one (.amSwp rd rs1 rs2 ord w sc) 8 ∧
    one (.amFadd rd rs1 rs2 ord w sc) 10 ∧
    (Present s rd → does (.amCas rd rs1 rs2 ord w sc) n 9 (.x rd.toNat n true) (xn s rs2 % 2 ^ (8 * n)) (xn s rd % 2 ^ (8 * n))) ∧
    (Present s rd → Present s (rd + 1) → Settled s (rd + 1) → Present s (rs2 + 1) →
      does (.amCasQ rd rs1 rs2 ord sc) 16 11 (if rd = 0 then .none else .pair rd.toNat)
        (xn s rs2 + 2 ^ 64 * xn s (rs2 + 1)) (xn s rd + 2 ^ 64 * xn s (rd + 1)))

/-- 05 R120, R123: what each atomic and integer reduction stores for the value read a and the operand b, at 4 or 8 bytes; am.cas stores
its operand where the value read equals the compare value; the wrapping, bitwise, signed and unsigned forms; am.fadd and red.fadd
the sum in FP32 or FP64, rounded once to nearest even, with the canonical NaN for a NaN operand and for infinities of unlike sign. -/
def Claims.AtomicResults : Prop :=
  ∀ (n a b c : Nat), (n = 4 ∨ n = 8) → a < 2 ^ (8 * n) → b < 2 ^ (8 * n) → c < 2 ^ (8 * n) →
    let signed := fun (x : Nat) => if x < 2 ^ (8 * n - 1) then (x : Int) else (x : Int) - 2 ^ (8 * n)
    atomicOp 0 n a b c = (a + b) % 2 ^ (8 * n) ∧ atomicOp 1 n a b c = a &&& b ∧ atomicOp 2 n a b c = a ||| b ∧
    atomicOp 3 n a b c = a ^^^ b ∧ atomicOp 4 n a b c = (if signed a ≤ signed b then a else b) ∧
    atomicOp 5 n a b c = (if signed a ≤ signed b then b else a) ∧ atomicOp 6 n a b c = min a b ∧
    atomicOp 7 n a b c = max a b ∧ atomicOp 8 n a b c = b ∧ atomicOp 9 n a b c = (if a = c then b else a) ∧
    (∀ x y z : Nat, atomicOp 11 16 x y z = if x = z then y else x) ∧
    let f := if n = 4 then fp32 else fp64
    let va := decodeF f a
    let vb := decodeF f b
    let sum := (fAdd f 0 0 va vb).1
    let nan := if n = 4 then 0x7FC00000 else 0x7FF8000000000000
    atomicOp 10 n a b c = sum ∧ (va.isNaN = true ∨ vb.isNaN = true → sum = nan) ∧
    (∀ neg, va = .inf neg → vb = .inf (!neg) → sum = nan) ∧
    (∀ tag, (if tag % 2 = 0 then 4 else 8) = n →
      (tag / 2 = 3 → combine tag a b = sum) ∧
      (tag / 2 = 0 → combine tag a b = (a + b) % 2 ^ (8 * n)) ∧
      (tag / 2 = 1 → combine tag a b = if signed a ≤ signed b then a else b) ∧
      (tag / 2 = 2 → combine tag a b = if signed a ≤ signed b then b else a))

/-- Atomic instructions make one read-modify-write whose new value is the operation's. -/
def Obligations.AtomicInstructions : Prop :=
  Claims.Atomics ∧ Claims.AtomicResults

/-- 05 R123, R125, R127, R129: a reduction, a signal and the ticket instructions at an aligned x[rs1] leave their request: a
reduction and a signal fill no register, tk.get is due the 32-bit ticket, gsig and tk.adv are releases at system scope. In a
transaction a reduction of memory joins its reduction log and tile set where no committing transaction holds the tile, and
aborts it with CAPACITY when the core's log of 512 is full; where the core's table has room for the tile no byte of memory
differs. -/
def Claims.ReductionsAndSignals : Prop :=
  ∀ (s : State) (rd rs1 rs2 : BitVec 5) (w : BitVec 1), Present s rs1 →
    let va := xr s rs1
    let n := if w = 0 then 4 else 8
    let does := fun (i : Instr) (m : Nat) (kind : ReqKind) (dst : Dst) (fill : Part → Part) (rel : Option Nat) =>
      (va.toNat % m ≠ 0 → Traps i s 0x110 va) ∧
      (va.toNat % m = 0 → Accesses i s .amo [(0, va, m, 0)] kind dst fill none rel)
    let reduces := fun (i : Instr) (op : Nat) =>
      let tag := op * 2 + w.toNat
      (NoTx s → does i n (.reduce tag) .none (fun p => { p with data := xn s rs2 % 2 ^ (8 * n) }) none) ∧
      ∀ tx p u, ¬ NoTx s → va.toNat % n = 0 → reach s [(0, va, n, 0)] .amo = (.parts [p], u) → Room u [p] →
        p.own = false → isMain p.pa = true → (me u).tx = some tx → pageAt u p.pa = none →
        (512 ≤ logUsed (myCore u) → exec i s = .next (abortMe u 2 0 (BitVec.ofNat 64 (p.va / 512 * 512)))) ∧
        (logUsed (myCore u) < 512 → judge u u.turn u.cur true .reduce p.pa ≠ .hold → tileFits u u.turn u.cur (tileOf p.pa) = true → (dirOf u (lineOf p.pa)).lock = false →
          Answers i s fun t => t.reqs = u.reqs ∧ (regs t).pc = (regs u).pc + 4 ∧
            (tileOver u u.turn u.cur (tileOf p.pa) = false →
              ∃ tx', (me t).tx = some tx' ∧ tx'.redLog = tx.redLog ++ [(p.pa, tag, xr s rs2)] ∧
                tileOf p.pa ∈ tx'.redSet ∧ tx'.spec = tx.spec ∧ t.mem = u.mem))
    (Present s rs2 → reduces (.redAdd rs1 rs2 w) 0 ∧ reduces (.redMin rs1 rs2 w) 1 ∧ reduces (.redMax rs1 rs2 w) 2 ∧
      reduces (.redFadd rs1 rs2 w) 3) ∧
    (NoTx s → Present s rs2 → does (.gsig rs1 rs2) 8 .signal .none (fun p => { p with data := xn s rs2 }) (some 10)) ∧
    (NoTx s → Settled s rd → does (.tkGet rd rs1) 8 .ticketGet (.x rd.toNat 8 false) id none) ∧
    (NoTx s → does (.tkAdv rs1) 8 .ticketAdv .none id (some 10))

/-- 05 R126: a fence lets its context go on once the earlier accesses of the kinds it names are performed (loads, atomics
and tickets for acq; every access, and every nput of the context, for rel and full) at its scope, and until then it is not
ready. At context scope a plain store is performed when it is issued (the model's reading of the scopes, log entry 67), and the
context's later commands follow the stores that fnc.rel and fnc.full pass (16 R312, R317). A fence changes nothing else. -/
def Claims.ScopedFences : Prop :=
  ∀ (s : State) (scope : BitVec 5), NoTx s →
    let reads := fun (r : Req) => match r.kind with | .load | .atomic _ | .ticketGet => True | _ => False
    let quiet := fun (p : Req → Prop) => ∀ r ∈ s.reqs, r.core = s.turn → r.ctx = s.cur → r.orphan = false → p r → reqDone r = true
    let puts := ∃ m ∈ s.msgs, m.core = s.turn ∧ m.ctx = s.cur ∧ ∃ d v, m.kind = .nput d v
    let named := fun (r : Req) => r.kind ≠ .compute ∧ (scope = 0 → r.kind ≠ .store)
    (quiet reads → Answers (.fncAcq scope) s fun t => Advances s t) ∧
    (¬ quiet reads → Answers (.fncAcq scope) s fun t => ∃ cs, t = park s cs) ∧
    ∀ i ∈ [Instr.fncRel scope, .fncFull scope],
      let held := (me s).cmdAfter.filter (undone s) ++ pendingStores s s.turn s.cur
      (quiet named → ¬ puts → Answers i s fun t =>
        Advances (if scope = 0 then modMe s fun c => { c with cmdAfter := held } else s) t) ∧
      (¬ quiet named ∨ puts → Answers i s fun t => ∃ cs, t = park s cs)

/-- 05 R128, R129: gwait and tk.wait at an aligned address wait with their word, test and deadline, in cycles of the core (20 R396), the PC still at the
instruction; rd of gwait is written only when the wait ends. -/
def Claims.WaitsOnWords : Prop :=
  ∀ (s : State) (rd rs1 rs2 rs3 : BitVec 5), NoTx s → Present s rs1 → Present s rs2 →
    let va := xr s rs1
    let place := fun (p : Part) => if p.own then 2 ^ 60 + p.pa else p.pa
    let watch := fun (p : Part) (u : State) => ({ loc := place p, named := place p, va := xn s rs1, order := u.nextId } : Watch)
    (va.toNat % 8 ≠ 0 → Traps (.tkWait rs1 rs2) s 0x110 va ∧
      (Present s rs3 → Settled s rd → Traps (.gwait rd rs1 rs2 rs3) s 0x110 va)) ∧
    (∀ p u, va.toNat % 8 = 0 → reach s [(0, va, 8, 0)] .load = (.parts [p], u) → Room u [p] →
      Present s rs3 → Settled s rd → Answers (.gwait rd rs1 rs2 rs3) s fun t =>
        (me t).st = .waiting (.word (watch p u) (xn s rs2) (if xr s rs3 = 0 then 0 else ownCycle s s.turn + xn s rs3) rd.toNat) ∧
        regs t = regs u ∧ t.mem = u.mem ∧ t.reqs = u.reqs ∧ t.msgs = u.msgs) ∧
    ∀ p u, va.toNat % 8 = 0 → reach s [(0, va, 8, 0)] .amo = (.parts [p], u) → Room u [p] →
      Answers (.tkWait rs1 rs2) s fun t =>
        (me t).st = .waiting (.ticket (watch p u) (xn s rs2 % 2 ^ 32)) ∧
        regs t = regs u ∧ t.mem = u.mem ∧ t.reqs = u.reqs ∧ t.msgs = u.msgs

/-- 05 R128, R129, R145, 16 R314: WATCH_VALUE ends the waits on a word whose test it passes: gwait with 0 in rd when the word is
at least the value, tk.wait when it is at most 2^31 - 1 past the ticket; a wait whose context has an own access to the word,
an acquire or an engine command on it still to be performed is not tested. A gwait past its deadline ends with -1, or 0 when the
word passes the test now. (For a word of the own scratchpad; the watched value of other words is that of a load.) -/
def Claims.WaitEnds : Prop :=
  ∀ (s : State) (core ctx off value deadline rd : Nat) (w : Watch), ctx < 11 → 0 < rd → rd < 32 → w.loc = 2 ^ 60 + off →
    let c := getCtx s core ctx
    let v := leNat (spmRead (getCore s core) off 8)
    let ready := watchReady s core ctx w
    let tested := modWatch s core ctx false fun w => { w with taken := true }
    let gwaits := c.st = .waiting (.word w value deadline rd)
    c.keptWait = none →
    (gwaits →
      (0 < deadline → deadline ≤ ownCycle s core → Answers (.gwaitTimeout core ctx) s fun t =>
        getCtx t core ctx = { c with st := .live, regs :=
          { writeX c.regs rd (if ready = true ∧ value ≤ v then 0 else BitVec.allOnes 64) with pc := c.regs.pc + 4 } }) ∧
      (deadline = 0 ∨ ownCycle s core < deadline → exec (.gwaitTimeout core ctx) s = .next s)) ∧
    (waitersOn s (pkgOf core) w.loc = [(core, ctx)] → c.deferred = [] →
      (gwaits → ready = true → value ≤ v →
        Answers (.watchValue (pkgOf core) w.loc) s fun t => getCtx t core ctx =
          { c with st := .live, regs := { writeX c.regs rd 0 with pc := c.regs.pc + 4 } }) ∧
      (gwaits → ready = true → v < value → exec (.watchValue (pkgOf core) w.loc) s = .next tested) ∧
      (gwaits → ready = false → exec (.watchValue (pkgOf core) w.loc) s = .next s) ∧
      ∀ ticket, ticket < 2 ^ 32 → c.st = .waiting (.ticket w ticket) →
        let past := (v % 2 ^ 32 + 2 ^ 32 - ticket) % 2 ^ 32
        (ready = true → past < 2 ^ 31 → Answers (.watchValue (pkgOf core) w.loc) s fun t =>
          getCtx t core ctx = { c with st := .live, regs := { c.regs with pc := c.regs.pc + 4 } }) ∧
        (ready = true → 2 ^ 31 ≤ past → exec (.watchValue (pkgOf core) w.loc) s = .next tested) ∧
        (ready = false → exec (.watchValue (pkgOf core) w.loc) s = .next s))

/-- Reductions, signals, fences and waits on words issue and end as their rules say. -/
def Obligations.OrderingAndWaits : Prop :=
  Claims.ReductionsAndSignals ∧ Claims.ScopedFences ∧ Claims.WaitsOnWords ∧ Claims.WaitEnds

/-! ### gecko locks (05 R130 to R135, 17 R339 to R347) -/

/-- 05 R130, R132, R135: the lock instructions at issue. An address that is not 64-byte aligned raises MISALIGNED_ATOMIC,
one outside HBM and DDR-5 a store access fault; lk.acq and lk.try beyond the limits of a context, and lk.rel of a line that
it does not hold, raise LKSTATE with the address. The line is that of the frame which serves the page now (19 R371); while the
new walk of a page that has moved waits, the context parks. A request empties rd and goes to the home; with rd = x0 its context
waits for the completion. A fifth lock, held and requested together, waits for the requests to be decided (log entry 37). lk.rel
gives the line up, to the recorded successor or to the home, and goes on; an error response is a deferred trap and the lock stays
held (log entry 40); of a line of a lost home it does nothing (17 R348). -/
def Obligations.LockInstructions : Prop :=
  ∀ (s : State) (rd rs1 rs2 : BitVec 5), NoTx s → Present s rs1 → Present s rs2 → Settled s rd →
    let va := xr s rs1
    let all := [Instr.lkAcq rd rs1 rs2, .lkTry rd rs1, .lkRel rs1, .lkStat rd rs1]
    (va.toNat % 64 ≠ 0 → ∀ i ∈ all, Traps i s 0x110 va) ∧
    ∀ p u', va.toNat % 64 = 0 → reach s [(0, va, 64, 0)] .amo = (.parts [p], u') →
      (p.own = true ∨ isMain p.pa = false → ∀ i ∈ all, exec i s = .next (takeTrap u' 7 va)) ∧
      (∀ q, route u' true 2 p.pa = .serve q → lockName u' va p.pa = (some (lineOf q), u')) ∧
      (∀ u, p.own = false → isMain p.pa = true → lockName u' va p.pa = (none, u) →
        ∀ i ∈ all, exec i s = .next (park u [.walk va Acc.amo.code])) ∧
      ∀ line u, p.own = false → isMain p.pa = true → lockName u' va p.pa = (some line, u) → Room u [p] →
        let c := me u
        let full := 4 ≤ c.locks.length ∨ line ∈ c.locks ∨ ∃ w ∈ lockRequests c, w.line = line
        let room := c.locks.length + (lockRequests c).length < 4
        let asks := fun (i : Instr) (once : Bool) (deadline : Nat) =>
          let w : LockWait := { line := line, rd := rd.toNat, deadline := deadline, born := u.cycle, named := p.pa, pa := p.pa,
                                order := u.nextId, va := va.toNat }
          Answers i s fun t =>
            t.msgs = u.msgs ++ [{ id := u.nextId, core := u.turn, ctx := u.cur, kind := .lockReq line deadline once u.cycle }] ∧
            (me t).lockWait = (if once then c.lockWait else some w) ∧
            (me t).lockTries = (if once then c.lockTries ++ [w] else c.lockTries) ∧ (me t).locks = c.locks ∧
            t.mem = u.mem ∧ t.reqs = u.reqs ∧ t.locks = u.locks ∧
            (rd ≠ 0 → (me t).st = .live ∧ regs t = { emptyX c.regs rd.toNat with pc := c.regs.pc + 4 }) ∧
            (rd = 0 → (me t).st = .waiting (.lock line) ∧ regs t = c.regs)
        (full ∨ c.lockWait.isSome = true → exec (.lkAcq rd rs1 rs2) s = .next (takeTrap u 0x111 va)) ∧
        (full → exec (.lkTry rd rs1) s = .next (takeTrap u 0x111 va)) ∧
        (¬ full → ¬ room → exec (.lkTry rd rs1) s = .next (park u [.lockRoom])) ∧
        (¬ full → c.lockWait = none → room → (myCore u).ghosts.length < Config.ghostTable →
          let limit := if xr s rs2 = 0 then (myCore s).qlkto.toNat else xn s rs2
          asks (.lkAcq rd rs1 rs2) false (if limit = 0 then 0 else ownCycle u u.turn + limit)) ∧
        (¬ full → room → asks (.lkTry rd rs1) true 0) ∧
        (homeGone u (line * 64) = true → Answers (.lkRel rs1) s fun t => Advances u t) ∧
        (homeGone u (line * 64) = false → line ∉ c.locks → exec (.lkRel rs1) s = .next (takeTrap u 0x111 va)) ∧
        (homeGone u (line * 64) = false → line ∈ c.locks → accessError u u.turn c.mode (line * 64) 64 true false = none → Answers (.lkRel rs1) s fun t =>
          (me t).locks = c.locks.filter (· ≠ line) ∧ (regs t).pc = c.regs.pc + 4 ∧ t.mem = u.mem ∧
          (successorOf (myCore u) line u.cur = none →
            ∃ m ∈ t.msgs, m.core = u.turn ∧ m.ctx = u.cur ∧ m.kind = .lockRel line false) ∧
          ∀ k n, successorOf (myCore u) line u.cur = some (k, n) →
            ∃ m ∈ t.msgs, m.core = u.turn ∧ m.ctx = u.cur ∧ m.kind = .handoff line k n false) ∧
        (∀ reason, u.cur < 16 → homeGone u (line * 64) = false → line ∈ c.locks →
          accessError u u.turn c.mode (line * 64) 64 true false = some reason → Answers (.lkRel rs1) s fun t =>
            (me t).locks = c.locks ∧ (regs t).pc = c.regs.pc + 4 ∧ t.mem = u.mem ∧ t.msgs = u.msgs) ∧
        exec (.lkStat rd rs1) s = .next (retire (issueReq u .lockState (.x rd.toNat 8 false)
          [{ pa := p.pa, va := va.toNat, n := 8 }] none none false))

/-- 05 R130, R131, R134, 17 R341, R342, R347: a request that reaches the home of its line, where the home does
not hold it (a page in handover, a committing transaction, a full lock table, no way of the L2 for the line). With no entry the
lock is granted with status 0, of a poisoned free entry with PREVDIED and POISON; of a held one lk.try completes with BUSY and
lk.acq joins the end of the queue. A request that the home's checks turn away completes with ACCESSERR, or HOMELOST. One whose
timeout has expired completes with TIMEOUT and joins the queue as a ghost (17 R344). -/
def Claims.LockRequests : Prop :=
  ∀ (s : State) (id line deadline born rd : Nat) (once : Bool) (m : Msg) (w : LockWait),
    findMsg s id = some m → m.kind = .lockReq line deadline once born → m.ctx < 11 → 0 < rd → rd < 32 →
    lineOf w.pa = line → pageAt s w.pa = none → lockComing s m = false → requestHeld s line m.core = false →
    w.line = line → w.born = born → w.rd = rd →
    (once = true → (getCtx s m.core m.ctx).lockTries.find? (fun w => w.born == born) = some w) →
    (once = false → (getCtx s m.core m.ctx).lockWait = some w) →
    let reads := fun (t : State) => readX (getCtx t m.core m.ctx).regs rd
    let check := checkAs s m.core m.ctx (getCtx s m.core m.ctx).mode (line * 64) 64 .amo false
    let late := w.deadline ≠ 0 ∧ w.deadline < ownCycle s m.core
    let granted := fun (t : State) (poison : Bool) =>
      lockOf t line = some { line := line, held := true, hcore := m.core, hctx := m.ctx, queue := [], poison := poison } ∧
      (dirOf t line).lock = true ∧ (getCtx t m.core m.ctx).locks = (getCtx s m.core m.ctx).locks ++ [line]
    (∀ reason, check = some reason → Answers (.lockRequest id) s fun t =>
      reads t = BitVec.ofInt 64 (if reason = Reason.homelost then -5 else -8) ∧ t.locks = s.locks ∧ t.mem = s.mem ∧
      (getCtx t m.core m.ctx).locks = (getCtx s m.core m.ctx).locks) ∧
    (∀ l, check = none → late → once = false → (getCore s m.core).ghosts.length < Config.ghostTable → lockOf s line = some l →
      l.held = true → Answers (.lockRequest id) s fun t => reads t = BitVec.ofInt 64 (-1) ∧
        lockOf t line = some { l with queue := l.queue ++ [(m.core, m.ctx, born, deadline)] } ∧
        (getCore t m.core).ghosts = (getCore s m.core).ghosts ++ [{ line := line, ctx := m.ctx, born := born }]) ∧
    (¬ late →
    (check = none → lockOf s line = none → Answers (.lockRequest id) s fun t => granted t false ∧ reads t = 0) ∧
    (∀ l, check = none → lockOf s line = some l → l.held = false → Answers (.lockRequest id) s fun t => granted t true ∧ reads t = 1) ∧
    ∀ l, check = none → lockOf s line = some l → l.held = true → Answers (.lockRequest id) s fun t => t.mem = s.mem ∧
      (once = true → reads t = BitVec.ofInt 64 (-2) ∧ lockOf t line = some l ∧
        (getCtx t m.core m.ctx).locks = (getCtx s m.core m.ctx).locks) ∧
      (once = false → lockOf t line = some { l with
          queue := l.queue ++ [(m.core, m.ctx, born, deadline)], tail := (m.core, m.ctx, born, deadline) :: l.tail } ∧
        getCtx t m.core m.ctx = getCtx s m.core m.ctx))

/-- 05 R132, R134, 17 R342 to R347: a release that reaches the home or a handoff gives the lock to the first waiter, whose
rd receives 0, or PREVDIED after a poisoned release; without a waiter the lock is free, or free and poisoned. A successor
link is recorded at the L1 of the waiter before it. (For a release that nothing holds, on a line whose page does not move, and
a first waiter that is still in time.) -/
def Claims.LockReleases : Prop :=
  ∀ (s : State) (id line : Nat) (m : Msg) (l : Lock), findMsg s id = some m → lockOf s line = some l → l.held = true →
    (∀ poison, (m.kind = .lockRel line poison ∨ ∃ k n, m.kind = .handoff line k n poison) →
      l.hcore = m.core → l.hctx = m.ctx → pageAt s (line * 64) = none → lockComing s m = false → handOnWaits s m line = false →
      let i := match m.kind with | .lockRel _ _ => Instr.lockReleaseHome id | _ => .lockHandoff id
      (l.queue = [] → Answers i s fun t => t.mem = s.mem ∧ (dirOf t line).lock = poison ∧
        lockOf t line = if poison then some { line := line, held := false, poison := true } else none) ∧
      ∀ k n born deadline rest w, l.queue = (k, n, born, deadline) :: rest → n < 11 → (getCtx s k n).lockWait = some w →
        w.line = line → w.born = born → (w.deadline = 0 ∨ ownCycle s k ≤ w.deadline) → 0 < w.rd → w.rd < 32 → Answers i s fun t =>
          lockOf t line = some {
            line := line, held := true, hcore := k, hctx := n, queue := rest, tail := l.tail.filter fun q => rest.contains q,
            poison := poison } ∧
          (getCtx t k n).locks = (getCtx s k n).locks ++ [line] ∧ (getCtx t k n).lockWait = none ∧
          readX (getCtx t k n).regs w.rd = (if poison then 1 else 0)) ∧
    ∀ pk pn k n, m.kind = .succLink line pk pn k n → standsBehind l (pk, pn) (k, n) = true →
      Answers (.successorLink id) s fun t => t.mem = s.mem ∧ t.locks = s.locks ∧ successorOf (getCore t pk) line pn = some (k, n)

/-- 05 R134, 17 R342, R344 to R346: a waiter past its deadline completes with TIMEOUT and leaves a ghost, and TAIL goes back
to its predecessor where it was the last; of two contexts that each wait for the lock that the other holds, the one that asked
later completes with DEADLOCK once a waiter has waited 65,536 cycles; a parked grant of a saved context that is not restored in
time is handed on, to the home where no successor is known; timeouts count the cycles of the waiter's core (20 R396). (While the ghost table of the waiter's core is full nothing
happens: the model's choice, log entry 80.) -/
def Claims.LockWaitEnds : Prop :=
  (∀ (s : State) (core ctx : Nat) (w : LockWait), (getCtx s core ctx).lockWait = some w → ctx < 11 → 0 < w.rd → w.rd < 32 →
    (w.deadline = 0 ∨ ownCycle s core < w.deadline → exec (.lockTimeout core ctx) s = .next s) ∧
    (0 < w.deadline → w.deadline ≤ ownCycle s core → (getCore s core).ghosts.length < Config.ghostTable → Answers (.lockTimeout core ctx) s fun t =>
      (getCtx t core ctx).lockWait = none ∧ readX (getCtx t core ctx).regs w.rd = BitVec.ofInt 64 (-1) ∧
      (getCtx t core ctx).locks = (getCtx s core ctx).locks ∧ t.mem = s.mem ∧
      (∀ l d before, lockOf s w.line = some l → l.tail = (core, ctx, w.born, d) :: before →
        lockOf t w.line = some { l with tail := before }) ∧
      (getCore t core).ghosts = (getCore s core).ghosts ++ [{ line := w.line, ctx := ctx, born := w.born }])) ∧
  (∀ (s : State) (a b n m : Nat) (v w : LockWait) (lv lw : Lock),
    a ≠ b → n < 11 → m < 11 → (getCtx s a n).lockWait = some v → (getCtx s b m).lockWait = some w → v.line ≠ w.line →
    lockOf s v.line = some lv → lv.held = true → lv.hcore = b → lv.hctx = m →
    lockOf s w.line = some lw → lw.held = true → lw.hcore = a → lw.hctx = n →
    v.born < w.born → v.born + 65536 ≤ s.cycle → 2 ≤ s.locks.length → 0 < w.rd → w.rd < 32 →
    (getCore s b).ghosts.length < Config.ghostTable →
    Answers (.deadlockSearch a n) s fun t => (getCtx t b m).lockWait = none ∧
      readX (getCtx t b m).regs w.rd = BitVec.ofInt 64 (-4) ∧ getCtx t a n = getCtx s a n ∧
      t.locks.map (fun l => { l with tail := [] }) = s.locks.map (fun l => { l with tail := [] })) ∧
  ∀ (s : State) (core ctx : Nat),
    let late := (getCore s core).parkedGrants.find? fun g =>
      (g.ctx == ctx || (decide (ctx < 16) && g.ctx % 16 == ctx)) && decide (g.deadline ≤ ownCycle s core)
    (late = none → exec (.grantParkExpiry core ctx) s = .next s) ∧
    ∀ g, late = some g → imageHeld s core g.ctx = false → (∀ n, successorOf (getCore s core) g.line n = none) →
      Answers (.grantParkExpiry core ctx) s fun t =>
        (getCore t core).parkedGrants = (getCore s core).parkedGrants.filter (· ≠ g) ∧
        ∃ o ∈ t.msgs, o.core = core ∧ o.ctx = g.ctx ∧ o.kind = .lockRel g.line false

/-- A home grants a lock to its queue in order; releases, handoffs and timeouts end waits. -/
def Obligations.LockEvents : Prop :=
  Claims.LockRequests ∧ Claims.LockReleases ∧ Claims.LockWaitEnds

/-! ### transactions (05 R136 to R142, 17 R337, R338) -/

/-- 05 R136, R139, R142: tx.beg opens a transaction at depth 1 once the context has no pending mark: a checkpoint of its
registers with the PC after it, an age unless it holds one, 0 in rd; inside it goes one deeper, and at the configured depth
aborts with NEST; with EN = 0 rd receives DISABLED, which tx.stat reports too (log entry 55), and nothing begins or deepens. tx.end leaves one level, or waits for the commit; outside it raises
TXSTATE, as tx.abt does, which else aborts with EXPLICIT. tx.stat writes the status word. Memory is as before. -/
def Claims.TransactionInstructions : Prop :=
  ∀ (s : State) (rd rs1 : BitVec 5), Settled s rd → Present s rs1 →
    let c := me s
    let limit := (myCore s).qtxcfg.toNat / 2 ^ 4 % 8
    let depth := match c.tx with | some x => x.depth | none => 0
    ((myCore s).qtxcfg.getLsbD 0 = false → Answers (.txBeg rd) s fun t =>
      xr t rd = (if rd = 0 then 0 else 7) ∧ (me t).tx = c.tx ∧ (me t).abortCause = 7 ∧ (me t).age = c.age ∧ (regs t).pc = c.regs.pc + 4 ∧ t.mem = s.mem) ∧
    ((myCore s).qtxcfg.getLsbD 0 = true → NoTx s → c.regs.xpend = 0 → c.regs.vpend = 0 → c.regs.fpend = 0 →
      Answers (.txBeg rd) s fun t => ∃ x, (me t).tx = some x ∧ x.depth = 1 ∧ x.rd = rd.toNat ∧ x.saved = regs t ∧
        WritesX s (setMe t { me t with tx := c.tx, age := c.age }) rd 0 ∧ x.readSet = [] ∧ x.writeSet = [] ∧ x.redSet = [] ∧
        x.spec = [] ∧ x.redLog = [] ∧ x.copies = [] ∧ (me t).age = some (c.age.getD s.cycle)) ∧
    (∀ x, (myCore s).qtxcfg.getLsbD 0 = true → c.tx = some x → x.depth < limit → Answers (.txBeg rd) s fun t =>
      (me t).tx = some { x with depth := x.depth + 1 } ∧ WritesX s (setMe t { me t with tx := c.tx }) rd 0) ∧
    (∀ x, (myCore s).qtxcfg.getLsbD 0 = true → c.tx = some x → limit ≤ x.depth → exec (.txBeg rd) s = .next (abortMe s 6 0 0)) ∧
    (NoTx s → Traps .txEnd s 0x112 0 ∧ Traps (.txAbt rs1) s 0x112 0) ∧
    (∀ x, c.tx = some x →
      exec (.txAbt rs1) s = .next (abortMe s 5 (xn s rs1) 0) ∧
      (1 < x.depth → Answers .txEnd s fun t => Advances (setMe s { c with tx := some { x with depth := x.depth - 1 } }) t) ∧
      (x.depth ≤ 1 → (∀ r ∈ s.reqs, r.core = s.turn → r.ctx = s.cur → r.orphan = false → r.kind = .compute ∨ reqDone r = true) →
        (∀ m ∈ s.msgs, m.core = s.turn → m.ctx = s.cur → ∀ d v, m.kind ≠ .nput d v) → Answers .txEnd s fun t =>
          t = setMe s { c with tx := some { x with phase := .preparing [] }, st := .waiting .commit })) ∧
    Gives (.txStat rd) s rd (BitVec.ofNat 64 ((if c.age.isSome then 2 ^ 63 else 0) + depth % 8 * 2 ^ 60 +
      c.abortCause.toNat * 2 ^ 52 + c.abortAddr.toNat % 2 ^ 48))

/-- 05 R140, R141, 17 R337: an abort of a context's transaction restores its registers and the PC after the outermost tx.beg,
whose rd receives the cause word, and clears its reuse latch: USER, DEPTH, RETRY for CONFLICT, CAPACITY, PREEMPT and NONTX, and CAUSE; where an abort
message waits, it came first and its cause is the one recorded; the sets, speculative bytes and held copies are gone, the age
stays, the context is ready; main memory and every other context are as before. Without a transaction nothing happens. -/
def Claims.TransactionAborts : Prop :=
  ∀ (s : State) (k n cause user : Nat) (addr : Word),
    let c := getCtx s k n
    let t := abortCtx s k n cause user addr
    (c.tx = none → t = s) ∧
    ∀ x, c.tx = some x →
      let first : Nat × Nat × Word := match c.abortMsg with | some m => (m.1, 0, m.2) | none => (cause, user, addr)
      let retry := if first.1 = 1 ∨ first.1 = 2 ∨ first.1 = 9 ∨ first.1 = 11 then 128 else 0
      let word := BitVec.ofNat 64 (first.2.1 % 256 * 2 ^ 16 + x.depth % 256 * 2 ^ 8 + retry + first.1)
      (getCtx t k n).tx = none ∧ (getCtx t k n).age = c.age ∧ (getCtx t k n).st = .live ∧
      (getCtx t k n).regs = { writeX x.saved x.rd word with latch := none } ∧ (getCtx t k n).mode = c.mode ∧ (getCtx t k n).locks = c.locks ∧
      (getCtx t k n).abortCause = BitVec.ofNat 7 first.1 ∧ (getCtx t k n).abortAddr = first.2.2 ∧ (getCtx t k n).abortMsg = none ∧
      t.mem = s.mem ∧ (getCore t k).spm = (getCore s k).spm ∧ t.msgs = s.msgs ∧
      (∀ r ∈ t.reqs, r.core = k → r.ctx = n → r.tx = false) ∧
      ∀ j m, (j, m) ≠ (k, n) → (getCtx t j m).regs = (getCtx s j m).regs ∧ (getCtx t j m).tx = (getCtx s j m).tx

/-- 05 R141, 03 R52: an instruction that a transaction may not contain aborts it with UNSUPP before it has any effect, and
before its operands are looked at: helpers, parcels, upcalls, barriers, domains and exchange, system calls and fences, waits,
signals, tickets, locks, cache-line instructions, publication, gather and scatter, page states, every MTX instruction, the
privileged instructions in a mode that may run them, and the CSR accesses outside the list of R141. hend of a helper raises
HENDBUSY, which aborts with FAULT (04 R81, log entry 59). -/
def Claims.TransactionRefusals : Prop :=
  ∀ (s : State) (rd rs1 rs2 rs3 : BitVec 5) (va vb : BitVec 4) (fmt : BitVec 2) (rm : BitVec 3) (sc : BitVec 5) (imm csr : BitVec 12),
    ¬ NoTx s →
    let c := me s
    let a := csr.toNat
    (∀ i ∈ [Instr.ecall, .ecallPassFault, .ecallRaiseInterrupt, .ebreak, .fence rd rs1 imm, .fenceI rd rs1 imm, .hstart rd rs1 rs2, .hwait rs1, .hkill rs1, .nput rs1 rs2, .pnext rd, .upret,
        .barInit rs1, .barArr rd, .barDrop rd, .barWait rs1, .barAwt rd,
        .domSet rd rs1 rs2, .domGet rd rs1, .xchBeg rs1, .xsend rs1 va, .xrecv rd rs1, .xchEnd, .qtrap rs1 imm,
        .fncAcq sc, .fncRel sc, .fncFull sc, .gsig rs1 rs2, .gwait rd rs1 rs2 rs3, .tkGet rd rs1, .tkWait rs1 rs2, .tkAdv rs1,
        .lkAcq rd rs1 rs2, .lkTry rd rs1, .lkRel rs1, .lkStat rd rs1, .clWb rs1, .clInv rs1, .clFlush rs1, .cpPub rd rs1,
        .cpCancel rd, .gth rd rs1 rs2, .sct rd rs1 rs2, .pgStat rd rs1,
        .mmBf16 rd rs1 rs2 rs3, .mmFp16 rd rs1 rs2 rs3, .mmE4e4 rd rs1 rs2 rs3, .mmE5e5 rd rs1 rs2 rs3, .mmE4e5 rd rs1 rs2 rs3,
        .mmE5e4 rd rs1 rs2 rs3, .mmQe4 rd rs1 rs2 rs3, .mmQbf rd rs1 rs2 rs3, .mmI8 rd rs1 rs2 rs3, .mmFp32 rd rs1 rs2 rs3,
        .maZero rd fmt, .maLd rd fmt rs1, .maSt rd fmt rs1 rm, .maMv rd fmt fmt, .laClr rd rs1, .laFma rd rs1 va vb, .laAdd rd rs1 va,
        .laRnd rd rs1 fmt rm, .laMrg rd rs1 rs2, .hxBin rd rs1 va fmt, .hxClr rd rs1, .hxMrg rd rs1 rs2],
      exec i s = .next (abortMe s 10 0 0)) ∧
    (s.cur = 0 → exec .hend s = .next (abortMe s 10 0 0)) ∧ (s.cur ≠ 0 → exec .hend s = .next (abortMe s 8 0 0)) ∧
    (c.mode ≠ .u → ∀ i ∈ [Instr.sret, .wfi, .qhalt, .ctxSave rd rs1 rs2, .ctxLoad rd rs1 rs2, .tlbInv rs1 rs2, .pgMig rd rs1 rs2],
      exec i s = .next (abortMe s 10 0 0)) ∧
    (c.mode = .m → exec .mret s = .next (abortMe s 10 0 0)) ∧
    (csrAllowed c.mode a true = true → a ∉ [0x001, 0x002, 0x003, 0x800, 0x802] →
      ∀ i ∈ [Instr.csrrw rd rs1 csr, .csrrwi rd rs1 csr], exec i s = .next (abortMe s 10 0 0)) ∧
    (csrAllowed c.mode a true = true → a ∉ [0x001, 0x002, 0x003, 0x800, 0x802] → rs1 ≠ 0 →
      ∀ i ∈ [Instr.csrrs rd rs1 csr, .csrrc rd rs1 csr, .csrrsi rd rs1 csr, .csrrci rd rs1 csr], exec i s = .next (abortMe s 10 0 0)) ∧
    (csrAllowed c.mode a false = true → a ∉ [0x001, 0x002, 0x003] → (quistadCsr a = false ∨ a / 256 % 4 ≠ 0) →
      ∀ i ∈ [Instr.csrrs rd 0 csr, .csrrc rd 0 csr, .csrrsi rd 0 csr, .csrrci rd 0 csr], exec i s = .next (abortMe s 10 0 0))

/-- Transactions begin, nest, end and abort; instructions they may not contain abort them. -/
def Obligations.Transactions : Prop :=
  Claims.TransactionInstructions ∧ Claims.TransactionAborts ∧ Claims.TransactionRefusals

/-- 05 R139, 17 R337, R338: the transaction of a context that waits at tx.end sends its prepares to the homes of its tiles in
ascending order; once every home has acknowledged, no other commit holds its reductions and the L2 has ways for its lines (log
entry 77), the commit point: the age and the transaction are gone, the PC goes on and its copies follow. Its speculative bytes are memory and
no other byte differs (where no line that it wrote had a partial to merge and it made no reduction); a reduction that it made
is then a partial of its cluster in a line in P. Until then it waits. An abort message that comes before that aborts it, and one
that finds no transaction is discarded; a release reaches its home. -/
def Claims.TransactionCommit : Prop :=
  (∀ (s : State) (core ctx home : Nat) (x : Tx), (getCtx s core ctx).tx = some x → (getCtx s core ctx).st = .waiting .commit →
    (getCtx s core ctx).abortMsg = none →
    let c := getCtx s core ctx
    ((txUnmarked x).head? = some home → Answers (.txPrepare core ctx home) s fun t => t.mem = s.mem ∧ t.msgs = s.msgs ∧
      ∃ marked, (getCtx t core ctx).tx = some { x with phase := .preparing (marked ++ [home]) } ∧
        (x.phase = .preparing marked ∨ x.phase = .running ∧ marked = [])) ∧
    ((txUnmarked x).head? ≠ some home → exec (.txPrepare core ctx home) s = .next s) ∧
    (txUnmarked x ≠ [] ∨ commitRoom s core ctx x = false → exec (.txPrepareAck core ctx) s = .next s) ∧
    (txUnmarked x = [] → commitRoom s core ctx x = true → Answers (.txPrepareAck core ctx) s fun t =>
      (getCtx t core ctx).tx = none ∧ (getCtx t core ctx).age = none ∧ (getCtx t core ctx).st = .live ∧
      (getCtx t core ctx).regs = { c.regs with pc := c.regs.pc + 4 } ∧
      (getCore t core).cq.length = (getCore s core).cq.length + x.copies.length ∧
      (x.redLog = [] → (∀ e ∈ x.spec, (dirOf s (lineOf e.1)).st ≠ .p) →
        (∀ a, fhas x.spec a = true → (x.spec.filter fun e => e.1 == a).length = 1 → byteAt t.mem a = fget 0 x.spec a) ∧
        ∀ a, fhas x.spec a = false → byteAt t.mem a = byteAt s.mem a) ∧
      ∀ pa tag v, x.spec = [] → x.redLog = [(pa, tag, v)] → (dirOf s (lineOf pa)).st ≠ .p → partOf? s (lineOf pa) (clusterIn core) = none →
        t.mem = s.mem ∧ (dirOf t (lineOf pa)).st = .p ∧ (dirOf t (lineOf pa)).tag = tag ∧
        partOf? t (lineOf pa) (clusterIn core) =
          some { tag := tag, elems := [(pa % 64, v.toNat % 2 ^ (if tag % 2 = 0 then 32 else 64))] })) ∧
  (∀ (s : State) (core ctx : Nat), ((getCtx s core ctx).abortMsg = none → exec (.txAbortMessage core ctx) s = .next s) ∧
    ∀ cause addr, (getCtx s core ctx).abortMsg = some (cause, addr) →
      ((getCtx s core ctx).tx ≠ none → exec (.txAbortMessage core ctx) s = .next (abortCtx s core ctx cause 0 addr)) ∧
      ((getCtx s core ctx).tx = none → Answers (.txAbortMessage core ctx) s fun t =>
        getCtx t core ctx = { getCtx s core ctx with abortMsg := none } ∧ t.mem = s.mem ∧ t.reqs = s.reqs)) ∧
  ∀ (s : State) (core ctx home : Nat) (m : Msg) (tiles : List Nat),
    s.msgs.find? (fun m => m.core == core && m.ctx == ctx && (match m.kind with | .txRelease h _ => h == home | _ => false)) = some m →
    m.kind = .txRelease home tiles → (∀ o ∈ s.msgs, o.id = m.id → o = m) →
    Answers (.txRelease core ctx home) s fun t => t = { s with msgs := s.msgs.filter (· ≠ m) }

/-- 05 R138, 17 R336, R338: what the home answers to an access of a tile that one other transaction holds: until a commit that
holds it is released, the access is held; else the accessor proceeds and the holder aborts, or, against an older holder, aborts
itself; a plain access always proceeds and its foe aborts with NONTX; a pair of the table that does not conflict proceeds and
aborts nobody. -/
def Claims.ConflictDecisions : Prop :=
  ∀ (s : State) (k n k2 n2 pa : Nat) (isTx : Bool) (a : AccKind) (x : Tx),
    openTxs s (paPkg pa) = [(k2, n2, x)] → (k2, n2) ≠ (k, n) →
    let held := (tileOf pa ∈ x.readSet ++ x.writeSet ++ x.redSet ∧ committingAt x (homeOf pa) = true) ∨ releaseDue s (tileOf pa) = true
    let r := tileOf pa ∈ x.readSet
    let w := tileOf pa ∈ x.writeSet
    let d := tileOf pa ∈ x.redSet
    let conflict := match isTx, a with
      | true, .read => w ∨ d
      | true, .write => r ∨ w ∨ d
      | true, .reduce => False
      | false, .read => w
      | false, .write => r ∨ w ∨ d
      | false, .reduce => w
    let older := (ageOf s k n).1 < (ageOf s k2 n2).1 ∨ ((ageOf s k n).1 = (ageOf s k2 n2).1 ∧ k < k2)
    (held → judge s k n isTx a pa = .hold) ∧
    (¬ held → ¬ conflict → ∃ cause, judge s k n isTx a pa = .go [] cause) ∧
    (¬ held → conflict → isTx = false → judge s k n isTx a pa = .go [(k2, n2)] 11) ∧
    (¬ held → conflict → isTx = true → older → judge s k n isTx a pa = .go [(k2, n2)] 1) ∧
    (¬ held → conflict → isTx = true → ¬ older → judge s k n isTx a pa = .selfAbort)

/-- Homes commit a prepared transaction whole, and a conflict is decided by the rules' order. -/
def Obligations.TransactionHomes : Prop :=
  Claims.TransactionCommit ∧ Claims.ConflictDecisions

/-! ### engine commands (05 R143 to R152) -/

/-- 05 R143, R144, R146: issue of the copies. A flags word with a reserved bit, a scope above 11 or no length, a scratchpad
range past the grant, and a shadow destination outside one remap entry raise CPARG with the operand (which one, log entry 96). A well-formed copy
empties its token and joins the core's queue once there is room; in a transaction it is held with it. -/
def Claims.CopyIssue : Prop :=
  ∀ (s : State) (rd rs1 rs2 rs3 : BitVec 5), Present s rs1 → Present s rs2 → Present s rs3 → Settled s rd →
    let a := xr s rs1
    let b := xr s rs2
    let f := xr s rs3
    let bytes := (myCore s).spmBytes
    let does := fun (i : Instr) (x : CopyCmd) =>
      let span := fun (pitch : Nat) => (x.rows - 1) * pitch + x.rowBytes
      let past := (x.dstS = true ∧ bytes < x.dst + span x.dpitch) ∨ (x.srcS = true ∧ bytes < x.src + span x.spitch)
      let shadowed := x.shadow = true → x.dstS = true ∧ ∃ e, remapAt (myCore s) x.dst = some e ∧
        x.dst + span x.dpitch ≤ e.log * 64 + e.size * 64
      (x.dstS = true → bytes < x.dst + span x.dpitch → Traps i s 0x113 a) ∧
      (¬ (x.dstS = true ∧ bytes < x.dst + span x.dpitch) → x.srcS = true → bytes < x.src + span x.spitch → Traps i s 0x113 b) ∧
      (¬ past → ¬ shadowed → Traps i s 0x113 (if x.op = 1 then a else f)) ∧
      (¬ past → shadowed → NoTx s → copiesOf (myCore s) < 64 →
        rangesInUse (myCore s) + x.dstS.toNat + x.srcS.toNat ≤ 64 → Answers i s fun t =>
          t = { modMyCore (setMe s (me t)) fun c => { c with cq := c.cq ++ [x] } with nextId := s.nextId + 1 } ∧
          me t = { me s with st := .live, regs := { emptyX (regs s) rd.toNat with pc := (regs s).pc + 4 } }) ∧
      ∀ tx, (me s).tx = some tx → ¬ past → shadowed → copiesOf (myCore s) < 64 → rangesInUse (myCore s) ≤ 64 → Answers i s fun t =>
        t = { setMe s (me t) with nextId := s.nextId + 1 } ∧
        me t = { me s with st := .live, tx := some { tx with copies := tx.copies ++ [x] },
                           regs := { emptyX (regs s) rd.toNat with pc := (regs s).pc + 4 } }
    let flat := fun (i : Instr) (op : Nat) (dst src : Bool) =>
      let wrong := f.toNat / 2 ^ 24 % 8 ≠ 0 ∨ 11 < f.toNat / 2 ^ 28 % 16 ∨ f.toNat % 2 ^ 24 = 0
      (wrong → Traps i s 0x113 f) ∧
      (¬ wrong → does i { blankCopy s op rd a b f with
        tag := f.toNat / 2 ^ 32, scope := f.toNat / 2 ^ 28 % 16, shadow := f.getLsbD 27, dstS := dst, srcS := src,
        dst := a.toNat, src := b.toNat, rowBytes := f.toNat % 2 ^ 24 })
    let rows := f.toNat / 2 ^ 48
    let row := f.toNat / 2 ^ 32 % 2 ^ 16
    let spitch := f.toNat / 2 ^ 16 % 2 ^ 16
    let dpitch := f.toNat % 2 ^ 16
    let wrongA := a.toNat / 2 ^ 60 % 4 ≠ 0 ∨ a.toNat / 2 ^ 48 % 2 ^ 8 ≠ 0 ∨ 11 < a.toNat / 2 ^ 56 % 16
    let wrongB := b.toNat / 2 ^ 48 % 2 ^ 15 ≠ 0
    let wrongF := rows = 0 ∨ row = 0 ∨ (1 < rows ∧ (spitch < row ∨ dpitch < row))
    flat (.cpG2g rd rs1 rs2 rs3) 0 false false ∧ flat (.cpG2s rd rs1 rs2 rs3) 2 true false ∧
    flat (.cpS2g rd rs1 rs2 rs3) 3 false true ∧ flat (.cpS2s rd rs1 rs2 rs3) 4 true true ∧
    (wrongA → Traps (.cp2d rd rs1 rs2 rs3) s 0x113 a) ∧ (¬ wrongA → wrongB → Traps (.cp2d rd rs1 rs2 rs3) s 0x113 b) ∧
    (¬ wrongA → ¬ wrongB → wrongF → Traps (.cp2d rd rs1 rs2 rs3) s 0x113 f) ∧
    (¬ wrongA → ¬ wrongB → ¬ wrongF → does (.cp2d rd rs1 rs2 rs3) { blankCopy s 1 rd a b f with
      scope := a.toNat / 2 ^ 56 % 16, shadow := a.getLsbD 62, dstS := a.getLsbD 63, srcS := b.getLsbD 63,
      dst := a.toNat % 2 ^ 48, src := b.toNat % 2 ^ 48, rows := rows, rowBytes := row, spitch := spitch, dpitch := dpitch })

/-- 05 R144, R147: a turn of the copy engine moves the bytes of the head copy of the core that is next, here of one row
within the core's scratchpad, where no remap entry is in use, no migration of the octet has blocks to move and nothing else is
outstanding: the destination reads as the source did, every other byte is as before. A copy whose bytes are written completes with token 0, or CANCELLED where a cancel came
before; cp.cancel of a copy that has not started removes it with CANCELLED, stops a started one, and does nothing without a copy or
where its bytes are written. -/
def Claims.CopyTurns : Prop :=
  (∀ (s : State) (k n : Nat) (x : CopyCmd), (getCore s k).cq = [x] → (∀ j, j / 8 = k / 8 → j ≠ k → (getCore s j).cq = []) →
    (getCore s k).mq = [] → (getCore s k).gq = [] → (getCore s k).pubs = [] → (∀ o, remapAt (getCore s k) o = none) →
    (∀ r ∈ s.reqs, r.core ≠ k) → x.core = k → migrating s (k / 8) = false → x.pos = 0 → x.goal = 0 →
    x.ranged = true → x.after = [] → x.hostData = [] → x.hostWait = false → x.failed = false → x.cancel = false →
    x.shadow = false → x.dstS = true → x.srcS = true → x.rows = 1 → x.rowBytes = n → 0 < n → n ≤ 1024 →
    x.src + n ≤ x.dst ∨ x.dst + n ≤ x.src → x.src + n < 2 ^ 48 → x.dst + n < 2 ^ 48 →
    Answers (.copyEngineTurn (k / 8)) s fun t => t.mem = s.mem ∧
      (∃ y, (getCore t k).cq = [y] ∧ y.pos = n ∧ y.id = x.id ∧ y.rd = x.rd ∧ y.ctx = x.ctx) ∧
      ∀ o, spmByte (getCore t k) o =
        if x.dst ≤ o ∧ o < x.dst + n then spmByte (getCore s k) (x.src + (o - x.dst)) else spmByte (getCore s k) o) ∧
  (∀ (s : State) (k : Nat) (x : CopyCmd) (rest : List CopyCmd), (getCore s k).cq = x :: rest → (∀ y ∈ rest, y.id ≠ x.id) →
    (x.pos ≠ x.rows * x.rowBytes → exec (.copyCompletion k) s = .next s) ∧
    (x.pos = x.rows * x.rowBytes → x.hostWait = false → x.orphan = false → x.ctx < 11 → 0 < x.rd → x.rd < 32 →
      (getCore s k).retiring = false → Answers (.copyCompletion k) s fun t => (getCore t k).cq = rest ∧ t.mem = s.mem ∧
        readX (getCtx t k x.ctx).regs x.rd = (if x.cancel then BitVec.ofInt 64 (-6) else 0) ∧ (getCtx t k x.ctx).regs.xpres.getLsbD x.rd = true ∧
        (getCtx t k x.ctx).regs.xpend.getLsbD x.rd = false)) ∧
  ∀ (s : State) (rd : BitVec 5), NoTx s →
    let mine := (myCore s).cq.filter fun x => x.ctx == s.cur && x.rd == rd.toNat && !x.orphan
    (mine = [] → Answers (.cpCancel rd) s fun t => Advances s t) ∧
    ∀ x, mine.head? = some x →
      let ended := x.pos = x.rows * x.rowBytes ∧ x.hostWait = false
      (ended → Answers (.cpCancel rd) s fun t => Advances s t) ∧
      (¬ ended → x.started = true → Answers (.cpCancel rd) s fun t => Advances (modMyCore s fun c => { c with
        cq := c.cq.map fun y => if y.id = x.id then { y with cancel := true } else y }) t) ∧
      (¬ ended → x.started = false → s.cur < 11 → rd ≠ 0 → Answers (.cpCancel rd) s fun t =>
        (myCore t).cq = (myCore s).cq.filter (fun y => y.id != x.id) ∧ xr t rd = BitVec.ofInt 64 (-6) ∧ Present t rd ∧ Settled t rd ∧
        (regs t).pc = (regs s).pc + 4 ∧ t.mem = s.mem)

/-- 05 R149, R150: cp.pub raises CPARG for a malformed word, a bad definition or an entry that is not valid, and else empties
its token and joins the core's publish commands. Acting, the one command of a core flips the selector of its entry once no
shadow copy before it is outstanding and then, with no reader left that is bound to the old version, fills its token with 0; a
definition makes its entry valid with selector 0, a removal makes it invalid, once no reader of the entry is left. Until then
nothing happens. -/
def Claims.Publication : Prop :=
  (∀ (s : State) (rd rs1 : BitVec 5), NoTx s → Present s rs1 → Settled s rd →
    let w := (xr s rs1).toNat
    let op := w / 2 ^ 62
    let entry := w % 8
    let bad := op = 3 ∨ w / 2 ^ 48 % 2 ^ 14 ≠ 0 ∨ w / 2 ^ 3 % 2 ^ 9 ≠ 0 ∨
      (op = 1 ∧ defineBad (myCore s) entry (w / 2 ^ 12 % 2 ^ 12) (w / 2 ^ 24 % 2 ^ 12) (w / 2 ^ 36 % 2 ^ 12) = true) ∨
      (op ≠ 1 ∧ (fget {} (myCore s).remap entry).valid = false)
    (bad → Traps (.cpPub rd rs1) s 0x113 (xr s rs1)) ∧
    (¬ bad → Answers (.cpPub rd rs1) s fun t =>
      let p : PubCmd := {
        id := s.nextId, ctx := s.cur, op := op, entry := entry, log := w / 2 ^ 12 % 2 ^ 12, twin := w / 2 ^ 24 % 2 ^ 12,
        size := w / 2 ^ 36 % 2 ^ 12, rd := rd.toNat, order := s.nextId, after := commandAfter s s.turn s.cur }
      (myCore t).pubs = (myCore s).pubs ++ [p] ∧ t.mem = s.mem ∧ (myCore t).spm = (myCore s).spm ∧
      me t = { me s with st := .live, regs := { emptyX (regs s) rd.toNat with pc := (regs s).pc + 4 } })) ∧
  ∀ (s : State) (k : Nat) (p : PubCmd), (getCore s k).pubs = [p] → p.orphan = false → p.ctx < 11 → 0 < p.rd → p.rd < 32 → p.op < 3 →
    let e := fget {} (getCore s k).remap p.entry
    let free := followed s k p.after = true
    let readers := readersOf s k p.entry
    let ends := fun (t : State) => (getCore t k).pubs = [] ∧ readX (getCtx t k p.ctx).regs p.rd = 0 ∧ t.mem = s.mem ∧
      (getCore t k).spm = (getCore s k).spm
    (p.op = 0 → p.flipped = false → shadowBefore (getCore s k) p = false → free → Answers (.publishFlip k) s fun t =>
      (getCore t k).remap = fset (getCore s k).remap p.entry { e with sel := !e.sel } ∧
      (getCore t k).pubs = [{ p with flipped := true }] ∧ t.mem = s.mem ∧ (getCore t k).spm = (getCore s k).spm) ∧
    (p.op = 0 → p.flipped = false → (shadowBefore (getCore s k) p = true ∨ ¬ free) → exec (.publishFlip k) s = .next s) ∧
    (p.op = 0 → p.flipped = true → (∀ b ∈ readers, b.getD p.entry e.sel = e.sel) →
      Answers (.publishFlip k) s fun t => ends t ∧ (getCore t k).remap = (getCore s k).remap) ∧
    (p.op = 0 → p.flipped = true → (∃ b ∈ readers, b.getD p.entry e.sel ≠ e.sel) → exec (.publishFlip k) s = .next s) ∧
    (p.op = 1 → readers = [] → free → Answers (.publishFlip k) s fun t => ends t ∧
      fget {} (getCore t k).remap p.entry = { valid := true, sel := false, log := p.log, twin := p.twin, size := p.size }) ∧
    (p.op = 2 → readers = [] → free → Answers (.publishFlip k) s fun t => ends t ∧ (fget {} (getCore t k).remap p.entry).valid = false) ∧
    (p.op ≠ 0 → (readers ≠ [] ∨ ¬ free) → exec (.publishFlip k) s = .next s)

/-- 05 R151, R152, 11 R247: gth and sct read their descriptor from the own scratchpad at issue; a misplaced or malformed one
raises GTHARG with its offset, a well-formed one empties the token and posts the command for the current domain once the
descriptor may be read and the queue has room. In the domain's phase the gather engine moves each element between the table and the buffer; here one element of 8 bytes within the
own scratchpad, by a region of KIND 2. -/
def Claims.Gathers : Prop :=
  (∀ (s : State) (rd rs1 rs2 : BitVec 5) (l : Level), NoTx s → Present s rs1 → Present s rs2 → Settled s rd →
    (myCore s).levels[(myCore s).domLevel.toNat]? = some l →
    condHolds s s.turn s.cur (.spmReady (xn s rs2) 32) = true → condHolds s s.turn s.cur (.gatherRoom 2) = true →
    let o := xn s rs2
    let c := myCore s
    let field := fun (at_ n : Nat) => leNat (spmRead c (o + at_) n)
    let out := o % 32 ≠ 0 ∨ c.spmBytes < o + 32
    let bad := field 0 4 % 4 ≠ 0 ∨ field 4 4 % 8 ≠ 0 ∨ field 8 4 = 0 ∨ 65536 < field 8 4 ∨ field 12 2 % 8 ≠ 0 ∨ field 12 2 = 0 ∨
      4096 < field 12 2 ∨ field 14 2 ≠ 0 ∨ field 16 8 % 8 ≠ 0 ∨ field 24 8 ≠ 0 ∨ c.spmBytes < field 0 4 + 4 * field 8 4 ∨
      c.spmBytes < field 4 4 + field 8 4 * field 12 2
    let posts := fun (i : Instr) (scatter : Bool) =>
      let g : GatherCmd := {
        id := s.nextId, ctx := s.cur, scatter := scatter, table := xr s rs1, descOff := o, idx := field 0 4, buf := field 4 4,
        count := field 8 4, esz := field 12 2, stride := field 16 8, rd := rd.toNat, dom := l.dom, mode := (me s).mode,
        rgn := c.qrgn, order := s.nextId, after := commandAfter s s.turn s.cur }
      (out → Traps i s 0x114 (xr s rs2)) ∧ (¬ out → bad → Traps i s 0x114 (xr s rs2)) ∧
      (¬ out → ¬ bad → Answers i s fun t => t.mem = s.mem ∧ (myCore t).spm = c.spm ∧ (myCore t).gq = c.gq ++ [g] ∧
        me t = { me s with st := .live, regs := { emptyX (regs s) rd.toNat with pc := (regs s).pc + 4 } })
    posts (.gth rd rs1 rs2) false ∧ posts (.sct rd rs1 rs2) true) ∧
  ∀ (s : State) (k base : Nat) (d : Dom) (g : GatherCmd), s.doms = [d] → d.t0.isSome = true → (d.a ≠ d.e ∨ d.a = 0) →
    (getCore s k).gq = [g] → gathersFor s (clusterOf k) d.id = [(k, g)] → g.dom = d.id → (∀ o, remapAt (getCore s k) o = none) →
    g.ctx < 16 → g.hostData = [] → g.pos = 0 → g.failed = false → g.count = 1 → g.esz = 8 → g.mode = .u →
    let c := getCore s k
    let va := g.table.toNat + leNat (spmRead c g.idx 4) * g.stride
    let r := findRegion g.rgn va
    (∃ x, r = some x ∧ x.kind = 2 ∧ x.base * 65536 = base) → (∀ i < 8, findRegion g.rgn (va + i) = r) → va + 8 ≤ 2 ^ 48 →
    va - base + 8 ≤ c.spmBytes → (va - base + 8 ≤ g.buf ∨ g.buf + 8 ≤ va - base) →
    (g.idx + 4 ≤ g.buf ∨ g.buf + 8 ≤ g.idx) → (g.idx + 4 ≤ va - base ∨ va - base + 8 ≤ g.idx) →
    let from_ := if g.scatter then g.buf else va - base
    let to_ := if g.scatter then va - base else g.buf
    Answers (.gatherEngineTurn (clusterOf k)) s fun t => t.mem = s.mem ∧
      (∃ y, (getCore t k).gq = [y] ∧ y.status = some 0 ∧ y.rd = g.rd) ∧
      ∀ o, spmByte (getCore t k) o = if to_ ≤ o ∧ o < to_ + 8 then spmByte c (from_ + (o - to_)) else spmByte c o

/-- Copies, publications and gathers issue, move their bytes in turn and end in their token. -/
def Obligations.CopyEngine : Prop :=
  Claims.CopyIssue ∧ Claims.CopyTurns ∧ Claims.Publication ∧ Claims.Gathers

/-! ### cache lines, translations and migration (05 R153 to R156, 19 R367 to R375) -/

/-- 05 R153, 14 R301, R302: cl.wb, cl.inv and cl.flush take a failed translation as a load fault, park until a
translation that waits is free, and do nothing on a line that is not this package's main memory; a line that a check turns away raises a
deferred trap, as a load's does (log entry 71). Once the context's accesses of the line are performed, the transactions that
hold its tile abort and a partial line merges; then every byte of memory stays as it is: cl.wb leaves the line clean in the
directory and in every L1 of the package, cl.inv takes it out of the core's L1, cl.flush out of every cache; a locked line
stays, clean, with its holder. -/
def Claims.CacheLineInstructions : Prop :=
  ∀ (s : State) (rs1 : BitVec 5), NoTx s → Present s rs1 →
    let va := xr s rs1
    let all := [Instr.clWb rs1, .clInv rs1, .clFlush rs1]
    (∀ code u, translate s va .load = (.fault code, u) → ∀ i ∈ all, exec i s = .next (takeFault u code va)) ∧
    (∀ u, translate s va .load = (.wait, u) → ∀ i ∈ all, exec i s = .next (park u [.walk va Acc.load.code])) ∧
    (∀ off u, translate s va .load = (.spm off, u) → ∀ i ∈ all, Answers i s fun t => Advances u t) ∧
    ∀ pa u, translate s va .load = (.phys pa, u) →
      (isMain pa = false ∨ paPkg pa ≠ pkgOf u.turn → ∀ i ∈ all, Answers i s fun t => Advances u t) ∧
      (isMain pa = true → paPkg pa = pkgOf u.turn →
        (∀ reason, accessError u u.turn (me u).mode pa 1 false false = some reason → ∀ i ∈ all,
          exec i s = .next (raiseDeferred (retire (logAccess u u.turn u.cur pa 1 reason)) u.turn u.cur (reasonCause reason) va)) ∧
        (accessError u u.turn (me u).mode pa 1 false false = none →
          condHolds u u.turn u.cur (.lineDone (lineOf pa)) = false →
          ∀ i ∈ all, exec i s = .next (setMe u { me u with st := .parked [.lineDone (lineOf pa)] })) ∧
        (accessError u u.turn (me u).mode pa 1 false false = none →
          condHolds u u.turn u.cur (.lineDone (lineOf pa)) = true →
          let line := lineOf pa
          let v := touchLine u line
          let kept := fun (k : Nat) => ∃ l, lockOf u line = some l ∧ l.held = true ∧ l.hcore = k
          let same := fun (t : State) => t.mem = v.mem ∧ t.reqs = v.reqs ∧ (regs t).pc = (regs u).pc + 4 ∧
            (regs t).x = (regs u).x ∧ (dirOf v line).st ≠ .p ∧ ∀ o, o ≠ line → dirOf t o = dirOf v o
          (Answers (.clWb rs1) s fun t => same t ∧ (dirOf t line).st ≠ .m ∧ (dirOf t line).st ≠ .o ∧
            ∀ e ∈ t.cores, pkgOf e.1 = paPkg pa → ∀ l ∈ e.2.l1, l.line = line → l.spec = [] → l.st ≠ .m ∧ l.st ≠ .o) ∧
          (Answers (.clInv rs1) s fun t => same t ∧ (¬ kept u.turn →
            ∀ e ∈ t.cores, e.1 = u.turn → ∀ l ∈ e.2.l1, l.line = line → l.spec ≠ [] ∨ l.st = .i)) ∧
          (Answers (.clFlush rs1) s fun t => same t ∧
            (holderCluster u line = none → (dirOf t line).st = .i ∧ ∀ cl < 16, l2Of t line cl = .i) ∧
            (∀ x, holderCluster u line = some x → ∀ cl < 16, cl ≠ x → l2Of t line cl = .i) ∧
            ∀ e ∈ t.cores, pkgOf e.1 = paPkg pa → ¬ kept e.1 → ∀ l ∈ e.2.l1, l.line = line → l.spec ≠ [] ∨ l.st = .i)))

/-- 05 R154, 03 R51, 12 R260: tlb.inv is illegal in U mode and with a reserved or illegal selector. In S and M mode, once the accesses
in reach are performed, no selected entry of the tenant, and with WHAT = 2 none at all, is left in the TLBs of the cores in
reach, and every other entry stays, and each helper held there for a page that it covers reports FAULTDONE; until then the context waits. -/
def Claims.TranslationInvalidate : Prop :=
  ∀ (s : State) (rs1 rs2 : BitVec 5) (w : IWord), encode (.tlbInv rs1 rs2) = some w →
    ((me s).mode = .u → Traps (.tlbInv rs1 rs2) s 2 (w.setWidth 64)) ∧
    ((me s).mode ≠ .u → NoTx s → Present s rs1 → Present s rs2 →
      let sel := (xr s rs2).toNat
      let reach := sel / 4 % 4
      let what := sel % 4
      let bad := sel / 2 ^ 11 ≠ 0 ∨ sel / 2 ^ 4 % 2 ^ 4 ≠ 0 ∨ reach = 3 ∨ what = 3
      (bad → Traps (.tlbInv rs1 rs2) s 2 (w.setWidth 64)) ∧
      (¬ bad → condHolds s s.turn s.cur (.reachQuiet reach) = false →
        exec (.tlbInv rs1 rs2) s = .next (setMe s { me s with st := .parked [.reachQuiet reach] })) ∧
      (¬ bad → condHolds s s.turn s.cur (.reachQuiet reach) = true → (∀ k, (getCore s k).retiring = false) →
        Answers (.tlbInv rs1 rs2) s fun t =>
          let tenant := bitsOf (myCore s).qtenant 22 16
          let region := fun (r : Region) (e : TlbEntry) => e.base = r.base ∧ e.pgsz = r.pgsz ∧ e.root = r.root
          let page := fun (r : Region) => ((xr s rs1).toNat - r.base * 65536) / (if r.pgsz then 1024 else 2 ^ 21)
          let selected := fun (e : TlbEntry) => what = 2 ∨ (e.part = tenant ∧
            ((what = 1 ∧ region (regionOf (myCore s).qrgn (sel / 2 ^ 8 % 8)) e) ∨
             (what = 0 ∧ ∃ r, findRegion (myCore s).qrgn (xr s rs1).toNat = some r ∧ region r e ∧ e.page = page r)))
          (∀ k ∈ s.turn :: reachCores s s.turn reach,
            (∀ e, e ∈ (getCore t k).dtlb ↔ e ∈ (getCore s k).dtlb ∧ ¬ selected e) ∧
            (∀ e, e ∈ (getCore t k).itlb ↔ e ∈ (getCore s k).itlb ∧ ¬ selected e)) ∧
          (∀ k, k ∉ s.turn :: reachCores s s.turn reach → getCore t k = getCore s k) ∧ t.reqs = s.reqs ∧ t.mem = s.mem ∧
          me t = { me s with st := .live, regs := { regs s with pc := (regs s).pc + 4 } } ∧
          let inside := fun (r : Region) (a : Word) => r.base ≤ a.toNat / 65536 ∧ a.toNat / 65536 ≤ r.limit
          let pageNo := fun (r : Region) (a : Nat) => (a - r.base * 65536) / (if r.pgsz then 1024 else 2 ^ 21)
          ∀ k ∈ reachCores s s.turn reach, ∀ n, 1 ≤ n → n ≤ 10 → ∀ a, ((getCore s k).ctx n).st = .held a →
            (what = 2 ∨ (what = 1 ∧ inside (regionOf (myCore s).qrgn (sel / 2 ^ 8 % 8)) a) ∨
             (what = 0 ∧ ∃ r, findRegion (myCore s).qrgn (xr s rs1).toNat = some r ∧ inside r a ∧
               pageNo r a.toNat = pageNo r (xr s rs1).toNat)) →
            ({ code := Cause.faultdone, value := a, ctx := n } : UpcallRec) ∈ (getCore t k).upq))

/-- Cache-line and translation invalidations act on the named line or page. -/
def Obligations.CacheAndTranslationUpkeep : Prop :=
  Claims.CacheLineInstructions ∧ Claims.TranslationInvalidate

/-- 05 R155, R156, 19 R367, R369: pg.mig is illegal in U mode; a page of the scratchpad, a misaligned destination, a wrong
space and the source itself give MIGARG, a page or a destination that a check turns away ACCESSERR, a page that migrates
already, a busy destination and a home whose 256 tails are in use MIGBUSY, in that order (log entry 72), with the reason's
status; every page that the two ranges meet counts, and an accepted one ends the stale marks that its destination meets
(log entry 89), aborts the transactions of its page, merges its partial lines and leaves the page in eft, every block to
copy, its copies after the accesses that the context's acquires and fences order before it. Both are translated with load
permission (log entry 73); M mode, which has no region, moves 2 MiB (log entry 13). They park while their translation
waits, pg.mig while a transaction commits on the page. pg.stat leaves its request, and gives 0 for the own scratchpad (log
entry 91). -/
def Claims.MigrationIssue : Prop :=
  ∀ (s : State) (rd rs1 rs2 : BitVec 5) (w : IWord), NoTx s → Present s rs1 → Present s rs2 → Settled s rd →
    ((me s).mode = .u → encode (.pgMig rd rs1 rs2) = some w → Traps (.pgMig rd rs1 rs2) s 2 (w.setWidth 64)) ∧
    (∀ code u, translate s (xr s rs1) .load = (.fault code, u) →
      exec (.pgStat rd rs1) s = .next (takeFault u code (xr s rs1)) ∧
      ((me s).mode ≠ .u → exec (.pgMig rd rs1 rs2) s = .next (takeFault u code (xr s rs1)))) ∧
    (∀ u, translate s (xr s rs1) .load = (.wait, u) → exec (.pgStat rd rs1) s = .next (park u [.walk (xr s rs1) Acc.load.code]) ∧
      ((me s).mode ≠ .u → exec (.pgMig rd rs1 rs2) s = .next (park u [.walk (xr s rs1) Acc.load.code]))) ∧
    (∀ off u, translate s (xr s rs1) .load = (.spm off, u) →
      (Answers (.pgStat rd rs1) s fun t => WritesX u t rd 0) ∧
      ((me s).mode ≠ .u → Answers (.pgMig rd rs1 rs2) s fun t => WritesX u t rd (BitVec.ofInt 64 (-17)))) ∧
    ∀ pa u, translate s (xr s rs1) .load = (.phys pa, u) →
      (Room u [{ pa := pa, va := xn s rs1, n := 1 }] → exec (.pgStat rd rs1) s =
        .next (retire (issueReq u .pageState (.x rd.toNat 8 false) [{ pa := pa, va := xn s rs1, n := 1 }] none none false))) ∧
      ((me s).mode ≠ .u →
        let big := (me u).mode = .m ∨ ∃ r, findRegion (myCore u).qrgn (xr s rs1).toNat = some r ∧ r.pgsz = false
        let frames := if big then 2048 else 1
        let bytes := 1024 * frames
        let frame := pa / bytes * frames
        let dst := (xr s rs2).toNat
        let wrong := dst % bytes ≠ 0 ∨ isMain dst = false ∨ isMain pa = false ∨ dst = frame * 1024
        let badDst := accessError u u.turn (me u).mode dst bytes true true
        let badSrc := accessError u u.turn (me u).mode (frame * 1024) bytes false true
        let gives := fun (v : State) (status : Int) => Answers (.pgMig rd rs1 rs2) s fun t => WritesX v t rd (BitVec.ofInt 64 status)
        (∀ p, pageAt u pa = some p → (p.st = .eft ∨ p.st = .eftHold ∨ p.st = .handover) → ¬ wrong → badDst = none →
          badSrc = none → gives u (-18)) ∧
        (pageAt u pa = none →
          (wrong → gives u (-17)) ∧
          (¬ wrong → ∀ reason, badDst = some reason → gives (logAccess u u.turn u.cur dst 4 reason) (reasonStatus reason)) ∧
          (¬ wrong → badDst = none → ∀ reason, badSrc = some reason →
            gives (logAccess u u.turn u.cur pa 4 reason) (reasonStatus reason)) ∧
          (¬ wrong → badDst = none → badSrc = none →
            let met := fun (at_ : Nat) (p : Page) => p ∈ u.pages ∧ p.frame < at_ + frames ∧ at_ < p.frame + pageFrames p.big
            let busy := (∃ p, met frame p) ∨ (∃ p, met (dst / 1024) p ∧ p.st ≠ .stale) ∨ 256 ≤ tailsAt u frame
            let ended := pagesIn u (dst / 1024) frames
            (busy → gives u (-18)) ∧
            (¬ busy → pageCommits u pa (frames == 2048) = true →
              exec (.pgMig rd rs1 rs2) s = .next (park u [.walk (xr s rs1) Acc.load.code])) ∧
            (¬ busy → pageCommits u pa (frames == 2048) = false → Answers (.pgMig rd rs1 rs2) s fun t =>
              t.mem = (enterEft { u with pages := u.pages.filter fun p => !(p.st == .stale && ended.contains p) }
                frame (frames == 2048)).mem ∧ t.reqs = u.reqs ∧
              regs t = { emptyX (regs u) rd.toNat with pc := (regs u).pc + 4 } ∧
              ∃ p ∈ t.pages, p.frame = frame ∧ p.new = dst / 1024 ∧ p.st = .eft ∧ p.todo = List.range frames ∧ p.marked = [] ∧
                p.core = u.turn ∧ p.ctx = u.cur ∧ p.rd = rd.toNat ∧ p.after = commandAfter u u.turn u.cur))))

/-- 05 R156, 19 R371, R375: pg.stat is read at the page's owner, at most two tails on; a third, or a stale mark, does not
forward. The word: 0 for a settled page that came through no tail, and state 3 with its frame for one that did (log entry
74); in eft the new frame's address in bits 55 to 12, state 1 in bits 9 to 8 and the blocks still to copy, at most 255; in
handover state 2. -/
def Claims.MigrationState : Prop :=
  ∀ (s : State) (pa : Nat) (last : Option Nat),
    (pageAt s pa = none → (∀ n, ownerOf s last n pa = .ok (pa, last)) ∧ (last = none → pageWord s pa last = 0) ∧
      ∀ f, last = some f → f < 2 ^ 46 →
        let w := (pageWord s pa last).toNat
        w % 256 = 0 ∧ w / 256 % 4 = 3 ∧ w / 2 ^ 10 % 4 = 0 ∧ w / 2 ^ 12 = f / 4) ∧
    ∀ p, pageAt s pa = some p →
      (p.st = .tail → ownerOf s last 0 pa = .error 8 ∧
        ∀ n, ownerOf s last (n + 1) pa = ownerOf s (some p.new) n (pa - p.frame * 1024 + p.new * 1024)) ∧
      (p.st = .stale → ∀ n, ownerOf s last n pa = .error 9) ∧
      (p.st ≠ .tail → p.st ≠ .stale → ∀ n, ownerOf s last n pa = .ok (pa, last)) ∧
      (p.new < 2 ^ 46 →
        let w := (pageWord s pa last).toNat
        w / 2 ^ 12 = p.new / 4 ∧ w / 2 ^ 10 % 4 = 0 ∧
        ((p.st = .eft ∨ p.st = .eftHold) → w % 256 = min p.todo.length 255 ∧ w / 256 % 4 = 1) ∧
        (p.st = .handover → w % 256 = 0 ∧ w / 256 % 4 = 2))

/-- 19 R369, R370: the end of a copy pass with more than 128 blocks written since begins the next one, which after the
eighth pass holds writes; the end of a copy pass of a 1 KiB page with no block written since copies what is left to copy, byte
for byte, and begins the handover; a block that cannot be read or written ends the migration with the status of its
reason (log entry 45). A pass ends no earlier than the accesses that the migration follows and the commits on its
destination allow. After INSTALL the old home stays the owner; INSTALL_ACK moves the page's lock entries to the new frame,
fills the token with 0 and leaves a tail at the old home. -/
def Claims.MigrationHandover : Prop :=
  ∀ (s : State) (p : Page), s.pages = [p] →
    let free := heldForCommit s (p.new * 1024) (1024 * pageFrames p.big) = false ∧ followed s p.core p.after = true
    (p.st = .eft ∨ p.st = .eftHold → ¬ free → exec (.migrationPassEnd p.frame) s = .next s) ∧
    (p.st = .eft ∨ p.st = .eftHold → free →
      (∀ b, b ∈ p.todo ++ p.marked → blockError s p b = none) → p.todo = [] → p.st = .eft → 128 < p.marked.length →
      Answers (.migrationPassEnd p.frame) s fun t => t = { s with pages := [{ p with
        st := if p.pass + 1 = 8 then .eftHold else .eft, pass := p.pass + 1, todo := p.marked, marked := [] }] }) ∧
    (∀ pa reason, p.st = .eft ∨ p.st = .eftHold → free →
      (p.todo ++ p.marked).findSome? (blockError s p) = some (pa, reason) → p.orphan = false → p.ctx < 11 → 0 < p.rd → p.rd < 32 →
      Answers (.migrationPassEnd p.frame) s fun t => t.pages = [] ∧
        readX (getCtx t p.core p.ctx).regs p.rd = BitVec.ofInt 64 (reasonStatus reason) ∧
        (getCtx t p.core p.ctx).regs.xpres.getLsbD p.rd = true) ∧
    (p.big = false → p.st = .eft ∨ p.st = .eftHold → p.todo = [0] → p.marked = [] → blockError s p 0 = none → p.new ≠ p.frame →
      free → (∀ l, (dirOf s l).st ≠ .p) →
      Answers (.migrationPassEnd p.frame) s fun t =>
        (∃ q, t.pages = [q] ∧ q.st = .handover ∧ q.frame = p.frame ∧ q.new = p.new ∧ q.rd = p.rd) ∧
        (∀ i < 1024, byteAt t.mem (p.new * 1024 + i) = byteAt s.mem (p.frame * 1024 + i)) ∧
        ∀ a, a / 1024 ≠ p.new → byteAt t.mem a = byteAt s.mem a) ∧
    (p.st = .handover → p.installed = false →
      Answers (.install p.frame) s fun t => t = { s with pages := [{ p with installed := true }] }) ∧
    (p.st = .handover → p.installed = true → p.orphan = false → p.ctx < 11 → 0 < p.rd → p.rd < 32 →
      Answers (.installAck p.frame) s fun t => t.pages = [{ p with st := .tail, since := s.cycle, lastFwd := s.cycle }] ∧
        (∀ l, s.locks = [l] → p.frame * 16 ≤ l.line → l.line < (p.frame + pageFrames p.big) * 16 → p.new ≠ p.frame →
          t.locks = [{ l with line := l.line - p.frame * 16 + p.new * 16 }]) ∧
        readX (getCtx t p.core p.ctx).regs p.rd = 0 ∧ (getCtx t p.core p.ctx).regs.xpres.getLsbD p.rd = true ∧ t.mem = s.mem)

/-- 19 R371 to R375: a request for a page that left goes on to its new frame with the tail's record, at most twice; the
performer's redirect enters the requesting cluster's owner cache once its requests to the old frame are answered, and its
held requests follow; one behind others that wait at the tail joins them, and one that the tail's package cannot send on
finds the error response LINKLOST; a tail idle for 100 us is purged from every package that it forwarded for, whose clusters drop their
entries, drain and acknowledge, and is then a stale mark, as at once when its lifetime ends; a stale mark leaves in
time. A third tail or a stale mark answers, and the request is resolved once more. -/
def Claims.MigrationTails : Prop :=
  (∀ (s : State) (p : Page), s.pages = [p] →
    let due := fun q => fget 0 p.requesters q + 100 * Config.cyclesPerUs ≤ s.cycle
    (p.st = .tail → p.purging = false → p.lastFwd + 100 * Config.cyclesPerUs ≤ s.cycle → p.requesters = [] →
      Answers (.tailIdleTimeout p.frame) s fun t => t = { s with pages := [{ p with st := .stale, since := s.cycle }] }) ∧
    (p.st = .tail → p.purging = false → p.lastFwd + 100 * Config.cyclesPerUs ≤ s.cycle → p.requesters ≠ [] →
      Answers (.tailIdleTimeout p.frame) s fun t => t.pages = [{ p with purging := true }] ∧ t.mem = s.mem ∧
        ∀ e ∈ p.requesters, e.1 ∉ p.acked → ∃ m ∈ t.msgs, m.kind = .purge p.frame e.1 false) ∧
    (p.st = .tail → p.purging = true → Answers (.tailIdleTimeout p.frame) s fun t => t.pages = s.pages ∧ t.mem = s.mem ∧
        ∀ e ∈ p.requesters, e.1 ∉ p.acked → purgeOpen s p.frame e.1 = false → due e.1 →
          ∃ m ∈ t.msgs, m.kind = .purge p.frame e.1 false) ∧
    (p.st = .tail → p.since + p.life * Config.cyclesPerUs ≤ s.cycle → Answers (.tailLifetimeExpiry p.frame) s fun t =>
      t.pages = [{ p with st := .stale, since := s.cycle }] ∧ t.mem = s.mem ∧
      ∀ e ∈ p.requesters, e.1 ∉ p.acked → ∃ m ∈ t.msgs, m.kind = .purge p.frame e.1 true) ∧
    (p.st = .stale → p.since + p.life * Config.cyclesPerUs ≤ s.cycle → Answers (.staleMarkExpiry p.frame) s fun t =>
      t = { s with pages := [] })) ∧
  (∀ (s : State) (id frame pkg : Nat) (m : Msg), findMsg s id = some m →
    (∀ last, m.kind = .purge frame pkg last → redirectAhead s id frame pkg = false →
      let drained := ∀ j < 16, sentTo s (pkg * 16 + j) id frame (frameBig s frame) = false
      Answers (.purge id) s fun t =>
        (∀ o, o ∈ t.owners ↔ o ∈ s.owners ∧ ¬ (o.cluster / 16 = pkg ∧ o.old = frame)) ∧ t.pages = s.pages ∧ t.mem = s.mem ∧
        (¬ drained → t.msgs = s.msgs) ∧ (drained → last = true → t.msgs = s.msgs.filter fun o => o.id != id) ∧
        (drained → last = false → ∃ o ∈ t.msgs, o.kind = .purgeAck frame pkg)) ∧
    ∀ p, s.pages = [p] → p.frame = frame → m.kind = .purgeAck frame pkg → p.st = .tail →
      fget 0 p.requesters pkg + 100 * Config.cyclesPerUs ≤ s.cycle →
      (∀ e ∈ p.requesters, e.1 = pkg ∨ e.1 ∈ p.acked) → Answers (.purgeAck id) s fun t =>
        ∃ q, t.pages = [q] ∧ q.st = .stale ∧ q.frame = frame ∧ q.since = s.cycle) ∧
  (∀ (s : State) (id cluster old new : Nat) (big : Bool) (m : Msg), findMsg s id = some m → m.kind = .redirect cluster old new big →
    (sentTo s cluster id old big = true → exec (.redirect id) s = .next s) ∧
    (sentTo s cluster id old big = false → Answers (.redirect id) s fun t =>
      (∃ rest, t.owners = { cluster := cluster, old := old, new := new, big := big } :: rest ∧
        ∀ o ∈ rest, o ∈ s.owners ∧ (o.cluster = cluster → o.old ≠ old)) ∧
      ownerLookup t cluster (old * 1024 + 5) = new * 1024 + 5 ∧ t.mem = s.mem ∧
      ∀ r ∈ s.reqs, clusterOf r.core = cluster → ∀ (i : Nat) (p : Part), r.parts[i]? = some p → p.done = false → p.own = false → p.fwd = 0 →
        p.answer = none → old ≤ frameOf p.pa → frameOf p.pa < old + pageFrames big →
        ∃ q ∈ t.reqs, q.id = r.id ∧ q.parts[i]? = some { p with pa := p.pa - old * 1024 + new * 1024 })) ∧
  ∀ (s : State) (id i : Nat) (r : Req) (p : Part), findReq s id = some r → r.parts[i]? = some p →
    let becomes := fun (t : State) (p' : Part) => t.mem = s.mem ∧ (∃ q ∈ t.reqs, q.id = id ∧ q.parts[i]? = some p') ∧
      ∀ q ∈ s.reqs, q.id ≠ id → q ∈ t.reqs
    let fails := fun (t : State) => ∃ q ∈ t.reqs, q.id = id ∧ q.fail = some (0x130, BitVec.ofNat 64 p.va) ∧ reqDone q = true
    (orderAllows s r p = true → p.answer = none → redirectHolds s r i p = false → r.tx = false →
      (hasArrived s r.id i p.pa || (p.fwd == 0 && !partRemote s r.core p) || !laneBehind s r.core r.order p.pa) = true → isMain p.pa = true → p.own = false →
      partError s r p (coversWhole r (lineOf p.pa)) = none → (p.fwd = 0 → p.named = none) →
      ∀ ev, ((ev = .homeRead id i ∧ r.kind = .load ∧ localMain r.core p = true) ∨
          (ev = .homeWrite id i ∧ r.kind = .store ∧ localMain r.core p = true) ∨ (ev = .fwd id i ∧ p.fwd ≠ 0)) →
        (∀ pg, pageAt s p.pa = some pg → pg.st = .tail → behindWaiters s id i pg = true → Answers ev s fun t =>
          t.mem = s.mem ∧ t.reqs = s.reqs ∧ (s.pages = [pg] → ∃ q, t.pages = [q] ∧ (id, i) ∈ q.waiters)) ∧
        (∀ pg, pageAt s p.pa = some pg → pg.st = .tail → behindWaiters s id i pg = false →
          let ends := paPkg (pg.frame * 1024) ≠ paPkg (pg.new * 1024) ∧
            unreachable s (paPkg (pg.frame * 1024)) (paPkg (pg.new * 1024)) = true
          (p.fwd < 2 → ends → exec ev s = .next (errorPart s r p 10)) ∧
          (p.fwd < 2 → ¬ ends → Answers ev s fun t => becomes t { p with
            named := some (p.named.getD p.pa), pa := p.pa - pg.frame * 1024 + pg.new * 1024, fwd := p.fwd + 1 }) ∧
          (2 ≤ p.fwd → Answers ev s fun t => becomes t { p with answer := some 8 })) ∧
        (∀ pg, pageAt s p.pa = some pg → pg.st = .stale → Answers ev s fun t => becomes t { p with answer := some 9 }) ∧
        (pageAt s p.pa = none → (dirOf s (lineOf p.pa)).st ≠ .p → ev = .fwd id i → (∀ tag, r.kind ≠ .reduce tag) →
          (∃ c, judge s r.core r.ctx false (if isWriteKind r.kind then .write else .read) p.pa = .go [] c) → Answers ev s fun t =>
          Performed s t r i p ∧ ∀ a pg, p.named = some a → pageAt s a = some pg → ∃ m ∈ t.msgs, m.kind =
            .redirect (clusterOf r.core) pg.frame (frameOf p.pa / pageFrames pg.big * pageFrames pg.big) pg.big)) ∧
    (p.done = false → r.mode = .m → p.resent = false →
      let again := { p with pa := p.va, fwd := 0, named := none, answer := none, since := none, resent := true }
      (p.answer = some 8 → Answers (.migchain id i) s fun t => becomes t again) ∧
      (p.answer = some 9 → Answers (.migstale id i) s fun t => becomes t again)) ∧
    (p.done = false → p.resent = true →
      (p.answer = some 8 → Answers (.migchain id i) s fails) ∧ (p.answer = some 9 → Answers (.migstale id i) s fails))

/-- Page migration copies, hands over, forwards from a tail and ends as its rules say. -/
def Obligations.Migration : Prop :=
  Claims.MigrationIssue ∧ Claims.MigrationState ∧ Claims.MigrationHandover ∧ Claims.MigrationTails

/-! ### vectors -/

/-- 05 R117, R118, 06 R157: a vector load or store accesses one element for every active lane, and a broadcast load one
for all of them. The lowest active lane that is not aligned to its element traps at its address; else the access goes
through the vector queue, the destination empty and pending; a store without an active lane only takes its entry of the
queue. 06 R178: with the reuse hint a store's data register is kept in the latch. -/
def Claims.VectorMemory : Prop :=
  ∀ (s : State) (v vs : BitVec 4) (rs1 rs2 : BitVec 5) (et : BitVec 3) (km : BitVec 2) (h : BitVec 1),
    VqRoom s → Present s rs1 →
    let n := etBits et.toNat / 8
    let ls := (List.range (laneCount (8 * n))).filter (active (regs s) km.toNat)
    let queued := fun (kind : ReqKind) (dst : Dst) (u : State) (ps : List Part) =>
      if ps = [] ∧ kind = .store then modMyCore u fun c => { c with vq := c.vq ++ [{ ctx := u.cur, work := .done }] }
      else queueVec u kind dst ps
    let hinted := fun (kind : ReqKind) (u : State) =>
      if kind = .store ∧ h = 1 then modRegs u fun g => { g with latch := some v.toNat } else u
    let accesses := fun (i : Instr) (ws : List Want) (acc : Acc) (kind : ReqKind) (dst : Dst) (code : Nat) =>
      (∀ l w l', ws = l ++ w :: l' → (∀ x ∈ l, x.2.1.toNat % n = 0) → w.2.1.toNat % n ≠ 0 → Traps i s code w.2.1) ∧
      ((∀ x ∈ ws, x.2.1.toNat % n = 0) →
        (∀ o u, reach s ws acc = (.out o, u) → exec i s = o) ∧
        ∀ ps u, reach s ws acc = (.parts ps, u) → Room u ps → exec i s = .next (retire (hinted kind (queued kind dst u ps))))
    let loads := fun i (addr : Nat → Word) =>
      accesses i (ls.map fun j => (j, addr j, n, 0)) .load .load (.v v.toNat n) 4
    let stores := fun i (addr : Nat → Word) =>
      accesses i (ls.map fun j => (j, addr j, n, lane (readV (regs s) v.toNat) (8 * n) j)) .store .store .none 6
    let unit := fun j => xr s rs1 + BitVec.ofNat 64 (n * j)
    let stride := fun j => xr s rs1 + xr s rs2 * BitVec.ofNat 64 j
    let index := fun j => xr s rs1 + BitVec.ofNat 64 (n * lane (readV (regs s) vs.toNat) (8 * n) j)
    (SettledV s v →
      loads (.vld v rs1 et km h) unit ∧
      (Present s rs2 → loads (.vlds v rs1 rs2 et km h) stride) ∧
      (PresentV s vs → loads (.vldx v rs1 vs et km h) index) ∧
      accesses (.vbc v rs1 et km h) ((ls.take 1).map fun j => (j, xr s rs1, n, 0)) .load .load (.vb v.toNat n ls) 4) ∧
    (PresentV s v →
      stores (.vst v rs1 et km h) unit ∧
      (Present s rs2 → stores (.vsts v rs1 rs2 et km h) stride) ∧
      (PresentV s vs → stores (.vstx v rs1 vs et km h) index))

/-- 05 R118, R119, 13 R276: an access that has gone into the vector queue is an outstanding request that waits for its entry,
the last of the queue; its destination is empty and pending, and for one element of the own package's memory a line of the L1
is allocated; no byte of memory or of a scratchpad, no message and no register of another context differs. -/
def Claims.QueuedAccess : Prop :=
  ∀ (s : State) (kind : ReqKind) (dst : Dst) (ps : List Part),
    let t := retire (queueVec s kind dst ps)
    t.reqs = s.reqs ++ [{ request s kind dst ps with queued := true }] ∧ t.nextId = s.nextId + 1 ∧
    regs t = { emptyDst (regs s) dst with pc := (regs s).pc + 4 } ∧
    (myCore t).vq = (myCore s).vq ++ [{ ctx := s.cur, work := .memory s.nextId }] ∧ t.mem = s.mem ∧ t.msgs = s.msgs ∧
    (∀ k, (getCore t k).spm = (getCore s k).spm) ∧
    (∀ k n, (k, n) ≠ (s.turn, s.cur) → (getCtx t k n).regs = (getCtx s k n).regs) ∧
    ∀ p, ps = [p] → kind = .load ∨ kind = .store → p.own = false → isMain p.pa = true → paPkg p.pa = pkgOf s.turn →
      pageMoving s p.pa = false → ∃ l ∈ (myCore t).l1, l.line = lineOf p.pa

/-- Vector loads and stores, indexed ones too, make the accesses of their active lanes. -/
def Obligations.VectorAccesses : Prop :=
  Claims.VectorMemory ∧ Claims.QueuedAccess

/-- 06 R158, R161, R162, R164, R167: each active lane of vd receives the exact value of its operands rounded once in the
mode of rm, or of qrm for rm = 111; under SR the bits are those of the seed, the core, the context, the count before the
instruction, which it advances, and the lane. The flags of the active lanes accumulate, the other lanes of vd are kept,
vd is present, the reuse latch follows 06 R178, and nothing else differs but the vector queue and the PC. -/
def Claims.VectorFloat : Prop :=
  ∀ (s : State) (vd vs1 vs2 : BitVec 4) (ft : BitVec 2) (rm : BitVec 3) (km : BitVec 2) (sf : BitVec 4) (h : BitVec 1),
    VqRoom s → SettledV s vd → PresentV s vs1 →
    let hint := if h = 1 then some vs1 else none
    let w := ftBits ft.toNat
    let fmt := ftFmt ft.toNat
    let m := if rm = 7 then (regs s).qrm.toNat else rm.toNat
    let bits := fun j => srDraw (me s).qsrseed (lidOf s.turn) s.cur (regs s).qsrctr j
    let val := fun (r : BitVec 4) j => decodeF fmt (lane (readV (regs s) r.toNat) w j)
    let a := val vs1
    let b := val vs2
    let c := val vd
    let gives := fun (i : Instr) (f : Nat → Nat × Nat) => Answers i s fun t =>
      WritesV s t vd w (onActive s vd km.toNat w fun j => (f j).1) (activeFlags s km.toNat w fun j => (f j).2)
        (decide (m = Rm.sr)) hint
    (PresentV s vs2 →
      gives (.vadd vd vs1 vs2 ft rm km h) (fun j => fAdd fmt m (bits j) (a j) (b j)) ∧
      gives (.vsub vd vs1 vs2 ft rm km h) (fun j => fAdd fmt m (bits j) (a j) (b j).neg) ∧
      gives (.vmul vd vs1 vs2 ft rm km h) (fun j => fMul fmt m (bits j) (a j) (b j)) ∧
      gives (.vdiv vd vs1 vs2 ft rm km h) (fun j => fDiv fmt m (bits j) (a j) (b j)) ∧
      (PresentV s vd →
        gives (.vfma vd vs1 vs2 ft rm km h) (fun j => fMulAdd fmt m (bits j) (a j) (b j) (c j)) ∧
        gives (.vfms vd vs1 vs2 ft rm km h) (fun j => fMulAdd fmt m (bits j) (a j) (b j) (c j).neg) ∧
        gives (.vfnma vd vs1 vs2 ft rm km h) (fun j => fMulAdd fmt m (bits j) (a j).neg (b j) (c j)))) ∧
    gives (.vsqrt vd vs1 ft rm km h) (fun j => fSqrt fmt m (bits j) (a j)) ∧
    gives (.vcvt vd vs1 sf ft rm km h) (fun j =>
      if j < laneCount (sfBits sf.toNat) then
        roundVal fmt m (bits j) (sourceVal sf.toNat (lane (readV (regs s) vs1.toNat) (sfBits sf.toNat) j))
      else (0, 0))

/-- 06 R165, R166: vmin and vmax write the smaller or larger lane, the other operand where one is a NaN, the canonical NaN
where both are, and raise NV for a signalling NaN; vabs clears and vneg inverts the sign bit without a flag. -/
def Claims.VectorSigns : Prop :=
  (∀ (s : State) (vd vs1 vs2 : BitVec 4) (ft km : BitVec 2) (h : BitVec 1),
    VqRoom s → SettledV s vd → PresentV s vs1 →
    let hint := if h = 1 then some vs1 else none
    let w := ftBits ft.toNat
    let a := lane (readV (regs s) vs1.toNat) w
    let b := lane (readV (regs s) vs2.toNat) w
    let gives := fun (i : Instr) (f : Nat → Nat × Nat) => Answers i s fun t =>
      WritesV s t vd w (onActive s vd km.toNat w fun j => (f j).1) (activeFlags s km.toNat w fun j => (f j).2) false hint
    (PresentV s vs2 →
      gives (.vmin vd vs1 vs2 ft km h) (fun j => fMinMax (ftFmt ft.toNat) false (a j) (b j)) ∧
      gives (.vmax vd vs1 vs2 ft km h) (fun j => fMinMax (ftFmt ft.toNat) true (a j) (b j))) ∧
    gives (.vabs vd vs1 ft km h) (fun j => (a j &&& (2 ^ (w - 1) - 1), 0)) ∧
    gives (.vneg vd vs1 ft km h) (fun j => (a j ^^^ 2 ^ (w - 1), 0))) ∧
  ∀ (ft : BitVec 2) (larger : Bool) (x y : Nat),
    let f := ftFmt ft.toNat
    let a := decodeF f x
    let b := decodeF f y
    let r := fMinMax f larger x y
    (a.isNaN → b.isNaN → r.1 = canonicalNaN f) ∧ (a.isNaN → ¬ b.isNaN → r.1 = y) ∧ (¬ a.isNaN → b.isNaN → r.1 = x) ∧
    (ltVal a b → r.1 = if larger then y else x) ∧ (ltVal b a → r.1 = if larger then x else y) ∧
    (x = zeroOf f false → y = zeroOf f true → r.1 = if larger then x else y) ∧
    (x = zeroOf f true → y = zeroOf f false → r.1 = if larger then y else x) ∧
    r.2 = if a.isSignalling || b.isSignalling then 16 else 0

/-- 06 R178: the reuse latch loses a v register at every write of it: a VEC result, a vector load's reply, an nput with or
without FIN, pclr; a write of another register leaves it. A transaction's abort, a record that ctx.load or a restore reads
and a save of the core clear it. -/
def Claims.ReuseLatch : Prop :=
  (∀ (g : Regs) (r : Nat) (v : VWord) (w d : Word) (bs : List Byte) (c : Context),
    let after := fun q => if g.latch = some q then none else g.latch
    (writeV g r v).latch = after r ∧ (replyV g r v).latch = after r ∧
    (d.getLsbD 17 = true → (nputRegs g d w).latch = after (d.toNat / 2 ^ 12 % 32)) ∧
    (regsOfRecord bs).latch = none ∧ (keptContext c).regs.latch = none) ∧
  (∀ (s : State) (reg : BitVec 5), Answers (.pclr 1 reg) s fun t =>
    (regs t).latch = if (regs s).latch = some reg.toNat then none else (regs s).latch) ∧
  ∀ (s : State) (k n cause user : Nat) (addr : Word), (getCtx s k n).tx ≠ none →
    (getCtx (abortCtx s k n cause user addr) k n).regs.latch = none

/-- Vector float arithmetic rounds each lane once; sign operations are bit operations; writes clear the reuse latch. -/
def Obligations.VectorArithmetic : Prop :=
  Claims.VectorFloat ∧ Claims.VectorSigns ∧ Claims.ReuseLatch

/-- 06 R168: the active lanes are combined in the pairwise tree, node by node, a sum under SR with the draw 64 j + b; the
root goes to lane 0, a NaN as the canonical one, the value of the empty tree where no lane is active, and the other lanes
become +0; NV is added for any active signalling NaN. -/
def Obligations.VectorReductions : Prop :=
  ∀ (s : State) (vd vs1 : BitVec 4) (ft : BitVec 2) (rm : BitVec 3) (km : BitVec 2) (h : BitVec 1),
    VqRoom s → SettledV s vd → PresentV s vs1 →
    let hint := if h = 1 then some vs1 else none
    let w := ftBits ft.toNat
    let fmt := ftFmt ft.toNat
    let m := if rm = 7 then (regs s).qrm.toNat else rm.toNat
    let bits := fun j => srDraw (me s).qsrseed (lidOf s.turn) s.cur (regs s).qsrctr j
    let levels := Nat.log2 (laneCount w)
    let leaf := fun j => if active (regs s) km.toNat j then some (lane (readV (regs s) vs1.toNat) w j) else none
    let nv := activeFlags s km.toNat w fun j =>
      if (decodeF fmt (lane (readV (regs s) vs1.toNat) w j)).isSignalling then 16 else 0
    let gives := fun (i : Instr) (f : Nat → Nat → Nat → Nat → Nat × Nat) (empty : Nat) (sr : Bool) => Answers i s fun t =>
      let root := match treeNode f leaf levels 0 with
        | some x => if (decodeF fmt x).isNaN then canonicalNaN fmt else x
        | none => empty
      WritesV s t vd w (fun j => if j = 0 then root else 0)
        (nv ||| BitVec.ofNat 5 (treeNodeFlags f leaf levels 0)) sr hint
    gives (.vredsum vd vs1 ft rm km h)
      (fun j b x y => fAdd fmt m (bits (64 * j + b)) (decodeF fmt x) (decodeF fmt y)) 0 (decide (m = Rm.sr)) ∧
    gives (.vredmin vd vs1 ft km h) (fun _ _ x y => fMinMax fmt false x y) (infOf fmt false) false ∧
    gives (.vredmax vd vs1 ft km h) (fun _ _ x y => fMinMax fmt true x y) (infOf fmt true) false

/-- 06 R169, R170: integer lanes wrap at their width, shift counts are taken modulo it, vsra shifts a signed lane, and no
flag is raised; inactive lanes are kept. -/
def Claims.VectorInteger : Prop :=
  ∀ (s : State) (vd vs1 vs2 : BitVec 4) (et km : BitVec 3) (h : BitVec 1),
    VqRoom s → SettledV s vd → PresentV s vs1 → PresentV s vs2 →
    let hint := if h = 1 then some vs1 else none
    let w := etBits et.toNat
    let gives := fun (i : Instr) (f : Nat → Nat → Int) => Answers i s fun t =>
      WritesV s t vd w (onActive s vd km.toNat w fun j =>
        (f (lane (readV (regs s) vs1.toNat) w j) (lane (readV (regs s) vs2.toNat) w j) % (2 ^ w : Nat)).toNat) 0 false hint
    gives (.viadd vd vs1 vs2 et km h) (fun a b => a + b) ∧
    gives (.visub vd vs1 vs2 et km h) (fun a b => a - b) ∧
    gives (.vimul vd vs1 vs2 et km h) (fun a b => a * b) ∧
    gives (.vand vd vs1 vs2 et km h) (fun a b => (a &&& b : Nat)) ∧
    gives (.vor vd vs1 vs2 et km h) (fun a b => (a ||| b : Nat)) ∧
    gives (.vxor vd vs1 vs2 et km h) (fun a b => (a ^^^ b : Nat)) ∧
    gives (.vsll vd vs1 vs2 et km h) (fun a b => (a <<< (b % w) : Nat)) ∧
    gives (.vsrl vd vs1 vs2 et km h) (fun a b => (a >>> (b % w) : Nat)) ∧
    gives (.vsra vd vs1 vs2 et km h) (fun a b => signedOf w a / (2 ^ (b % w) : Nat))

/-- 06 R171, 03 R47: a compare writes the k register with bit i the test of active lane i, every other bit 0. An integer
test raises no flag; of a floating-point one, a NaN operand raises NV for vcmplt and vcmple, a signalling one for the
others. -/
def Claims.VectorCompares : Prop :=
  ∀ (s : State) (kd : BitVec 3) (vs1 vs2 : BitVec 4) (et km : BitVec 3) (h : BitVec 1),
    VqRoom s → PresentV s vs1 → PresentV s vs2 →
    let hint := if h = 1 then some vs1 else none
    let w := etBits et.toNat
    let on := fun j => active (regs s) km.toNat j
    let x := fun j => lane (readV (regs s) vs1.toNat) w j
    let y := fun j => lane (readV (regs s) vs2.toNat) w j
    let gives := fun (i : Instr) (test : Nat → Bool) (nv : Nat → Bool) => Answers i s fun t => ∃ mask,
      WritesK s t kd mask (if (List.range (laneCount w)).any (fun j => on j && nv j) then 16 else 0) hint ∧
      ∀ j, mask.getLsbD j = (decide (j < laneCount w) && on j && test j)
    (etFmt et.toNat = none →
      gives (.vcmpeq kd vs1 vs2 et km h) (fun j => x j == y j) (fun _ => false) ∧
      gives (.vcmpne kd vs1 vs2 et km h) (fun j => x j != y j) (fun _ => false) ∧
      gives (.vcmplt kd vs1 vs2 et km h) (fun j => decide (signedOf w (x j) < signedOf w (y j))) (fun _ => false) ∧
      gives (.vcmple kd vs1 vs2 et km h) (fun j => decide (signedOf w (x j) ≤ signedOf w (y j))) (fun _ => false) ∧
      gives (.vcmpltn kd vs1 vs2 et km h) (fun j => decide (x j < y j)) (fun _ => false)) ∧
    ∀ fmt, etFmt et.toNat = some fmt →
      let a := fun j => decodeF fmt (x j)
      let b := fun j => decodeF fmt (y j)
      let nan := fun j => (a j).isNaN || (b j).isNaN
      let snan := fun j => (a j).isSignalling || (b j).isSignalling
      gives (.vcmpeq kd vs1 vs2 et km h) (fun j => eqVal (a j) (b j)) snan ∧
      gives (.vcmpne kd vs1 vs2 et km h) (fun j => !eqVal (a j) (b j)) snan ∧
      gives (.vcmplt kd vs1 vs2 et km h) (fun j => ltVal (a j) (b j)) nan ∧
      gives (.vcmple kd vs1 vs2 et km h) (fun j => ltVal (a j) (b j) || eqVal (a j) (b j)) nan ∧
      gives (.vcmpltn kd vs1 vs2 et km h) (fun j => ltVal (a j) (b j) || nan j) snan

/-- Vector integer operations wrap per lane; compares write the mask of the active lanes. -/
def Obligations.VectorIntegerAndCompares : Prop :=
  Claims.VectorInteger ∧ Claims.VectorCompares

/-- 06 R172 to R175, R159: the data movement. vslide moves by a signed count and shifts in +0, vmerge chooses every lane by
the mask, vmv under a mask copies bytes, vins replaces one lane; vext reads one lane, sign-extended for an integer type,
and fills rd when its queue entry executes. -/
def Claims.VectorMoves : Prop :=
  ∀ (s : State) (vd vs1 vs2 xs xi : BitVec 4) (rd : BitVec 5) (et km : BitVec 3) (h : BitVec 1), VqRoom s →
    let hint := if h = 1 then some vs1 else none
    let w := etBits et.toNat
    let n := laneCount w
    let a := lane (readV (regs s) vs1.toNat) w
    let b := lane (readV (regs s) vs2.toNat) w
    let count := xr s (xs.setWidth 5)
    let j := (xr s (xi.setWidth 5)).toNat % n
    let gives := fun (i : Instr) (w : Nat) (f : Nat → Nat) => Answers i s fun t => WritesV s t vd w f 0 false hint
    (SettledV s vd → PresentV s vs1 → PresentV s vs2 →
      gives (.vperm vd vs1 vs2 et km h) w (onActive s vd km.toNat w fun i => a (b i % n)) ∧
      gives (.vzip vd vs1 vs2 et km h) w (onActive s vd km.toNat w fun i => if i % 2 = 0 then a (i / 2) else b (i / 2)) ∧
      gives (.vunzip vd vs1 vs2 et km h) w (onActive s vd km.toNat w fun i =>
        if 2 * i < n then a (2 * i) else b (2 * i - n)) ∧
      gives (.vmerge vd vs1 vs2 et km h) w (fun i => if (readK (regs s) km.toNat).getLsbD i then a i else b i)) ∧
    (SettledV s vd → PresentV s vs1 →
      gives (.vmv vd vs1 km h) 8 (onActive s vd km.toNat 8 (lane (readV (regs s) vs1.toNat) 8)) ∧
      (Present s (xs.setWidth 5) → gives (.vslide vd vs1 xs et km h) w (onActive s vd km.toNat w fun i =>
        if 0 ≤ i + count.toInt ∧ i + count.toInt < n then a (i + count.toInt).toNat else 0))) ∧
    (SettledV s vd → PresentV s vd → Present s (xs.setWidth 5) → Present s (xi.setWidth 5) →
      Answers (.vins vd xs xi et h) s fun t => WritesV s t vd w
        (fun i => if i = j then count.toNat % 2 ^ w else lane (readV (regs s) vd.toNat) w i) 0 false none) ∧
    (Settled s rd → PresentV s vs1 → Present s (xi.setWidth 5) →
      Answers (.vext rd vs1 xi et) s fun t =>
        FillsLater s t rd (if et.toNat < 4 then BitVec.ofInt 64 (signedOf w (a j)) else BitVec.ofNat 64 (a j)))

/-- 06 R176, R159: the mask operations act on all 64 bits; kpop counts the 1 bits and kfirst finds the lowest, or 64, and
both fill rd when their queue entry executes. -/
def Claims.MaskOperations : Prop :=
  ∀ (s : State) (kd ks1 ks2 : BitVec 3) (rd : BitVec 5), VqRoom s →
    let a := readK (regs s) ks1.toNat
    let b := readK (regs s) ks2.toNat
    (Answers (.kand kd ks1 ks2) s fun t => WritesK s t kd (a &&& b) 0 none) ∧
    (Answers (.kor kd ks1 ks2) s fun t => WritesK s t kd (a ||| b) 0 none) ∧
    (Answers (.kxor kd ks1 ks2) s fun t => WritesK s t kd (a ^^^ b) 0 none) ∧
    (Answers (.knot kd ks1) s fun t => WritesK s t kd (~~~a) 0 none) ∧
    (Settled s rd →
      (Answers (.kpop rd ks1) s fun t =>
        FillsLater s t rd (BitVec.ofNat 64 ((List.range 64).filter fun i => a.getLsbD i).length)) ∧
      Answers (.kfirst rd ks1) s fun t => ∃ n, n ≤ 64 ∧ FillsLater s t rd (BitVec.ofNat 64 n) ∧
        (∀ i < n, a.getLsbD i = false) ∧ (n < 64 → a.getLsbD n = true))

/-- Vector moves rearrange lanes as their tables say; mask operations act on all 64 bits. -/
def Obligations.VectorMovesAndMasks : Prop :=
  Claims.VectorMoves ∧ Claims.MaskOperations

/-! ### the matrix unit -/

/-- 07 R181, R184, R187, R191, 03 R52: a multiply waits for its registers, makes its value checks, empties its token and,
with C = 1, the operands-consumed token, and enters the core's queue with the values read at issue. A core whose launch
has MTX = 0 traps before that; a failed check traps with MXARG and the value of its register. -/
def Claims.MatrixMultiplies : Prop :=
  ∀ (s : State) (rd rs1 rs2 fs : BitVec 5) (code : Nat) (i : Instr), NoTx s →
    (code, i) ∈ [(0, Instr.mmBf16 rd rs1 rs2 fs), (1, .mmFp16 rd rs1 rs2 fs), (2, .mmE4e4 rd rs1 rs2 fs),
      (3, .mmE5e5 rd rs1 rs2 fs), (4, .mmE4e5 rd rs1 rs2 fs), (5, .mmE5e4 rd rs1 rs2 fs), (6, .mmQe4 rd rs1 rs2 fs),
      (7, .mmQbf rd rs1 rs2 fs), (8, .mmI8 rd rs1 rs2 fs), (9, .mmFp32 rd rs1 rs2 fs)] →
    let a0 := xr s rs1
    let a1 := xr s (rs1 + 1)
    let b0 := xr s rs2
    let b1 := xr s (rs2 + 1)
    let words := fun (w : Word) => if opKind w = 2 then (List.range 16).map fun j => readV (regs s) ((opAddr w + j) % 16) else []
    let x : MtxCmd := {
      id := s.nextId, ctx := s.cur, mode := (me s).mode, code := code, rd := rd.toNat, m := 0, a0 := a0, a1 := a1, b0 := b0, b1 := b1,
      va := words a0, vb := if a1.getLsbD 51 then [] else words b0, mask := BitVec.allOnes 64,
      sa := readF (regs s) fs.toNat, sb := readF (regs s) (fs.toNat + 1), rm := 0, seed := (me s).qsrseed,
      count := (regs s).qsrctr, qhbase := (me s).qhbase, window := (myCore s).qpair.toNat, order := s.nextId,
      after := commandAfter s s.turn s.cur }
    let consumed := if a1.getLsbD 56 then [rd.toNat + 1] else []
    (mtxDenied s = true → Traps i s 0x116 (BitVec.ofNat 64 (wordOfInstr i).toNat)) ∧
    (mtxDenied s = false → Present s rs1 → Present s (rs1 + 1) → Present s rs2 → Present s (rs2 + 1) → Settled s rd →
      (code ≠ 8 → FreeF s fs ∧ FreeF s (fs + 1)) →
      (mtxIsQe code = false → opKind a0 = 2 ∨ opKind b0 = 2 → ∀ r, PresentV s r) →
      (∀ w, firstBad (multiplyChecks s code rd a0 a1 b0 b1) = some w → Traps i s 0x115 w) ∧
      (firstBad (multiplyChecks s code rd a0 a1 b0 b1) = none → (a1.getLsbD 56 = true → Settled s (rd + 1)) → MqRoom s x →
        Answers i s fun t => Queues s t x (rd.toNat :: consumed)))

/-- 07 R184, R186 to R191, R194, R196: the checks of a multiply, with an operand in a scratchpad, in vector registers or a
QE8 stream, with groups and pairs, as conditions on the fields: what holds exactly when no check fails. When one fails, the register
of the first in ascending order is reported (log entry 14). -/
def Claims.MatrixChecks : Prop :=
  ∀ (s : State) (code : Nat) (rd : BitVec 5) (a0 a1 b0 b1 : Word), code ≤ 9 →
    let field := fun (w : Word) hi lo => w.toNat / 2 ^ lo % 2 ^ (hi + 1 - lo)
    let kind := fun (w : Word) => field w 55 52
    let addr := fun (w : Word) => if kind w = 1 then field w 47 0 % 2 ^ 18 else field w 47 0
    let k := field a1 43 32
    let qe := code = 6 ∨ code = 7
    let grouped := a1.getLsbD 51 = true
    let paired := a1.getLsbD 52 = true
    let n := if code < 2 then 2 else if code = 9 then 4 else 1
    let unit := if code < 2 then 8 else if code = 9 then 4 else 16
    let group := if code = 7 then 8 else unit
    let area := fun (w : Word) (bytes : Nat) => field w 63 56 = 0 ∧ kind w ≤ 1 ∧ (kind w = 1 → windowOk s (field w 47 0) = true) ∧
      addr w % 16 = 0 ∧ addr w + bytes ≤ (myCore s).spmBytes
    let pitches := fun (w : Word) => field w 31 16 % 16 = 0 ∧ field w 15 0 % 16 = 0
    let flat := fun (w : Word) => field w 31 16 = 0 ∧ field w 15 0 = 0
    let vectors := fun (w : Word) => field w 63 56 = 0 ∧ field w 51 48 = 0 ∧ field w 47 0 ≤ 15 ∧ k = group ∧ ¬ qe
    firstBad (multiplyChecks s code rd a0 a1 b0 b1) = none ↔
      field a1 63 57 = 0 ∧ field a1 47 44 = 0 ∧ field b1 63 44 = 0 ∧ field b1 43 32 = k ∧ 0 < k ∧
      (qe → k % 32 = 0) ∧ (¬ qe → k % unit = 0) ∧ ¬ (grouped ∧ paired) ∧ (paired → k % 128 = 0) ∧
      (a1.getLsbD 56 = true → rd ≠ 0 ∧ rd ≠ 31) ∧
      (kind a0 = 2 → vectors a0 ∧ flat a1) ∧
      (kind a0 ≠ 2 → qe → area a0 260 ∧ field a0 51 48 = 0 ∧ flat a1) ∧
      (kind a0 ≠ 2 → ¬ qe → area a0 (reachA a1 k n) ∧ (field a0 51 48 ≠ 0 → k % 64 = 0) ∧ pitches a1) ∧
      (grouped → area b0 1 ∧ kind b0 = 0 ∧ field b0 51 48 = 0 ∧ pitches b1) ∧
      (¬ grouped → kind b0 = 2 → vectors b0 ∧ flat b1) ∧
      (¬ grouped → kind b0 ≠ 2 → area b0 (reachB b1 (if a1.getLsbD 52 then k / 2 else k) (if code = 7 then 2 else n)) ∧ pitches b1)

/-- 07 R184, R188: the bytes that the checks take a multiply's operands to reach are those of its elements: every byte of
every element lies below that count, and one is the last of them. -/
def Claims.OperandReach : Prop :=
  ∀ (w1 : Word) (rot k n : Nat), 0 < k → n ∈ [1, 2, 4] →
    let a := fun m c b => c / 64 * opTilep w1 + m * opRowp w1 + rotPos rot n m (n * (c % 64)) + b
    let z := fun r j b => r / 64 * opTilep w1 + r % 64 * opRowp w1 + rotPos rot n (r % 64) (n * j) + b
    ((rot ≠ 0 → k % 64 = 0) →
      (∀ m < 64, ∀ c < k, ∀ b < n, a m c b < reachA w1 k n) ∧ ∃ m < 64, ∃ c < k, ∃ b < n, a m c b + 1 = reachA w1 k n) ∧
    ((∀ r < k, ∀ j < 64, ∀ b < n, z r j b < reachB w1 k n) ∧ ∃ r < k, ∃ j < 64, ∃ b < n, z r j b + 1 = reachB w1 k n)

/-- 07 R181, R199 to R207: the other matrix commands enter the queue with their descriptors, the vectors and the mask
read at issue; ma.st and la.rnd take their rounding mode from the word or from qrm; a descriptor that a check refuses
traps with MXARG and its value; a launch without the matrix unit traps before that. -/
def Claims.MatrixCommands : Prop :=
  ∀ (s : State) (rd rs1 rs2 : BitVec 5) (acc acc2 ft : BitVec 2) (rm : BitVec 3) (va vb : BitVec 4),
    NoTx s →
    (mtxDenied s = true → ∀ i ∈ [Instr.maZero rd acc, .maMv rd acc acc2, .laClr rd rs1, .hxClr rd rs1, .hxBin rd rs1 va ft,
      .laMrg rd rs1 rs2, .hxMrg rd rs1 rs2, .maLd rd acc rs1, .maSt rd acc rs1 rm, .laRnd rd rs1 ft rm, .laAdd rd rs1 va,
      .laFma rd rs1 va vb], Traps i s 0x116 (BitVec.ofNat 64 (wordOfInstr i).toNat)) ∧
    (mtxDenied s = false → Settled s rd →
    let w0 := xr s rs1
    let w1 := xr s (rs1 + 1)
    let v := xr s rs2
    let mode := if rm = 7 then (regs s).qrm.toNat else rm.toNat
    let km := w1.toNat / 16 % 8
    let cmd := fun (code : Nat) (m : Nat) (a0 a1 b0 : Word) (rm : Nat) => ({ blankMtx s code rd with
      m := m, a0 := a0, a1 := a1, b0 := b0, rm := rm } : MtxCmd)
    let enters := fun (i : Instr) (checks : List (Bool × Word)) (x : MtxCmd) =>
      (∀ w, firstBad checks = some w → Traps i s 0x115 w) ∧
      (firstBad checks = none → MqRoom s x → Answers i s fun t => Queues s t x [rd.toNat])
    let own := fun (al n : Nat) => (areaBad s w0 false false al n, w0)
    enters (.maZero rd acc) [] (cmd 16 acc.toNat 0 0 0 0) ∧
    enters (.maMv rd acc acc2) [] (cmd 19 (acc2.toNat * 4 + acc.toNat) 0 0 0 0) ∧
    (Present s rs1 →
      enters (.laClr rd rs1) [own 8 88] (cmd 20 0 w0 0 0 0) ∧
      enters (.hxClr rd rs1) [own 64 256] (cmd 26 0 w0 0 0 0) ∧
      (PresentV s va → enters (.hxBin rd rs1 va ft) [own 64 256] { cmd 25 ft.toNat w0 0 0 0 with va := [readV (regs s) va.toNat] }) ∧
      (Present s rs2 →
        enters (.laMrg rd rs1 rs2) [own 8 88, (areaBad s v true false 8 88 || partlySame s w0 v 88, v)] (cmd 24 0 w0 0 v 0) ∧
        enters (.hxMrg rd rs1 rs2) [own 64 256, (areaBad s v true false 64 256 || partlySame s w0 v 256, v)] (cmd 27 0 w0 0 v 0)) ∧
      (Present s (rs1 + 1) →
        enters (.maLd rd acc rs1) (areaChecks s false w0 w1) (cmd 17 acc.toNat w0 w1 0 0) ∧
        enters (.maSt rd acc rs1 rm) (areaChecks s true w0 w1) (cmd 18 acc.toNat w0 w1 0 mode) ∧
        enters (.laRnd rd rs1 ft rm)
          [(areaBad s w0 true false 8 88, w0), (areaBad s w1 true false (ftBytes ft.toNat) (ftBytes ft.toNat), w1)]
          (cmd 23 ft.toNat w0 w1 0 mode) ∧
        (PresentV s va →
          let lanesBad := (decide (w1.toNat / 128 ≠ 0) || decide (w1.toNat / 4 % 4 ≠ 0) || decide (w1.toNat % 4 = 3), w1)
          let sum := fun code (vb : List VWord) => { cmd code (w1.toNat % 4) w0 w1 0 0 with
            va := [readV (regs s) va.toNat], vb := vb,
            mask := if km = 0 then BitVec.allOnes 64 else readK (regs s) km }
          enters (.laAdd rd rs1 va) [own 8 88, lanesBad] (sum 22 []) ∧
          (PresentV s vb → enters (.laFma rd rs1 va vb) [own 8 88, lanesBad] (sum 21 [readV (regs s) vb.toNat]))))))

/-- Matrix instructions check their operands and queue their command with its tokens. -/
def Obligations.MatrixInstructions : Prop :=
  Claims.MatrixMultiplies ∧ Claims.MatrixChecks ∧ Claims.OperandReach ∧ Claims.MatrixCommands

/-- 11 R244: at a grant decision the first core from PTR upward whose head is eligible and has credit is granted one unit
of work; where none has credit, every credit is refilled to the core's weight first; the credit counts down, and PTR moves
past a core whose credit is spent. Where no head is eligible only the credits are cut to the weights. -/
def Claims.MatrixGrants : Prop :=
  ∀ (s : State) (o : Nat), (∀ c < 8, 0 < (getCore s (8 * o + c)).qmxw.toNat) →
    let arb := fget {} s.arb o
    let weight := fun c => (getCore s (8 * o + c)).qmxw.toNat
    let credit := fun c => min (arb.credit.getD c 1) (weight c)
    let eligible := fun c => mtxEligible s (8 * o + c) = true
    let first := fun (c : Nat) (p : Nat → Prop) =>
      c < 8 ∧ p c ∧ ∀ c' < 8, p c' → (c + 8 - arb.ptr) % 8 ≤ (c' + 8 - arb.ptr) % 8
    let granted := fun (c : Nat) (left : Nat → Nat) => Answers (.matrixGrant o) s fun t =>
      ∃ u, t = grantUnit u (8 * o + c) ∧ u = { s with arb := u.arb } ∧
        (fget {} u.arb o).ptr = (if left c = 1 then (c + 1) % 8 else c) ∧
        (∀ c' < 8, (fget {} u.arb o).credit.getD c' 1 = if c' = c then left c - 1 else left c') ∧
        ∀ o', o' ≠ o → fget {} u.arb o' = fget {} s.arb o'
    arb.ptr < 8 →
    ((∀ c < 8, ¬ eligible c) → Answers (.matrixGrant o) s fun t => t = { s with arb := t.arb } ∧
      (fget {} t.arb o).ptr = arb.ptr ∧ (∀ c < 8, (fget {} t.arb o).credit.getD c 1 = credit c) ∧
      ∀ o', o' ≠ o → fget {} t.arb o' = fget {} s.arb o') ∧
    (∀ c, first c (fun c => eligible c ∧ 0 < credit c) → granted c credit) ∧
    (∀ c, (∀ c' < 8, eligible c' → credit c' = 0) → first c eligible → granted c weight)

/-- 07 R183, R192 to R196: with its last K-step granted, a multiply that reads its operands at the selectors of its first
grant, from saved images as any agent reads them (16 R323), all at this moment (log entry 95), writes every element of the
rows that it computes, all 64 or those of its groups: groups of G exact products in
ascending k, each group added to the element and rounded once; an integer multiply adds modulo 2^32. Nothing else differs,
and the status is 0. Two paired multiplies write together, once both have had their grants, each its own A times the B of
both halves, the lower core's rows first. A fault of an operand leaves every accumulator as it is; which of several failures is
reported is log entry 93, that rows of A without a group are not read log entry 94. -/
def Claims.MultiplyResults : Prop :=
  ∀ (s : State) (k : Nat) (x : MtxCmd), headCmd s k = some x → x.code ≤ 9 → x.step + 1 = grantsOf x →
    let t := grantUnit s k
    let x' := { beginReads s k x with step := x.step + 1 }
    let w := readImages (modHead s k fun _ => x') k x'
    let v := seenBy w k x'.bound
    let same := fun (w : State) => t.mem = w.mem ∧ ∀ o, (getCore t o).spm = (getCore s o).spm
    (x.pair = none →
      (∀ gs, multiplyGroups v k x = .ok gs → operandsFail v k x gs = none →
        let rows := gs.flatMap fun g => (List.range g.2.1).map fun i => g.1 + i
        ∀ (a : Nat → Nat → Nat) (b : Nat → Nat → Nat → Nat), ReadsA v k x rows a →
          (∀ g ∈ gs, ∀ i < g.2.1, ∀ r j, b (g.1 + i) r j = elemB v k x g.2.2 (mtxElemB x.code) r j) →
          Multiplies s t k x rows a b ∧ same w) ∧
      (∀ e, multiplyResult v k x (fun w => elemB v k x w (mtxElemB x.code)) = .error e →
        t = finishHead (logFail w k x' e) k e.1)) ∧
    ∀ j y, x.pair = some j → j ≠ k → headCmd s j = some y → y.code ≤ 9 → y.pair = some k → y.step = grantsOf y → y.status = none →
      x.a1.getLsbD 51 = false → y.a1.getLsbD 51 = false →
      let w := readImages w j y
      let v := seenBy w k x'.bound
      let u := seenBy w j y.bound
      let half := opKlen x.a1 / 2
      let bk := fun r c => elemB v k x x.b0 (mtxElemB x.code) r c
      let bj := fun r c => elemB u j y y.b0 (mtxElemB x.code) r c
      let b := fun (_ : Nat) r c => if r < half then (if k < j then bk r c else bj r c) else if k < j then bj (r - half) c else bk (r - half) c
      operandsFail v k x [(0, 64, x.b0)] = none → operandsFail u j y [(0, 64, y.b0)] = none →
      ∀ ak aj : Nat → Nat → Nat, ReadsA v k x (List.range 64) ak → ReadsA u j y (List.range 64) aj →
        Multiplies s t k x (List.range 64) ak b ∧ Multiplies s t j y (List.range 64) aj b ∧ same w

/-- 07 R193: a group with a NaN, or with infinities of both signs, gives the canonical NaN; infinities of one sign give
that infinity; the order of the products never matters. -/
def Claims.GroupRounding : Prop :=
  ∀ (c : Nat) (ts : List FVal),
    let vs := decodeF fp32 c :: ts
    (vs.any FVal.isNaN = true → groupRound c ts = 0x7FC00000) ∧
    (FVal.inf false ∈ vs → FVal.inf true ∈ vs → groupRound c ts = 0x7FC00000) ∧
    (vs.any FVal.isNaN = false → ∀ neg, FVal.inf neg ∈ vs → FVal.inf (!neg) ∉ vs →
      groupRound c ts = if neg then 0xFF800000 else 0x7F800000) ∧
    ∀ ts', ts.Perm ts' → groupRound c ts = groupRound c ts'

/-- 07 R199 to R207, 09 R227, R228: what the commands that are no multiply do when the unit runs them, on own-scratchpad
objects outside remap entries: accumulators, the long accumulator as an exact integer with sticky status, its rounding,
and the saturating histograms. An operand of another core that the checks turn away fails the command. -/
def Claims.MatrixUnitResults : Prop :=
  ∀ (s : State) (k : Nat) (x : MtxCmd),
    let c := getCore s k
    let r := runOther s k x
    let d := getCore r.1 k
    let plain := fun (w : Word) n => opKind w = 0 ∧ opOffset w + n ≤ c.spmBytes ∧ ∀ j < n, remapAt c (opOffset w + j) = none
    let others := ∀ n < 4, n ≠ x.m % 4 → ∀ i < 64, ∀ j < 64, accAt d n i j = accAt c n i j
    let v := laGet s k x.a0
    let v' := laGet r.1 k x.a0
    let fails := fun (bad : Option MtxFail) => ∀ e, bad = some e → r = (logFail s k x e, e.1) ∧ e.1 = Status.accesserr
    let inRange := fun (z : Int) => -(2 ^ 639) ≤ z ∧ z < 2 ^ 639
    (x.code = 16 → r.2 = 0 ∧ others ∧ ∀ i < 64, ∀ j < 64, accAt d (x.m % 4) i j = 0) ∧
    (x.code = 19 → r.2 = 0 ∧ others ∧ ∀ i < 64, ∀ j < 64, accAt d (x.m % 4) i j = accAt c (x.m / 4) i j) ∧
    (x.code = 17 →
      let fmt := bitsOf x.a1 18 16
      let n := fmtBytes fmt
      plain x.a0 (areaReach x.a1 n) → r.2 = 0 ∧ others ∧ ∀ i < 64, ∀ j < 64, accAt d (x.m % 4) i j =
        loadElem fmt (leNat (spmRead c (opOffset x.a0 + (i * opRowp x.a1 + rotPos (opRot x.a0) n i (n * j))) n)) % 2 ^ 32) ∧
    (x.code = 18 → x.a1.getLsbD 51 = false →
      let fmt := bitsOf x.a1 18 16
      let n := fmtBytes fmt
      let elem := fun i j => storeElem fmt x.rm (srDraw x.seed (lidOf k) x.ctx x.count (64 * i + j)) (accAt c (x.m % 4) i j)
      let hoff := bitsOf x.a1 49 32
      plain x.a0 (areaReach x.a1 n) → 64 * n ≤ opRowp x.a1 →
      (x.a1.getLsbD 19 = true → (∀ j < 256, remapAt c (hoff + j) = none) ∧ hoff + 256 ≤ c.spmBytes ∧
        (hoff + 256 ≤ opOffset x.a0 ∨ opOffset x.a0 + areaReach x.a1 n ≤ hoff)) →
      r.2 = 0 ∧ (∀ n < 4, ∀ i < 64, ∀ j < 64, accAt d n i j = accAt c n i j) ∧
      (∀ i < 64, ∀ j < 64, leNat (spmRead d (opOffset x.a0 + (i * opRowp x.a1 + rotPos (opRot x.a0) n i (n * j))) n) =
        (elem i j).1 % 2 ^ (8 * n)) ∧
      (x.a1.getLsbD 19 = true → ∀ b < 64, leNat (spmRead d (hoff + 4 * b) 4) = min (leNat (spmRead c (hoff + 4 * b) 4) +
        ((List.range 4096).filter fun z => binOf (binFmt fmt) x.qhbase (elem (z / 64) (z % 64)).2 (elem (z / 64) (z % 64)).1 == b).length)
        0xFFFFFFFF)) ∧
    (x.code = 17 → fails (viewError s k x x.a0 (areaReach x.a1 (fmtBytes (bitsOf x.a1 18 16))) false)) ∧
    (x.code = 18 → x.a1.getLsbD 51 = false → fails (viewError s k x x.a0 (areaReach x.a1 (fmtBytes (bitsOf x.a1 18 16))) true)) ∧
    (x.code = 23 → fails (orFail (viewError s k x x.a0 88 false) (viewError s k x x.a1 (ftBytes x.m) true))) ∧
    (x.code = 24 → fails (viewError s k x x.b0 88 false)) ∧ (x.code = 27 → fails (viewError s k x x.b0 256 false)) ∧
    (x.code = 20 → plain x.a0 88 → r.2 = 0 ∧ v' = (0, 0)) ∧
    (x.code = 21 ∨ x.code = 22 → plain x.a0 88 →
      let sum := ((laTerms x).map fun t => match t with
        | .fin neg m e => (if neg then -1 else 1) * ((m * 2 ^ (e + 300).toNat : Nat) : Int)
        | _ => 0).sum
      r.2 = 0 ∧ v'.1 = signedOf 640 (wrapTo 640 (v.1 + sum)) ∧
      v'.2.testBit 0 = (v.2.testBit 0 || (laTerms x).any FVal.isNaN) ∧
      v'.2.testBit 1 = (v.2.testBit 1 || (laTerms x).contains (.inf false)) ∧
      v'.2.testBit 2 = (v.2.testBit 2 || (laTerms x).contains (.inf true))) ∧
    (x.code = 24 → plain x.a0 88 → plain x.b0 88 →
      let w := laGet s k x.b0
      r.2 = 0 ∧ v'.1 = signedOf 640 (wrapTo 640 (v.1 + w.1)) ∧
      v'.2 = v.2 ||| w.2 ||| (if inRange (v.1 + w.1) then 0 else 8)) ∧
    (x.code = 23 → plain x.a0 88 → plain x.a1 (ftBytes x.m) → x.m < 4 →
      let f := ftFmt x.m
      r.2 = 0 ∧ leNat (spmRead d (opOffset x.a1) (ftBytes x.m)) = (
        if v.2.testBit 0 ∨ v.2.testBit 3 ∨ (v.2.testBit 1 ∧ v.2.testBit 2) then canonicalNaN f
        else if v.2.testBit 1 then infOf f false
        else if v.2.testBit 2 then infOf f true
        else (roundTo f x.rm (srDraw x.seed (lidOf k) x.ctx x.count 0) (decide (v.1 < 0)) v.1.natAbs (-300) false).1) % 2 ^ (8 * ftBytes x.m)) ∧
    (x.code = 26 → plain x.a0 256 → r.2 = 0 ∧ ∀ b < 64, leNat (spmRead d (opOffset x.a0 + 4 * b) 4) = 0) ∧
    (x.code = 27 → plain x.a0 256 → plain x.b0 256 → r.2 = 0 ∧ ∀ b < 64,
      leNat (spmRead d (opOffset x.a0 + 4 * b) 4) =
        min (leNat (spmRead c (opOffset x.a0 + 4 * b) 4) + leNat (spmRead c (opOffset x.b0 + 4 * b) 4)) 0xFFFFFFFF) ∧
    (x.code = 25 → plain x.a0 256 → r.2 = 0 ∧ ∀ b < 64,
      leNat (spmRead d (opOffset x.a0 + 4 * b) 4) =
        min (leNat (spmRead c (opOffset x.a0 + 4 * b) 4) +
          ((lanes (x.va.headD 0) (ftBits x.m)).filter fun e => binOf (ftFmt x.m) x.qhbase false e == b).length) 0xFFFFFFFF)

/-- Multiplies, accumulator and histogram commands compute the exact results of their rules. -/
def Obligations.MatrixResults : Prop :=
  Claims.MultiplyResults ∧ Claims.GroupRounding ∧ Claims.MatrixUnitResults

/-- 07 R181, R182, R196, R197: the last unit of work runs the head command, which then waits for its completion; the
completion removes it, fills its token, and its operands-consumed token if that is still due, and the next command comes
to the head; a failure that is to be reported waits for room. Two paired multiplies may pair when they are of one launch,
cluster and tag and of different octets, and came within the window of each other; they pair when each is the other's first
comer; a mismatch fails both, and a window that has run out, by the cycles of the core's own island (20 R396), without such a
partner fails the one that waits. -/
def Claims.MatrixEvents : Prop :=
  (∀ (s : State) (k : Nat) (x : MtxCmd), headCmd s k = some x → 9 < x.code → x.step = 0 →
    ∃ u, u = modHead s k (fun x => { x with step := 1 }) ∧
      grantUnit s k = finishHead (runOther u k { x with step := 1 }).1 k (runOther u k { x with step := 1 }).2) ∧
  (∀ (s : State) (k : Nat) (x : MtxCmd) (rest : List MtxCmd) (st : Int), (getCore s k).mq = x :: rest → x.status = some st →
    let held := x.orphan = true ∧ x.rd ≠ 0 ∧ st ≠ 0 ∧ canRaise s k x.ctx = false
    (held → exec (.mtxCompletion k) s = .next s) ∧
    (¬ held → Answers (.mtxCompletion k) s fun t =>
      let u := modCore s k fun c => { c with mq := rest }
      let u := if x.rd = 0 then u else fillToken u k x.ctx x.rd 0 x.orphan st
      let u := if x.code ≤ 9 ∧ x.a1.getLsbD 56 ∧ ¬ x.told ∧ ¬ x.orphan then
        fillToken u k x.ctx (x.rd + 1) 0 false st else u
      t = raiseRetire (atPoint u k) k)) ∧
  (∀ (s : State) (k : Nat) (x : MtxCmd), headCmd s k = some x → x.code ≤ 9 → x.a1.getLsbD 56 = true → x.consumed = true →
    x.told = false → x.status = some 0 →
    Answers (.operandsConsumed k) s fun t =>
      let u := modHead s k fun x => { x with told := true }
      t = if x.orphan then u else fillToken u k x.ctx (x.rd + 1) 0 false 0) ∧
  (∀ (s : State) (k j : Nat) (x y : MtxCmd), atPairing s k = some x → atPairing s j = some y →
    (mayPair s k j = true ↔ j ≠ k ∧ clusterOf j = clusterOf k ∧ octetOf j ≠ octetOf k ∧
      (getCore s j).launch = (getCore s k).launch ∧ x.a1.toNat / 2 ^ 53 % 8 = y.a1.toNat / 2 ^ 53 % 8 ∧
      waitedFor s k x ≤ x.window + waitedFor s j y ∧ waitedFor s j y ≤ y.window + waitedFor s k x)) ∧
  (∀ (s : State) (k j : Nat) (x y : MtxCmd), atPairing s k = some x → atPairing s j = some y → mayPair s k j = true →
    let first := fun (a b : Nat) => ∀ b' v z, mayPair s a b' = true → b' ≠ b → headCmd s b = some v → headCmd s b' = some z →
      waitedFor s b' z < waitedFor s b v
    first k j → first j k → j ∈ s.cores.map (·.1) → k ∈ s.cores.map (·.1) →
    Answers (.pairing k) s fun t => t =
      if x.code = y.code ∧ opKlen x.a1 = opKlen y.a1 then
        modHead (modHead s k fun x => { x with pair := some j }) j fun y => { y with pair := some k }
      else finishHead (finishHead s k Status.pairfail) j Status.pairfail) ∧
  (∀ (s : State) (k : Nat), (∀ j, mayPair s k j = false) → exec (.pairing k) s = .next s) ∧
  ∀ (s : State) (k : Nat) (x : MtxCmd), atPairing s k = some x →
    ((∀ j, mayPair s k j = false) → x.window ≤ waitedFor s k x →
      Answers (.pairtimeout k) s fun t => t = finishHead s k Status.pairtimeout) ∧
    (waitedFor s k x < x.window → exec (.pairtimeout k) s = .next s) ∧
    ∀ j, mayPair s k j = true → j ∈ s.cores.map (·.1) → exec (.pairtimeout k) s = .next s

/-- The matrix arbiter grants, pairs and completes commands of an octet in its order. -/
def Obligations.MatrixEngine : Prop :=
  Claims.MatrixGrants ∧ Claims.MatrixEvents

/-! ### context images -/

/-- 04 R94, R95, 03 R52: ctx.save and ctx.load are illegal in U mode. A helper number that the rule does not allow is
BADCTX, and so is one that another operation names (log entry 60); an image off a 64-byte boundary is misaligned; else the
token is emptied and the operation begins, after the acquires and fences of its context (16 R317), a load with the helper
reserved. -/
def Claims.ContextImages : Prop :=
  ∀ (s : State) (rd rs1 rs2 : BitVec 5),
    let h := (xr s rs1).toNat
    let va := xr s rs2
    let op := fun load => ({
      load := load, issuer := s.cur, target := h, va := va, rd := rd.toNat, id := s.nextId, mode := (me s).mode,
      after := commandAfter s s.turn s.cur } : CtxOp)
    let begins := fun (i : Instr) (load : Bool) => Answers i s fun t =>
      (myCore t).ctxops = (myCore s).ctxops ++ [op load] ∧ t.nextId = s.nextId + 1 ∧ t.mem = s.mem ∧ t.reqs = s.reqs ∧
      me t = { me s with st := .live, regs := { emptyX (regs s) rd.toNat with pc := (regs s).pc + 4 } } ∧
      (∀ n, n ≠ s.cur → (myCore t).ctx n = if load ∧ n = h then { (myCore s).ctx n with st := .reserved } else (myCore s).ctx n) ∧
      ∀ k, k ≠ s.turn → getCore t k = getCore s k
    let saves := 1 ≤ h ∧ h ≤ 10 ∧ h ≠ s.cur ∧ ((myCore s).ctx h).st ≠ .free ∧ ((myCore s).ctx h).st ≠ .reserved ∧
      (∀ o ∈ (myCore s).ctxops, o.target ≠ h)
    let loads := 1 ≤ h ∧ h ≤ 10 ∧ ((myCore s).ctx h).st = .free
    (InMode s .u → Traps (.ctxSave rd rs1 rs2) s 2 (BitVec.ofNat 64 (wordOfInstr (.ctxSave rd rs1 rs2)).toNat) ∧
      Traps (.ctxLoad rd rs1 rs2) s 2 (BitVec.ofNat 64 (wordOfInstr (.ctxLoad rd rs1 rs2)).toNat)) ∧
    (¬ InMode s .u → NoTx s → Present s rs1 → Present s rs2 → Settled s rd →
      ((¬ saves → Traps (.ctxSave rd rs1 rs2) s 0x100 0) ∧
        (saves → va.toNat % 64 ≠ 0 → Traps (.ctxSave rd rs1 rs2) s 6 va) ∧
        (saves → va.toNat % 64 = 0 → begins (.ctxSave rd rs1 rs2) false)) ∧
      ((¬ loads → Traps (.ctxLoad rd rs1 rs2) s 0x100 0) ∧
        (loads → va.toNat % 64 ≠ 0 → Traps (.ctxLoad rd rs1 rs2) s 4 va) ∧
        (loads → h ≠ s.cur → va.toNat % 64 = 0 → begins (.ctxLoad rd rs1 rs2) true)))

/-- 12 R269: the record of a context is 1,536 bytes with every register at its place. -/
def Claims.ContextRecord : Prop :=
  ∀ (c : Context),
    let bs := recordBytes c
    let at_ := fun off n => leNat ((bs.drop off).take n)
    bs.length = 1536 ∧
    (∀ r, 1 ≤ r → r ≤ 31 → at_ (8 * r) 8 = (readX c.regs r).toNat) ∧
    (∀ r < 32, at_ (0x100 + 4 * r) 4 = (readF c.regs r).toNat) ∧
    (∀ r < 8, at_ (0x180 + 8 * r) 8 = (readK c.regs r).toNat) ∧
    (∀ r < 16, at_ (0x1C0 + 64 * r) 64 = (readV c.regs r).toNat) ∧
    at_ 0x5C0 8 = c.regs.pc.toNat ∧ at_ 0x5D0 8 = c.qsrseed.toNat ∧ at_ 0x5D8 8 = c.regs.qsrctr.toNat ∧
    at_ 0x5E8 8 = c.sepc.toNat ∧ at_ 0x5F0 8 = c.stval.toNat ∧ at_ 0x5F8 8 = c.sscratch.toNat ∧
    (c.st = .live → c.keptWait = none → at_ 0 8 = 0 ∧ at_ 0x5C8 8 = 2 ^ 61 + c.mode.code * 2 ^ 59 + c.regs.qrm.toNat * 2 ^ 56 +
      c.regs.frm.toNat * 2 ^ 53 + c.regs.fflags.toNat * 2 ^ 48 + c.regs.vpres.toNat * 2 ^ 32 + c.regs.xpres.toNat / 2 * 2)

/-- 12 R269, 04 R95: a context made from the record of another holds the same x, f, v and k registers, presence, PC,
modes, counts and S-mode registers, and nothing pending; its M-mode registers are those of reset. -/
def Claims.RecordRoundTrip : Prop :=
  ∀ (c : Context), c.regs.pc.toNat % 4 = 0 → c.st = .live → c.keptWait = none →
    let d := contextOfRecord {} (recordBytes c)
    (∀ r < 32, readX d.regs r = readX c.regs r ∧ readF d.regs r = readF c.regs r) ∧
    (∀ r < 16, readV d.regs r = readV c.regs r) ∧ (∀ r < 8, readK d.regs r = readK c.regs r) ∧
    (∀ r, 1 ≤ r → r < 32 → d.regs.xpres.getLsbD r = c.regs.xpres.getLsbD r) ∧ d.regs.vpres = c.regs.vpres ∧
    d.regs.pc = c.regs.pc ∧ d.regs.qrm = c.regs.qrm ∧ d.regs.frm = c.regs.frm ∧ d.regs.fflags = c.regs.fflags ∧
    d.regs.qsrctr = c.regs.qsrctr ∧ d.qsrseed = c.qsrseed ∧ d.qhbase = c.qhbase ∧ d.mode = c.mode ∧
    d.sepc = c.sepc ∧ d.stval = c.stval ∧ d.sscratch = c.sscratch ∧
    d.regs.xpend = 0 ∧ d.regs.vpend = 0 ∧ d.mepc = 0 ∧ d.mcause = 0 ∧ d.mtval = 0 ∧ d.mscratch = 0

/-- 04 R94, R95, 12 R257, R269: a save whose target holds or awaits a lock or has a transaction ends with CTXBUSY, the
target unchanged; it waits for the target's replies; else, after a deferred trap that the target awaits, and with the image's
lines reached, the record is in memory, the helper is free, which ends the hwaits for it, and the token is 0. A load reads the
record and the helper is live with what it holds, waiting or held where the record says so; an image of a mode above the
issuer's gives CTXBUSY and leaves the helper free; a fault gives its status, a failed access ACCESSERR. A line that must wait
leaves the operation as far as it came, and nothing begins before the accesses that the operation follows (16 R317). Which
of a target's accesses count as its replies is log entry 17, the trap before the record log entry 19. -/
def Claims.ContextTransfers : Prop :=
  ∀ (s : State) (k n : Nat) (op : CtxOp), op.target = n →
    let c := getCtx s k n
    let held := op.hostWait = true ∨ followed s k op.after = false
    ((getCore s k).ctxops.find? (fun o => o.target == n && !o.load) = some op →
      let busy := c.locks ≠ [] ∨ lockRequests c ≠ [] ∨ c.tx ≠ none
      (held → exec (.ctxSaveCompletion k n) s = .next s) ∧
      (¬ held → busy → Answers (.ctxSaveCompletion k n) s fun t => t = endCtxOp s k op Status.ctxbusy) ∧
      (¬ busy → repliesIn s k n = false → exec (.ctxSaveCompletion k n) s = .next s) ∧
      (¬ held → ¬ busy → repliesIn s k n = true →
        (∀ code, imageFault s k op .store = some code →
          Answers (.ctxSaveCompletion k n) s fun t => t = endCtxOp s k op (Status.ofCause code)) ∧
        (imageFault s k op .store = none → ∀ v, v = (match c.mode, c.deferred with
            | .u, d :: ds => modCtx (enterTrap s k n d.code d.value) k n fun c => { c with deferred := ds }
            | _, _ => s) →
          let bs := recordBytes (getCtx v k n)
          (∀ u, putLines v k op bs 24 = (.all, u) →
            Answers (.ctxSaveCompletion k n) s fun t => t = endCtxOp (wakeHwaits (modCtx u k n Context.ended) k) k op 0) ∧
          (∀ u, putLines v k op bs 24 = (.wait, u) → exec (.ctxSaveCompletion k n) s = .next u) ∧
          ∀ u, putLines v k op bs 24 = (.error, u) →
            Answers (.ctxSaveCompletion k n) s fun t => t = endCtxOp u k op Status.accesserr))) ∧
    ((getCore s k).ctxops.find? (fun o => o.target == n && o.load) = some op →
      let ends := fun (u : State) (status : Int) => Answers (.ctxLoadCompletion k n) s fun t =>
        t = endCtxOp (modCtx u k n fun c => { c with st := .free }) k op status
      (held → exec (.ctxLoadCompletion k n) s = .next s) ∧
      (¬ held → (∀ code, imageFault s k op .load = some code → ends s (Status.ofCause code)) ∧
        (imageFault s k op .load = none →
          (∀ bs u, getLines s k op op.data 24 = (.wait, bs, u) → exec (.ctxLoadCompletion k n) s = .next u) ∧
          (∀ bs u, getLines s k op op.data 24 = (.error, bs, u) → ends u Status.accesserr) ∧
          ∀ bs u, getLines s k op op.data 24 = (.all, bs, u) →
            let mode := leNat ((bs.drop 0x5C8).take 8) / 2 ^ 59 % 4
            let st := leNat ((bs.drop 0x5C8).take 8) / 2 ^ 61
            let d := contextOfRecord {} bs
            let becomes := fun (c : Context) => Answers (.ctxLoadCompletion k n) s fun t => t = endCtxOp (setCtx u k n c) k op 0
            (op.mode.code < mode → ends u Status.ctxbusy) ∧
            (mode ≤ op.mode.code → st ≠ 2 → st ≠ 3 → becomes d) ∧
            (mode ≤ op.mode.code → st = 2 → becomes (resumeRecord u k n d (leNat (bs.take 8)))) ∧
            (mode ≤ op.mode.code → st = 3 → Answers (.ctxLoadCompletion k n) s fun t =>
              t = endCtxOp (setCtx (freshValue u).2 k n { d with st := .held (freshValue u).1 }) k op 0))))

/-- ctx.save and ctx.load move a context's record of fixed layout, and round trip. -/
def Obligations.ContextTransferInstructions : Prop :=
  Claims.ContextImages ∧ Claims.ContextRecord ∧ Claims.RecordRoundTrip ∧ Claims.ContextTransfers

/-! ### fills -/

/-- 02 R24, R82, 12 R257: a reply writes the destination of its request, sets its presence and clears its pending mark;
an x register receives the loaded bytes, extended, a pair the low and the high half, a vector the lanes of the parts, or every
lane that a broadcast names. A failed request leaves the destination empty and unmarked and raises its deferred trap; a reply
to a context that has ended changes no register. Nothing else differs but the request, which is gone. The reply of lk.stat and
of pg.stat reads the lock's and the page's state at the page's home. -/
def Claims.ReplyWrites : Prop :=
  ∀ (s : State) (r : Req), findReq s r.id = some r → r.queued = false → r.ctx < 16 →
    let u := { s with reqs := s.reqs.filter fun q => q.id != r.id }
    let g := (getCtx s r.core r.ctx).regs
    let fills := fun (P : Regs → Prop) => Answers (.reply r.id) s fun t =>
      ∃ g', t = modCtx u r.core r.ctx (fun c => { c with regs := g' }) ∧ P g'
    let lanesOf := fun (g' : Regs) (d n : Nat) (at_ : Nat → Option Nat) =>
      g'.vpres.getLsbD d = true ∧ g'.vpend.getLsbD d = false ∧
      (∀ i < 64 / n, lane (readV g' d) (8 * n) i = match at_ i with
        | some v => v % 2 ^ (8 * n)
        | none => lane (readV g d) (8 * n) i) ∧
      ∀ q < 16, q ≠ d → readV g' q = readV g q
    (reqDone r = true → r.orphan = true → Answers (.reply r.id) s fun t => t = u) ∧
    (reqDone r = true → r.orphan = false → r.fail = none → r.dst = .none → Answers (.reply r.id) s fun t => t =
      modCtx u r.core r.ctx fun c => c) ∧
    (reqDone r = true → r.orphan = false → ∀ p, r.parts = [p] → r.fail = none →
      (∀ d n sg, r.dst = .x d n sg → 0 < d → d < 32 → 0 < n → n ≤ 8 → fills fun g' =>
        let low := p.res % 2 ^ (8 * n)
        g' = { g with x := g'.x, xpres := g'.xpres, xpend := g'.xpend } ∧
        readX g' d = (if sg ∧ 2 ^ (8 * n - 1) ≤ low then BitVec.ofInt 64 (low - 2 ^ (8 * n)) else BitVec.ofNat 64 low) ∧
        g'.xpres.getLsbD d = true ∧ g'.xpend.getLsbD d = false ∧
        ∀ q < 32, q ≠ d → readX g' q = readX g q ∧ g'.xpres.getLsbD q = g.xpres.getLsbD q ∧ g'.xpend.getLsbD q = g.xpend.getLsbD q) ∧
      (∀ n sg, r.dst = .x 0 n sg → fills fun g' => g' = g) ∧
      (∀ d, r.dst = .pair d → 0 < d → d < 31 → fills fun g' =>
        readX g' d = BitVec.ofNat 64 p.res ∧ readX g' (d + 1) = BitVec.ofNat 64 (p.res / 2 ^ 64) ∧
        g'.xpres.getLsbD d = true ∧ g'.xpres.getLsbD (d + 1) = true ∧
        ∀ q < 32, q ≠ d → q ≠ d + 1 → readX g' q = readX g q ∧ g'.xpres.getLsbD q = g.xpres.getLsbD q) ∧
      (∀ d n ls, r.dst = .vb d n ls → d < 16 → n ∈ [1, 2, 4, 8] → fills fun g' =>
        lanesOf g' d n fun i => if i ∈ ls then some p.res else none)) ∧
    (reqDone r = true → r.orphan = false → r.fail = none → ∀ d n, r.dst = .v d n → d < 16 → n ∈ [1, 2, 4, 8] → fills fun g' =>
      lanesOf g' d n fun i => (r.parts.find? fun p => p.lane == i).map (·.res)) ∧
    (reqDone r = true → r.orphan = false → ∀ cause value, r.fail = some (cause, value) → Answers (.reply r.id) s fun t =>
      ∃ g', t = raiseDeferred (modCtx u r.core r.ctx fun c => { c with regs := g' }) r.core r.ctx cause value ∧
        g' = { g with xpend := g'.xpend, vpend := g'.vpend, fpend := g'.fpend } ∧
        (∀ d n sg, r.dst = .x d n sg → 0 < d → d < 32 → g'.xpend.getLsbD d = false) ∧
        (∀ d, r.dst = .pair d → 0 < d → d < 31 → g'.xpend.getLsbD d = false ∧ g'.xpend.getLsbD (d + 1) = false) ∧
        (∀ d, r.dst = .f d → d < 32 → g'.fpend.getLsbD d = false) ∧
        (∀ d n, r.dst = .v d n → d < 16 → g'.vpend.getLsbD d = false) ∧
        ∀ d n ls, r.dst = .vb d n ls → d < 16 → g'.vpend.getLsbD d = false) ∧
    ∀ p d, r.parts = [p] → p.done = false → p.answer = none → r.orphan = false → r.fail = none → r.dst = .x d 8 false → 0 < d → d < 32 →
      accessError s r.core r.mode p.pa p.n (r.kind == .lockState) false = none → pageAt s p.pa = none →
      (r.kind = .pageState → fills fun g' => readX g' d = 0 ∧ g'.xpres.getLsbD d = true ∧ g'.xpend.getLsbD d = false) ∧
      (r.kind = .lockState → fills fun g' => readX g' d = lockStatus s (lineOf p.pa) r.core r.ctx ∧
        g'.xpres.getLsbD d = true ∧ g'.xpend.getLsbD d = false)

/-- 12 R257, 05 R141: a deferred trap waits at its context for the next U-mode boundary; inside a transaction it aborts
with FAULT and is not delivered, but HOMELOST, QUIESCE and WATCHDOG are delivered after the abort; a free context takes
none. -/
def Claims.DeferredTraps : Prop :=
  ∀ (s : State) (k n code : Nat) (value : Word), n < 16 →
    let c := getCtx s k n
    let t := raiseDeferred s k n code value
    let joins := fun (u : State) => modCtx u k n fun c => { c with deferred := c.deferred ++ [⟨code, value⟩] }
    (c.st = .free → t = s) ∧
    (c.st ≠ .free → c.tx = none → t = joins s) ∧
    (c.st ≠ .free → c.tx ≠ none →
      let u := abortCtx s k n 8 0 (faultAddr code value)
      t = if code = Cause.homelost ∨ code = Cause.quiesce ∨ code = Cause.watchdog then joins u else u)

/-- 06 R158, R159, 02 R20, R27, 05 R118: the head of the vector queue leaves it; it fills its x register, or lets its
access go; that of an ended or aborted instruction does nothing more. The result of fdiv.s or fsqrt.s arrives in its f register, which is free again. -/
def Claims.QueueFills : Prop :=
  (∀ (s : State) (k : Nat) (e : VqEntry) (es : List VqEntry), (getCore s k).vq = e :: es →
    let u := modCore s k fun c => { c with vq := es }
    Answers (.vectorQueueExecute k) s fun t =>
      (e.orphan = true → t = u) ∧
      (e.work = .done → t = u) ∧
      (∀ rd v, e.orphan = false → e.work = .fillX rd v → rd < 32 → ∃ g', t = modCtx u k e.ctx (fun c => { c with regs := g' }) ∧
        let g := (getCtx s k e.ctx).regs
        (∀ q < 32, readX g' q = if q = rd ∧ q ≠ 0 then v else readX g q) ∧
        (rd ≠ 0 → g'.xpres.getLsbD rd = true ∧ g'.xpend.getLsbD rd = false)) ∧
      ∀ id r, e.orphan = false → e.work = .memory id → findReq u id = some r →
        t = partsAtIssue (mapReq u id fun r => { r with queued := false }) id r.parts.length) ∧
  ∀ (s : State) (k n reg : Nat) (r : Req) (p : Part), n < 16 → reg < 32 → r.core = k → r.ctx = n → r.dst = .f reg →
    r.parts = [p] →
    s.reqs.find? (fun r => r.core == k && r.ctx == n && r.dst == .f reg && reqDone r && r.fail.isNone && !r.orphan && !r.queued) = some r →
    Answers (.fResultWritten k n reg) s fun t => ∃ g',
      t = modCtx { s with reqs := s.reqs.filter fun q => q.id != r.id } k n (fun c => { c with regs := g' }) ∧
      let g := (getCtx s k n).regs
      readF g' reg = BitVec.ofNat 32 p.res ∧ g'.fpend.getLsbD reg = false ∧
      ∀ q < 32, q ≠ reg → readF g' q = readF g q ∧ g'.fpend.getLsbD q = g.fpend.getLsbD q

/-- 04 R89, R90: an nput that no earlier one of the same two cores and no earlier access of its context holds up writes its
register on the target core and sets the presence of an x register, of a v register with FIN only; the other lanes of a v
register and the pending marks stay. A ctx.save in hand writes the lines of its image that hold the register once more if it had
written them (04 R94). A free target context, or a core that no longer runs the launch, loses it: NPUTLOST on the
issuing core. -/
def Claims.PutFills : Prop :=
  ∀ (s : State) (m : Msg) (d v : Word), findMsg s m.id = some m → m.kind = .nput d v →
    let target := m.core / 256 * 256 + d.toNat % 256
    let n := d.toNat / 2 ^ 8 % 16
    let r := d.toNat / 2 ^ 12 % 32
    let u := wakeCore (dropMsg s m.id) target
    let c := getCore u target
    let from_ := (getCore u m.core).launch
    let lost := Answers (.nputFill m.id) s fun t => t = raiseOn u m.core { code := Cause.nputlost, value := d, ctx := m.ctx % 16 }
    (nputHeld s m d = true → exec (.nputFill m.id) s = .next s) ∧
    (nputHeld s m d = false → m.ctx < 16 →
      let here := c.launch = from_ ∧ (from_ ≠ none ∨ target = m.core)
      let g := (c.ctx n).regs
      (from_ ≠ none → here → helperIsFree c n = true → lost) ∧
      (from_ ≠ none → ¬ here → savedOf u target from_ = none → lost) ∧
      (here → helperIsFree c n = false → Answers (.nputFill m.id) s fun t => ∃ g',
        t = modCore (modCtx u target n fun c => { c with regs := g' }) target
          (fun c => { c with ctxops := c.ctxops.map (resendLine n d) }) ∧ g'.xpend = g.xpend ∧ g'.vpend = g.vpend ∧ g'.pc = g.pc ∧
        (d.getLsbD 17 = false → 0 < r → readX g' r = v ∧ g'.xpres.getLsbD r = true ∧ g'.v = g.v ∧
          ∀ q < 32, q ≠ r → readX g' q = readX g q ∧ g'.xpres.getLsbD q = g.xpres.getLsbD q) ∧
        (d.getLsbD 17 = true → r < 16 → g'.x = g.x ∧ g'.xpres = g.xpres ∧
          (∀ i < 8, lane (readV g' r) 64 i = if i = d.toNat / 2 ^ 18 % 8 then v.toNat else lane (readV g r) 64 i) ∧
          (∀ q < 16, q ≠ r → readV g' q = readV g q) ∧
          ∀ q < 16, g'.vpres.getLsbD q = if q = r ∧ d.getLsbD 21 then true else g.vpres.getLsbD q)) ∧
      ∀ o : CtxOp,
        let line := if d.getLsbD 17 then 7 + r else r / 8
        (o.load = true ∨ o.target ≠ n ∨ o.pos < line → resendLine n d o = o) ∧
        (o.load = false → o.target = n → line ≤ o.pos →
          (o.hostWait = false → resendLine n d o = { o with pos := line }) ∧
          (o.hostWait = true → ∃ l, resendLine n d o = { o with redo := some l } ∧ l ≤ line)))

/-- 01 R15, R13, 04 R91: once the accesses of the ending parcel have completed, the register of a pnext receives the next
parcel's number; an ecall that has waited for them begins the rank's next parcel at the program's entry, or retires the
rank after its last one; until then nothing happens. -/
def Claims.ParcelEnds : Prop :=
  (∀ (s : State) (k : Nat) (r : Req), pendingPnext s k = some r →
    (completedBefore s k r.order = false → exec (.parcelEnd k) s = .next s) ∧
    (completedBefore s k r.order = true → r.orphan = false → r.fail = none → Answers (.parcelEnd k) s fun t =>
      t = modCtx { s with reqs := s.reqs.filter fun q => q.id != r.id } k 0 fun c => { c with regs := fillDst c.regs r.dst r.parts })) ∧
  (∀ (s : State) (k : Nat), pendingPnext s k = none →
    ((getCtx s k 0).st ≠ .parked [.accessesDone] ∨ condHolds s k 0 .accessesDone = false →
      Answers (.parcelEnd k) s fun t => t = raiseRetire s k) ∧
    ((getCtx s k 0).st = .parked [.accessesDone] → condHolds s k 0 .accessesDone = true →
    (nextParcel s k = none → Answers (.parcelEnd k) s fun t => t = retireRank (countParcel s k) k) ∧
    ∀ l p, nextParcel s k = some (l, p) → Answers (.parcelEnd k) s fun t =>
      (getCore t k).parcel = p ∧ t.mem = s.mem ∧
      let c := getCtx t k 0
      c.st = .live ∧ c.mode = .u ∧ c.regs.pc = l.entry ∧ c.tx = none ∧ c.regs.fflags = 0 ∧ c.regs.frm = 0 ∧ c.regs.qrm = 0 ∧
      c.regs.qsrctr = 0 ∧ c.qsrseed = 0 ∧ c.qhbase = 0xE2 ∧ c.regs.xpend = 0 ∧ c.regs.vpend = 0 ∧
      (∀ r < 32, readX c.regs r = if r = 2 then (getCore s k).initSp else if r = 10 then l.args
        else if r = 11 then BitVec.ofNat 64 p else if r = 12 then BitVec.ofNat 64 l.cores else 0) ∧
      (∀ r < 32, c.regs.xpres.getLsbD r = true) ∧ (∀ r < 32, readF c.regs r = 0) ∧ (∀ r < 16, readV c.regs r = 0) ∧
      (∀ r < 8, readK c.regs r = 0) ∧ ∀ n, n ≠ 0 → getCtx t k n = getCtx s k n)) ∧
  (∀ (s : State) (k : Nat) (l : Launch) (p : Nat), nextParcel s k = some (l, p) →
    p = (getCore s k).parcel + l.cores ∧ p < l.parcels ∧ some l.id = (getCore s k).launch)

/-- Replies, queue entries, puts, deferred traps and parcel ends deliver what they carry. -/
def Obligations.DeliveredResults : Prop :=
  Claims.ReplyWrites ∧ Claims.DeferredTraps ∧ Claims.QueueFills ∧ Claims.PutFills ∧ Claims.ParcelEnds

/-! ### homes -/

/-- 17 R327, R329, R331, R336, R338, 16 R314 to R317, 05 R121, R127, R129, 14 R302, 19 R363, R368: a part of an access of
main memory whose turn has come is performed at its home, or at issue where the core's L1 holds the line: once a partial line
is merged and the transactions that it conflicts with have lost their tile, it answers what it found and leaves the new value;
no other byte differs. A check that turns it away fails the request; at a page in handover, or one that holds writes, it waits
in the order of arrival; a transaction that commits, and an L2 set without a way (log entry 77), hold it back. -/
def Claims.ServedAccesses : Prop :=
  ∀ (s : State) (r : Req) (i : Nat) (p : Part) (ev : Instr), findReq s r.id = some r → r.parts[i]? = some p →
    orderAllows s r p = true → p.answer = none → redirectHolds s r i p = false → p.named = none → p.fwd = 0 →
    p.own = false → isMain p.pa = true → r.tx = false → r.kind ≠ .compute →
    let near := paPkg p.pa = pkgOf r.core ∧ p.far = false
    let line := lineOf p.pa
    let access := match r.kind with
      | .reduce _ => AccKind.reduce
      | k => if isWriteKind k then .write else .read
    let verdict := judge s r.core r.ctx false access p.pa
    let performed := fun (t : State) => Performed (mergeLine s line) t r i p
    let keeps := near ∧ r.kind ≠ .signal ∧ pageAt s p.pa = none
    (l1Hits s r p = true → r.kind ≠ .lockState → r.kind ≠ .pageState → (∃ ls c, verdict = .go ls c) →
      performed (partAtIssue s r.id i)) ∧
    ((near ∧ ev = .homeRead r.id i ∧ r.kind = .load) ∨
     (near ∧ ev = .homeWrite r.id i ∧ (r.kind = .store ∨ r.kind = .ticketGet ∨ r.kind = .ticketAdv ∨ ∃ op, r.kind = .atomic op)) ∨
     (near ∧ ev = .gsigPerform r.id ∧ r.kind = .signal ∧ i = 0) ∨
     (¬ near ∧ ev = .remoteRequest r.id i ∧ remoteSent s r.core p.pa = true ∧
      (hasArrived s r.id i p.pa = true ∨ laneBehind s r.core r.order p.pa = false) ∧ r.kind ≠ .lockState ∧ r.kind ≠ .pageState) →
      (∀ reason, partError s r p (coversWhole r line) = some reason → Answers ev s fun t =>
        t.mem = s.mem ∧ ∃ q ∈ t.reqs, q.id = r.id ∧ q.fail = some (reasonCause reason, BitVec.ofNat 64 p.va) ∧ reqDone q = true) ∧
      (partError s r p (coversWhole r line) = none →
        (pageServes s p.pa (isWriteKind r.kind) = true → (∃ ls c, verdict = .go ls c) → (keeps → l2Room s r.core line = true) →
          Answers ev s performed) ∧
        (pageServes s p.pa (isWriteKind r.kind) = true → verdict = .hold ∨ (keeps ∧ l2Room s r.core line = false) →
          exec ev s = .next s) ∧
        ∀ pg, pageAt s p.pa = some pg → pg.st = .handover ∨ (pg.st = .eftHold ∧ isWriteKind r.kind = true) →
          Answers ev s fun t => t.mem = s.mem ∧ t.reqs = s.reqs ∧ t.cores = s.cores ∧
            ∀ o, s.pages = [o] → ∃ q, t.pages = [q] ∧ (r.id, i) ∈ q.waiters ∧
              ((r.id, i) ∉ o.waiters → q.waiters = o.waiters.filter (waiterOpen s) ++ [(r.id, i)])))

/-- 16 R314, 17 R329: the event of an access that may not be performed yet, or of another kind, leaves the machine as it
is. -/
def Claims.AccessesWait : Prop :=
  ∀ (s : State) (r : Req) (i : Nat) (p : Part), findReq s r.id = some r → r.parts[i]? = some p →
    (orderAllows s r p = false ∨ p.answer ≠ none →
      ∀ ev ∈ [Instr.homeRead r.id i, .homeWrite r.id i, .homeReduce r.id i, .reductionAtL2 r.id i, .scratchpadWindowRequest r.id i,
        .remoteRequest r.id i, .fwd r.id i], exec ev s = .next s) ∧
    (r.kind ≠ .load → exec (.homeRead r.id i) s = .next s) ∧
    (r.kind = .load → exec (.homeWrite r.id i) s = .next s ∧ exec (.homeReduce r.id i) s = .next s ∧
      exec (.reductionAtL2 r.id i) s = .next s ∧ exec (.gsigPerform r.id) s = .next s)

/-- 05 R137, R138, R141, 17 R333, R336 to R339: an access of an open transaction at the home: a tile that does not fit aborts
it with CAPACITY at that tile (log entry 38); a locked line, a page that migrates and an older conflicting holder leave it the message of its abort, at the
tile, unless it has one already; a transaction that commits, or an L2 set without a way (log entry 77), holds it; else the conflicting holders lose the tile, a read sees
the transaction's own bytes over memory and its tile joins the read set; a write leaves memory as it is, its bytes are the
transaction's, and its tile joins both sets. -/
def Claims.TransactionalAccess : Prop :=
  ∀ (s : State) (r : Req) (i : Nat) (p : Part) (tx : Tx), findReq s r.id = some r → r.parts[i]? = some p →
    orderAllows s r p = true → p.answer = none → redirectHolds s r i p = false → p.named = none → p.fwd = 0 → p.own = false →
    isMain p.pa = true → r.tx = true → paPkg p.pa = pkgOf r.core → p.far = false → r.ctx < 16 → (getCtx s r.core r.ctx).tx = some tx →
    (r.kind = .load ∨ r.kind = .store ∨ ∃ op, r.kind = .atomic op) →
    let ev := if r.kind = .load then Instr.homeRead r.id i else .homeWrite r.id i
    let tile : Word := BitVec.ofNat 64 (p.va / 512 * 512)
    let verdict := judge s r.core r.ctx true (if r.kind = .load then .read else .write) p.pa
    let leaves := fun (cause : Nat) => Answers ev s fun t => t = messageAbort s r.core r.ctx cause tile
    (tileFits s r.core r.ctx (tileOf p.pa) = false → Answers ev s fun t => t = abortCtx s r.core r.ctx 2 0 tile) ∧
    (tileFits s r.core r.ctx (tileOf p.pa) = true → partError s r p (coversWhole r (lineOf p.pa)) = none →
      (∀ pg, pageAt s p.pa = some pg → pg.st = .eft ∨ pg.st = .eftHold ∨ pg.st = .handover →
        (getCtx s r.core r.ctx).abortMsg = none → (dirOf s (lineOf p.pa)).lock = false → leaves 11) ∧
      (pageAt s p.pa = none →
        ((getCtx s r.core r.ctx).abortMsg ≠ none → exec ev s = .next s) ∧
        ((getCtx s r.core r.ctx).abortMsg = none →
          ((dirOf s (lineOf p.pa)).lock = true → leaves 3) ∧
          ((dirOf s (lineOf p.pa)).lock = false →
            (l2Room s r.core (lineOf p.pa) = false ∨ verdict = .hold → exec ev s = .next s) ∧
            (l2Room s r.core (lineOf p.pa) = true → verdict = .selfAbort → leaves 1) ∧
            (l2Room s r.core (lineOf p.pa) = true → (∃ ls c, verdict = .go ls c) → (dirOf s (lineOf p.pa)).st ≠ .p →
              Answers ev s fun t => t.mem = s.mem ∧ ∃ tx', (getCtx t r.core r.ctx).tx = some tx' ∧
                let old := found s r p (specRead tx s.mem p.pa p.n)
                HasAnswer t r i p old ∧ tileOf p.pa ∈ tx'.readSet ∧
                (r.kind = .load → tx'.spec = tx.spec ∧ tx'.writeSet = tx.writeSet) ∧
                (r.kind ≠ .load → tileOf p.pa ∈ tx'.writeSet ∧
                  leNat (specRead tx' t.mem p.pa p.n) = newValue r.kind p old % 2 ^ (8 * p.n) ∧
                  ∀ a, (a < p.pa ∨ p.pa + p.n ≤ a) → specRead tx' t.mem a 1 = specRead tx s.mem a 1))))))

/-- An access whose turn has come reads and writes exactly its bytes at its home. -/
def Obligations.PerformedAccesses : Prop :=
  Claims.ServedAccesses ∧ Claims.AccessesWait ∧ Claims.TransactionalAccess

/-- 17 R329: the home's table for reads and writes by a cluster, by an agent that is no cluster, and evictions, of which one
of a partial line that the home holds for a commit waits (17 R338). -/
def Claims.HomeTransitions : Prop :=
  ∀ (s : State) (line c : Nat), c < 16 →
    let d := dirOf s line
    let st := fun t => (dirOf t line).st
    let l2 := fun t cl => l2Of t line cl
    (let t := homeRead s line (some c)
     t.mem = (if d.st = .p then (mergeLine s line).mem else s.mem) ∧ (cvOf t (line / 8)).getLsbD c = true ∧
     (d.st = .i ∨ d.st = .p → st t = .e ∧ (dirOf t line).own = c ∧ l2 t c = .e) ∧
     (d.st = .s → st t = .s ∧ l2 t c = .s) ∧
     (d.st = .e → d.own ≠ c → st t = .s ∧ l2 t c = .s ∧ (d.own < 16 → l2 s d.own = .e → l2 t d.own = .s)) ∧
     (d.st = .m → d.own ≠ c → st t = .o ∧ (dirOf t line).own = d.own ∧ l2 t c = .s ∧ (d.own < 16 → l2 s d.own = .m → l2 t d.own = .o)) ∧
     (d.st = .o → d.own ≠ c → st t = .o ∧ (dirOf t line).own = d.own ∧ l2 t c = .s) ∧
     (d.own = c → d.st = .e ∨ d.st = .m ∨ d.st = .o → dirOf t line = d)) ∧
    (let t := homeWrite s line (some c)
     st t = .m ∧ (dirOf t line).own = c ∧ l2 t c = .m ∧ (∀ x < 16, x ≠ c → l2 t x = .i) ∧ (cvOf t (line / 8)).getLsbD c = true ∧
     t.mem = (if d.st = .p then (mergeLine s line).mem else s.mem)) ∧
    (let t := homeWrite s line none
     st t = .i ∧ ∀ x < 16, l2 t x = .i) ∧
    (∀ tag, let t := homeReduce s line c tag
     st t = .p ∧ (dirOf t line).tag = tag ∧ (dirOf t line).ph.getLsbD c = true ∧ l2 t c = .p ∧
     (d.st = .p → d.tag = tag → ∀ x < 16, (dirOf t line).ph.getLsbD x = (decide (x = c) || d.ph.getLsbD x)) ∧
     (d.st ≠ .p ∨ d.tag ≠ tag → ∀ x < 16, x ≠ c → (dirOf t line).ph.getLsbD x = false ∧ l2 t x ≠ .m)) ∧
    Answers (.homeEviction c line) s fun t =>
      (l2 s c = .i ∨ (l2 s c = .p ∧ heldForCommit s (line * 64) 64 = true) → t = s) ∧
      (l2 s c ≠ .i → (l2 s c = .p → heldForCommit s (line * 64) 64 = false) → l2 t c = .i ∧
        (l2 s c = .p → (dirOf t line).ph = putBit d.ph c false) ∧
        (l2 s c ≠ .p → (d.own = c → d.st = .e ∨ d.st = .m → st t = .i) ∧ (d.own = c → d.st = .o → st t = .s) ∧
          (d.own ≠ c → dirOf t line = d)))

/-- 17 R330, R331, R335, 05 R123, 19 R369: a reduction at the home puts the line into P at its cluster, whose L2 has a way for
it (log entry 77); at the L2 it is stored, or combined with the cluster's partial; on a page that migrates it is performed at the home; a merge
folds the partials, in ascending cluster order, into memory and leaves the line without holders. Integer partials give the same
value in any order. -/
def Claims.Reductions : Prop :=
  (∀ (s : State) (r : Req) (i : Nat) (p : Part) (tag : Nat), findReq s r.id = some r → r.parts[i]? = some p →
    orderAllows s r p = true → p.answer = none → redirectHolds s r i p = false → p.named = none → p.fwd = 0 → p.own = false →
    isMain p.pa = true → r.tx = false → r.kind = .reduce tag → paPkg p.pa = pkgOf r.core → p.far = false → partError s r p false = none →
    let cl := clusterIn r.core
    let line := lineOf p.pa
    let here := (dirOf s line).st = .p ∧ (dirOf s line).tag = tag ∧ (dirOf s line).ph.getLsbD cl = true
    let verdict := judge s r.core r.ctx false .reduce p.pa
    (pageAt s p.pa = none → verdict = .hold → exec (.homeReduce r.id i) s = .next s ∧ exec (.reductionAtL2 r.id i) s = .next s) ∧
    (here → exec (.homeReduce r.id i) s = .next s) ∧ (¬ here → exec (.reductionAtL2 r.id i) s = .next s) ∧
    ∀ ls cause, verdict = .go ls cause →
      let u := abortLosers s (tileOf p.pa) cause ls
      (¬ here → pageAt s p.pa = none → l2Room s r.core line = true →
        Answers (.homeReduce r.id i) s fun t => t = homeReduce (l2Take u r.core line) line cl tag) ∧
      (¬ here → pageAt s p.pa = none → l2Room s r.core line = false → exec (.homeReduce r.id i) s = .next s) ∧
      (¬ here → pageAt s p.pa ≠ none → pageServes s p.pa true = true → Answers (.homeReduce r.id i) s fun t =>
        Performed (mergeLine s line) t r i p) ∧
      (here → Answers (.reductionAtL2 r.id i) s fun t => t.mem = s.mem ∧ ∃ q, partOf? t line cl = some q ∧ q.tag = tag ∧
        let old := (partOf? s line cl).getD { tag := tag }
        (∀ o, o ≠ p.pa % 64 → fget 0 q.elems o = fget 0 old.elems o) ∧
        fget 0 q.elems (p.pa % 64) = if fhas old.elems (p.pa % 64) then combine tag (fget 0 old.elems (p.pa % 64)) p.data
          else p.data % 2 ^ (if tag % 2 = 0 then 32 else 64))) ∧
  (∀ (s : State) (line : Nat), (dirOf s line).st = .p →
    let t := mergeLine s line
    (dirOf t line).st = .i ∧ (∀ cl < 16, (dirOf s line).ph.getLsbD cl = true → partOf? t line cl = none ∧ l2Of t line cl = .i) ∧
    t.mem = (clustersIn (dirOf s line).ph).foldl (fun m cl => match partOf? s line cl with
      | some q => applyElems m line q.tag q.elems
      | none => m) s.mem) ∧
  ∀ tag m a b : Nat, tag / 2 ≤ 2 → m < 2 ^ (if tag % 2 = 0 then 32 else 64) → a < 2 ^ (if tag % 2 = 0 then 32 else 64) →
    b < 2 ^ (if tag % 2 = 0 then 32 else 64) →
    combine tag (combine tag m a) b = combine tag (combine tag m b) a ∧
    combine tag (combine tag m a) b = combine tag m (combine tag a b)

/-- 17 R332, 12 R272, 20 R395: a probe wakes the cluster's L2, and takes a cluster that holds no line of the tile out of the
tile's vector; a probe that is not answered is sent once more, and the second time the agent is declared failed. A cluster that
the vector does not name is not probed. -/
def Claims.Probes : Prop :=
  ∀ (s : State) (cl line : Nat), cl < 16 →
    let key := line * 16 + cl
    ((cvOf s (line / 8)).getLsbD cl = false → exec (.probe cl line) s = .next s) ∧
    ((cvOf s (line / 8)).getLsbD cl = true →
    (Answers (.probe cl line) s fun t => t.mem = s.mem ∧ t.dir = s.dir ∧ t.l2 = s.l2 ∧ key ∉ t.probeMiss ∧
      (∀ x < 16, (cvOf t (line / 8)).getLsbD x =
        if x = cl ∧ ∀ j < 8, l2Of s (line / 8 * 8 + j) cl = .i then false else (cvOf s (line / 8)).getLsbD x) ∧
      (fget {} t.islands (paPkg (line * 64) * 64 + 2 * cl)).gated = false) ∧
    (key ∉ s.probeMiss → Answers (.probeTimeout cl line) s fun t => t = { s with probeMiss := s.probeMiss ++ [key] }) ∧
    (key ∈ s.probeMiss → Answers (.probeTimeout cl line) s fun t =>
      t = failCluster { s with probeMiss := s.probeMiss.filter (· != key) } (paPkg (line * 64) * 16 + cl) true))

/-- 05 R121, R145, R150, 14 R289, R302, 16 R322: an access of the own scratchpad that waited for an engine command, or of
another core's of the launch through its window, is performed at that core's port, a load by the selectors that its first lane
met: no byte of memory differs, and of the scratchpad only those written. A rank that is saved is served from its image, in
the same way, once no commit holds the bytes (17 R338), and a check that turns the access away fails it. -/
def Claims.ScratchpadPorts : Prop :=
  ∀ (s : State) (r : Req) (i : Nat) (p : Part), findReq s r.id = some r → r.parts[i]? = some p → orderAllows s r p = true →
    p.answer = none → redirectHolds s r i p = false → r.ctx < 16 → p.fwd = 0 → (p.own = true → p.far = false) → r.kind ≠ .compute → r.kind ≠ .lockState → r.kind ≠ .pageState →
    let ev := Instr.scratchpadWindowRequest r.id i
    let port := fun (k off : Nat) => Answers ev s fun t =>
      let c := getCore s k
      let bs := spmRead (if r.kind = .load then viewOf (bindTo r.bound k c) k c else c) off p.n
      t.mem = s.mem ∧ HasAnswer t r i p (readValue r.kind (found s r p bs)) ∧
      ((∀ j < p.n, remapAt c (off + j) = none) →
        (r.kind = .load → (getCore t k).spm = c.spm) ∧
        (r.kind ≠ .load → leNat (spmRead (getCore t k) off p.n) = newValue r.kind p (leNat bs) % 2 ^ (8 * p.n) ∧
          ∀ o, remapAt c o = none → (o < off ∨ off + p.n ≤ o) → spmByte (getCore t k) o = spmByte c o))
    (p.own = true → spmWaits (getCore s r.core) r.order p.pa p.n (isWriteKind r.kind) = true → exec ev s = .next s) ∧
    (p.own = true → spmWaits (getCore s r.core) r.order p.pa p.n (isWriteKind r.kind) = false → port r.core p.pa) ∧
    (p.own = false → isSpm p.pa = true → p.pa < 2 ^ 56 →
      (partRemote s r.core p = false ∨ (remoteSent s r.core p.pa = true ∧
        (hasArrived s r.id i p.pa = true ∨ laneBehind s r.core r.order p.pa = false))) →
      let k := windowCore p.pa
      let off := windowByte p.pa
      (∀ reason, partError s r p false = some reason → Answers ev s fun t => t.mem = s.mem ∧
        ∃ q ∈ t.reqs, q.id = r.id ∧ q.fail = some (reasonCause reason, BitVec.ofNat 64 p.va) ∧ reqDone q = true) ∧
      (partError s r p false = none → (getCore s k).launch = (getCore s r.core).launch → port k off) ∧
      ∀ img, partError s r p false = none → (getCore s k).launch ≠ (getCore s r.core).launch →
        savedOf s k (getCore s r.core).launch = some img →
        let c := imageRemap s img
        let at_ := fun j => imageAddr img (if r.kind = .load then viewOf (bindTo r.bound k c) k c else c) (off + j)
        (heldForCommit s (at_ 0) p.n = true → exec ev s = .next s) ∧
        (heldForCommit s (at_ 0) p.n = false → (∀ l, (dirOf s l).st ≠ .p) → Answers ev s fun t =>
          let bs := (List.range p.n).map fun j => byteAt s.mem (at_ j)
          HasAnswer t r i p (readValue r.kind (found s r p bs)) ∧
          (isWriteKind r.kind = true → (∀ j < p.n, at_ j = at_ 0 + j) →
            readLE t.mem (at_ 0) p.n = newValue r.kind p (leNat bs) % 2 ^ (8 * p.n)) ∧
          ∀ b, (isWriteKind r.kind = false ∨ ∀ j < p.n, b ≠ at_ j) → byteAt t.mem b = byteAt s.mem b))

/-- Home slices follow the table of line states; partials merge in order; probes and windows are served. -/
def Obligations.HomeSlices : Prop :=
  Claims.HomeTransitions ∧ Claims.Reductions ∧ Claims.Probes ∧ Claims.ScratchpadPorts

/-! ### instruction boundaries -/

/-- 12 R258, R259, 02 R38: with upcalls enabled and none active, the oldest waiting upcall is delivered on context 0 in U mode
outside a transaction: the upcall registers receive its PC, cause, value and fields, the PC goes to qupv.ADDR, the mode stays
U, and an interrupted wait is kept. Disabled, the cause is a precise trap, of the faulting context for a page fault, of
context 0 for any other; a context that has ended takes nothing (log entry 83). -/
def Claims.UpcallDelivery : Prop :=
  ∀ (s : State) (k : Nat) (u : UpcallRec) (us : List UpcallRec),
    let co := getCore s k
    let c := co.ctx 0
    let v := modCore s k fun c => { c with upq := us }
    let ev := Instr.upcallDelivery k
    let ready := co.preempting = false ∧ c.mode = .u ∧ c.tx = none ∧ c.st ≠ .free ∧ c.st ≠ .reserved ∧ ∀ a, c.st ≠ .held a
    co.upq = u :: us →
    (¬ ready → exec ev s = .next s) ∧
    (ready →
      (upcallsOn co = true → upcallActive co = true → exec ev s = .next s) ∧
      (upcallsOn co = true → upcallActive co = false → Answers ev s fun t =>
        let d := getCore t k
        d.upq = us ∧ d.qupepc = BitVec.ofNat 64 (c.regs.pc.toNat / 4 * 4) ∧ d.qupcause = BitVec.ofNat 64 (2 ^ 63 + u.code) ∧
        d.qupval = u.value ∧ d.qupctx.toNat = u.tag % 2 ^ 32 * 2 ^ 32 + (if u.vreg then 2 ^ 13 else 0) + u.reg % 32 * 2 ^ 8 + u.ctx % 16 ∧
        d.actSlot = u.slot ∧
        d.ctx 0 = { c with
          st := .live, keptWait := (match c.st with | .waiting w => some w | _ => c.keptWait),
          regs := { c.regs with pc := BitVec.ofNat 64 (co.qupv.toNat / 4 * 4) } } ∧
        t.mem = s.mem ∧ ∀ n, n ≠ 0 → d.ctx n = co.ctx n) ∧
      (upcallsOn co = false →
        let n := if u.code = 12 ∨ u.code = 13 ∨ u.code = 15 then u.ctx else 0
        let st := (getCtx v k n).st
        (st = .free ∨ st = .reserved → exec ev s = .next v) ∧
        (st ≠ .free → st ≠ .reserved → Answers ev s fun t => t = enterTrap (abandonWait v k n) k n u.code u.value)))

/-- 12 R257, R274: a context takes its oldest deferred trap at a boundary in U mode outside a transaction, a HOMELOST or
QUIESCE only once context 0 has taken its own: S mode is entered with the trap's code and value, sepc names the instruction
that comes next, and a parked or waiting one is abandoned, so that it issues again after the return. -/
def Claims.DeferredTrapTaken : Prop :=
  ∀ (s : State) (k n : Nat) (d : Deferred) (ds : List Deferred),
    let co := getCore s k
    let c := co.ctx n
    let base := co.stvec.toNat / 4 * 4
    let due := n < 16 ∧ c.mode = .u ∧ c.tx = none ∧ c.st ≠ .free ∧ c.st ≠ .reserved ∧ inCtxOp co n = false ∧ co.preempting = false ∧
      (n = 0 ∨ (d.code ≠ 0x131 ∧ d.code ≠ 0x135) ∨ ∀ e ∈ (co.ctx 0).deferred, e.code ≠ d.code)
    c.deferred = d :: ds →
    (¬ due → exec (.deferredTrap k n) s = .next s) ∧
    (due → Answers (.deferredTrap k n) s fun t =>
      t = enterTrap (modCtx (abandonWait s k n) k n fun c => { c with deferred := c.deferred.tail }) k n d.code d.value ∧
      t.mem = s.mem ∧
      (c.st = .live ∨ (∃ cs, c.st = .parked cs) ∨ (∃ a, c.st = .held a) → t = setCtx s k n { c with
        deferred := ds, mode := .s, st := .live, sepc := c.regs.pc, scause := putBit (BitVec.ofNat 64 d.code) 63 false,
        stval := d.value, regs := { c.regs with pc := BitVec.ofNat 64 base },
        mstatus := putBit (putBit (putBit c.mstatus 5 (c.mstatus.getLsbD 1)) 1 false) 8 false }))

/-- 20 R385, 02 R29, R30, 04 R113: an enabled pending doorbell interrupts context 0 in U mode, or in S mode with SIE: a
transaction aborts with FAULT first, SEIP is cleared, a halted core runs, its watchdog counting from then, in cycles of its
island (20 R396), and S mode is
entered with cause 9 and the interrupt bit, at stvec or its vector; a wfi is behind it. The standard CSRs' bits: log entry 3. -/
def Claims.Interrupts : Prop :=
  ∀ (s : State) (k : Nat),
    let co := getCore s k
    let c := co.ctx 0
    let due := co.mip.getLsbD 9 = true ∧ co.mie.getLsbD 9 = true ∧ c.st ≠ .free ∧ co.preempting = false ∧ co.quarantined = false ∧
      (c.mode = .u ∨ (c.mode = .s ∧ c.mstatus.getLsbD 1 = true))
    let a := abandonWait (abortCtx s k 0 Abort.fault 0 0) k 0
    (¬ due → exec (.interruptTake k) s = .next s) ∧
    (due → Answers (.interruptTake k) s fun t =>
      let d := getCore t k
      let base := (getCore a k).stvec.toNat / 4 * 4
      d.mip = putBit (getCore a k).mip 9 false ∧ d.halted = false ∧ t.mem = a.mem ∧
      d.ctx 0 = enterS (getCore a k) (passWfi (getCtx a k 0)) true 9 0 ∧
      (d.ctx 0).mode = .s ∧ (d.ctx 0).scause = BitVec.ofNat 64 (2 ^ 63 + 9) ∧ (d.ctx 0).stval = 0 ∧
      (d.ctx 0).regs.pc = BitVec.ofNat 64 (if (getCore a k).stvec.getLsbD 0 then base + 36 else base) ∧
      ∀ n, n ≠ 0 → d.ctx n = (getCore a k).ctx n) ∧
    (due → c.tx = none → (c.st = .live ∨ (∃ cs, c.st = .parked cs) ∨ c.st = .waiting .wfi) → Answers (.interruptTake k) s fun t =>
      let d := getCore t k
      let base := co.stvec.toNat / 4 * 4
      d.mip = putBit co.mip 9 false ∧ d.halted = false ∧ d.lastIssue = (if co.halted then ownCycle s k else co.lastIssue) ∧ t.mem = s.mem ∧
      (d.ctx 0).mode = .s ∧ (d.ctx 0).sepc = (if c.st = .waiting .wfi then c.regs.pc + 4 else c.regs.pc) ∧
      (d.ctx 0).mstatus.getLsbD 1 = false ∧ (d.ctx 0).mstatus.getLsbD 5 = c.mstatus.getLsbD 1 ∧
      (d.ctx 0).mstatus.getLsbD 8 = decide (c.mode = .s) ∧
      (d.ctx 0).regs = { c.regs with pc := BitVec.ofNat 64 (if co.stvec.getLsbD 0 then base + 36 else base) } ∧
      ∀ n, n ≠ 0 → d.ctx n = co.ctx n)

/-- 02 R42, 12 R255, 20 R396: with WDOG set, a core that runs a launch with a live context, and that has not issued for WDOG x
65,536 cycles of its island (the window of a yield likewise), raises WATCHDOG on context 0; the second expiry without an issue is direct containment. 04 R86: a yield ends when its
window has passed or no other context is left to issue; the yield itself has issued before. -/
def Claims.WatchdogAndYield : Prop :=
  (∀ (s : State) (k : Nat),
    let c := getCore s k
    let w := c.qcont.toNat / 2 ^ 16 % 2 ^ 24
    let due := w ≠ 0 ∧ c.launch ≠ none ∧ anyLive c = true ∧ c.halted = false ∧ c.preempting = false ∧ c.lastIssue + w * 65536 ≤ ownCycle s k
    (¬ due → exec (.watchdog k) s = .next s) ∧
    (due → c.wdogs = 0 → Answers (.watchdog k) s fun t =>
      t = raiseDeferred (modCore s k fun c => { c with wdogs := 1, lastIssue := ownCycle s k }) k 0 0x132 0) ∧
    (due → c.wdogs ≠ 0 → Answers (.watchdog k) s fun t => t = containDirect s k 0 0x132 0)) ∧
  ∀ (s : State) (k n deadline : Nat) (others : List Nat), (getCtx s k n).st = .waiting (.yield deadline others) →
    (deadline ≤ ownCycle s k ∨ others = [] → Answers (.yieldWindowEnd k n) s fun t => t = modCtx s k n fun c => { c with st := .live }) ∧
    (ownCycle s k < deadline → others ≠ [] → exec (.yieldWindowEnd k n) s = .next s)

/-- Upcalls, deferred traps, interrupts and the watchdog are taken at instruction boundaries. -/
def Obligations.InstructionBoundaries : Prop :=
  Claims.UpcallDelivery ∧ Claims.DeferredTrapTaken ∧ Claims.Interrupts ∧ Claims.WatchdogAndYield

/-- 12 R263 to R265, R273, R274: containment logs the fault and stops the cores that qcont.ESC names: the whole launch,
which fails with its first fault, the faulting core's domain, or the core. A core that is stopped has no live context and no
command but copies inside a KiB and flips in progress; once they and its issued accesses are done it has no rank, and raises
RETIRE. A quarantined core is contained, loses its registers and arrays (log entry 23), and is replaced by its spare or withdrawn. -/
def Claims.Containment : Prop :=
  (∀ (s : State) (k id : Nat) (l : Launch) (f : RecFault), (getCore s k).launch = some id → launchOf s id = some l → l.failed = none →
    (launchOf (failLaunch s id f) id).map (·.failed) = some (some f) ∧
    ∀ g, (launchOf (failLaunch (failLaunch s id f) id g) id).map (·.failed) = some (some f)) ∧
  (∀ (s : State) (k : Nat),
    let t := stopCore s k
    let c := getCore t k
    let quiet := c.cq = [] ∧ c.pubs = [] ∧ ∀ r ∈ t.reqs, r.core ≠ k ∨ 16 ≤ r.ctx
    (∀ n < 11, (c.ctx n).st = .free ∧ (c.ctx n).tx = none ∧ (c.ctx n).locks = []) ∧ c.vq = [] ∧ c.mq = [] ∧ c.ctxops = [] ∧
    (∀ x ∈ c.cq, x.started = true ∧ x.failed = false ∧ x.pos < x.goal ∧ x.cancel = true ∧ x.orphan = true) ∧
    (∀ x ∈ c.pubs, x.flipped = true) ∧ (∀ g ∈ c.gq, 16 ≤ g.ctx) ∧
    c.upq = [] ∧ c.slots = [] ∧ c.actSlot = none ∧ c.xch = none ∧ c.domset = none ∧ c.halted = false ∧
    (quiet → c.launch = none ∧ c.retiring = false ∧ c.stopping = false ∧
      ∀ id, (getCore s k).launch = some id → Sched.retire k id ∈ fget [] t.events (pkgOf k)) ∧
    (¬ quiet → c.launch = (getCore s k).launch ∧ c.retiring = c.launch.isSome ∧ c.stopping = c.launch.isSome) ∧
    c.acc = (getCore s k).acc) ∧
  (∀ (s : State) (k n code : Nat) (addr pc : Word) (id : Nat) (l : Launch),
    let c := getCore s k
    let esc := bitsOf c.qcont 11 8
    let logged := postFor s k n 2 code addr pc (BitVec.ofNat 64 esc)
    c.launch = some id → launchOf logged id = some l →
    (2 ≤ esc → escalate s k n code addr pc = stopCore logged k) ∧
    (∀ lv d, esc = 1 → c.domDepth ≠ 0 → levelAt c c.domDepth.toNat = some lv → domOf logged lv.dom = some d →
      escalate s k n code addr pc = stopRanks logged id d.members) ∧
    (esc = 0 ∨ (esc = 1 ∧ c.domDepth = 0) → escalate s k n code addr pc =
      stopCore (stopLaunch (failLaunch logged id {
        code := code, addr := addr, pc := pc, core := BitVec.ofNat 32 (lidOf k), ctx := BitVec.ofNat 32 n }) { l with place := l.place.filter (· != k) }) k)) ∧
  ∀ (s : State) (k : Nat),
    ((getCore s k).quarantined = true → exec (.quarantine k) s = .next s) ∧
    ((getCore s k).quarantined = false → Answers (.quarantine k) s fun t => t = quarantineCore s k true ∧
      let c := getCore t k
      c.spm = [] ∧ c.acc = [] ∧ c.l1 = [] ∧ c.remap = [] ∧ c.qsave = 0 ∧ c.stvec = 0 ∧ (∀ n < 16, (c.ctx n).st = .free ∧ (c.ctx n).regs = {}) ∧
      (clusterOf k ∈ s.spares → c.quarantined = true ∧ (occOf t k).absent = true) ∧
      (clusterOf k ∉ s.spares → clusterOf k ∈ t.spares ∧ c.quarantined = false))

/-! ### launches -/

/-- 11 R234 to R236, 01 R17, 20 R383, R386: the endpoint takes a LAUNCH message once, and sends the reply to a repeated one
again. It checks the packets of a queue one after the other, in order: a bad RECORD only posts an event; the first other
failure writes the record with REJECTED and its code; an accepted packet of no parcels completes at once; any other becomes a
waiting launch with a SUBMIT event; then the message is answered. The slot table is read where it lies, in a host window by
messages (log entry 76), of which the bytes that cannot be read are free values. A record or a table that a transaction or a
handover holds makes the endpoint wait; a tenant without a partition has no right RECORD. -/
def Claims.LaunchPackets : Prop :=
  (∀ (s : State) (pkg tenant queue q reqId : Nat) (w : BitVec 1024),
    let ev := Instr.launch pkg tenant queue ⟨⟨q, reqId⟩, w⟩
    (16 ≤ queue → exec ev s = .next s) ∧
    (queue < 16 → accept s pkg tenant q = none → Answers ev s fun t => t = again s pkg tenant q) ∧
    ∀ a, queue < 16 → accept s pkg tenant q = some a → Answers ev s fun t => ∃ tab, t = serveTable a.nextId
        { a with tables := a.tables ++ [tab], nextId := a.nextId + 1 } ∧
      tab = { id := a.nextId, pkg := pkg, tenant := tenant, use := .check queue q reqId w, pa := w.toNat / 2 ^ 448 % 2 ^ 64 }) ∧
  ∀ (s : State) (tab : HostTable) (queue q reqId : Nat) (w : BitVec 1024), tableById s tab.id = some tab →
    tab.use = .check queue q reqId w →
    let t := serveTable tab.id s
    let pkg := tab.pkg
    let tenant := tab.tenant
    let field := fun off n => w.toNat / 2 ^ (8 * off) % 2 ^ (8 * n)
    let record := field 0x28 8
    let slots := field 0x38 8
    let tag : Word := BitVec.ofNat 64 (field 0x30 8)
    let recordOk := record % 64 = 0 ∧ tenantMay s pkg tenant record 64 true = true
    let behind := ∃ o ∈ s.tables, o.pkg = pkg ∧ o.tenant = tenant ∧ o.id < tab.id ∧ ∃ q' r' w', o.use = .check queue q' r' w'
    let answers := fun (u : State) => t = dropTable (reply u pkg tenant q reqId 0 []) tab.id
    (behind → t = s) ∧
    (¬ behind → ¬ recordOk → answers (post s {
        pkg := pkg, tenant := tenant, type := 4, part := ((tenantPart s pkg tenant).map (·.1)).getD 0, addr := BitVec.ofNat 64 record, value := tag, value2 := BitVec.ofNat 64 queue })) ∧
    (tenantPart s pkg tenant = none → ¬ recordOk) ∧
    ∀ num p, ¬ behind → recordOk → tenantPart s pkg tenant = some (num, p) →
      let spm := field 0x18 4
      let c := field 0x10 4
      let need := if field 0x1F 1 % 2 = 1 then 8 * ((c + 7) / 8) else c
      let records := fun (u : State) (st code : Nat) => (deviceHeld u record 64 true = true → t = s) ∧
        (deviceHeld u record 64 true = false → answers (writeRecord u pkg tenant record st code tag 0 0 0xFFFFFFFF { code := 0 }))
      let rejected := fun (code : Nat) => records s 3 code
      let accepted := fun (u : State) => (field 0x14 4 = 0 → records u 1 0) ∧
        (field 0x14 4 ≠ 0 → ∃ l, answers (raiseSched { u with launches := u.launches ++ [l], nextId := u.nextId + 1 } pkg (.submit l.id)) ∧
          l.id = u.nextId ∧ l.pkg = pkg ∧ l.part = num ∧ l.tenant = tenant ∧ l.queue = queue ∧ l.cores = c ∧ l.parcels = field 0x14 4 ∧
          l.spm = spm ∧ l.entry = BitVec.ofNat 64 (field 0 8) ∧ l.args = BitVec.ofNat 64 (field 8 8) ∧ l.prio = field 0x1E 1 ∧
          l.record = record ∧ l.tag = tag ∧ l.started = false)
      let judged := fun (bs : List Byte) (u : State) =>
        (slotsOk u pkg tenant slots c bs = false → records u 3 8) ∧ (slotsOk u pkg tenant slots c bs = true → accepted u)
      let c1 := field 0x1E 1 / 8 ≠ 0 ∨ field 0x1F 1 / 2 ≠ 0 ∨ field 0x25 3 ≠ 0 ∨ field 0x48 56 ≠ 0
      let c5 := 32 * (quadsOf p.quads).length < need
      let c7 := field 0x40 8 = 0 ∨ field 0x40 8 % 64 ≠ 0 ∨ tenantMay s pkg tenant (field 0x40 8) 128 false = false ∨ field 0 8 % 4 ≠ 0
      (c1 → rejected 1) ∧
      (¬ c1 → 262144 < spm → rejected 2) ∧
      (¬ c1 → spm ≤ 262144 → spm % 16384 ≠ 0 → rejected 3) ∧
      (¬ c1 → spm ≤ 262144 → spm % 16384 = 0 →
        (c = 0 ∨ 4096 < c → rejected 4) ∧
        (0 < c → c ≤ 4096 →
          (c5 → rejected 5) ∧
          (¬ c5 → 2 < field 0x21 1 % 16 → rejected 6) ∧
          (¬ c5 → field 0x21 1 % 16 ≤ 2 →
            (c7 → rejected 7) ∧ (¬ c7 → slots = 0 → accepted s) ∧
            (¬ c7 → slots ≠ 0 →
              let seen := slots % 8 = 0 ∧ tenantMay s pkg tenant slots 16 false = true
              (¬ seen → rejected 8) ∧
              (seen → isHost slots = true → tableDone tab = false → t = askTable s tab) ∧
              (seen → isHost slots = true → tableDone tab = true → judged (tableBytes s tab).1 (tableBytes s tab).2) ∧
              (seen → isHost slots = false → slotsHeld s slots = true → t = s) ∧
              (seen → isHost slots = false → slotsHeld s slots = false →
                judged (readSlotTable s pkg tenant slots).1 (readSlotTable s pkg tenant slots).2)))))

/-- 11 R237 to R239, R242, 12 R266: the sequencer applies the events of a package in order and numbers them from one
counter. SUBMIT puts a launch in the order of waiting launches, RETIRE frees a rank, and with the last one the launch's
record, cores (log entry 57) and counter, SAVED and CTL change the occupancy map; each is followed by a distribution. An event that is not
at the head waits, and so does the last RETIRE while its record is held. -/
def Claims.Sequencer : Prop :=
  ∀ (s : State) (pkg : Nat) (e : Sched) (es : List Sched), fget [] s.events pkg = e :: es →
    let n := fget 0 s.seq pkg
    let u := { s with events := fset s.events pkg es, seq := fset s.seq pkg (n + 1) }
    (∀ id l, e = .submit id → launchOf s id = some l → Answers (.submit pkg) s fun t =>
      t = distribute (modLaunch u id fun l => { l with submit := n }) pkg l.part n) ∧
    (∀ k id, e = .retire k id → recordHeld s id = true → exec (.retire pkg) s = .next s) ∧
    (∀ k id, e = .retire k id → recordHeld s id = false → Answers (.retire pkg) s fun t =>
      let f := freeRank u k id
      (∀ l, launchOf f id = some l → l.place.length ≤ l.retired.length → l.finished = false → t = distributeFor (launchOver f l) k n) ∧
      ((∀ l, launchOf f id = some l → l.retired.length < l.place.length ∨ l.finished = true) → t = distributeFor f k n)) ∧
    (∀ k, e = .saved k true → Answers (.saved pkg) s fun t => t = distributeFor u k n) ∧
    (∀ k, e = .saved k false → Answers (.saved pkg) s fun t =>
      t = distributeFor (modOcc u k (keepSaved (stillSaved (getCore u k)))) k n) ∧
    (∀ k v np, e = .ctl k v np → Answers (.ctl pkg) s fun t =>
      t = distributeFor (modOcc u k fun o => { o with saveV := v, nopre := np }) k n) ∧
    (∀ l, let t := launchOver s l
      (∀ d ∈ t.doms, d.launch ≠ l.id) ∧ ∀ k ∈ l.place ++ l.reserved, (∀ r, (occOf t k).occ ≠ some (l.id, r)) ∧ (occOf t k).reserved ≠ some l.id) ∧
    ((∀ id, e ≠ .submit id) → exec (.submit pkg) s = .next s) ∧ ((∀ k id, e ≠ .retire k id) → exec (.retire pkg) s = .next s) ∧
    ((∀ k ok, e ≠ .saved k ok) → exec (.saved pkg) s = .next s) ∧ ((∀ k v np, e ≠ .ctl k v np) → exec (.ctl pkg) s = .next s)

/-- 11 R239: a launch is placed on the lowest units of cores of the first cluster that holds enough of them, else on the
lowest of all; units with a victim come last; rank r runs on the r-th lowest core of those taken, and the cores left over are
reserved. A victim's occupant has a lower priority, its core a valid save area and NOPRE 0, whether or not it holds ranks saved
(log entry 47), and placing there adds its occupant to them; a domain's unit has a counter left
(04 R105). Nothing behind a launch that cannot be placed is placed. -/
def Claims.Placement : Prop :=
  (∀ (s : State) (l : Launch) (cand : List Nat) (victim : Nat → Bool) (place reserved : List Nat),
    placeLaunch s l cand victim = some (place, reserved) → cand.Pairwise (· < ·) → 0 < l.cores →
    place.length = l.cores ∧ countersFor s [place] = true ∧ (place ++ reserved).Pairwise (· < ·) ∧ (∀ k ∈ place ++ reserved, k ∈ cand) ∧
    (l.mtx = true → ∀ k ∈ place ++ reserved, ∀ j < 8, k / 8 * 8 + j ∈ place ++ reserved) ∧
    (l.mtx = false → reserved = []) ∧
    ((∃ cl, l.cores ≤ (cand.filter fun k => clusterOf k == cl).length) → l.mtx = false →
      ∀ k ∈ place, ∀ k' ∈ place, clusterOf k = clusterOf k')) ∧
  (∀ (s : State) (prio k : Nat), victimCore s prio k = true → let o := occOf s k
    o.saveV = true ∧ o.nopre = false ∧ o.absent = false ∧
    ∃ id r l, o.occ = some (id, r) ∧ launchOf s id = some l ∧ l.prio < prio) ∧
  (∀ (s : State) (l : Launch) (k r id r' : Nat), (occOf s k).occ = some (id, r') →
    let o := occOf (occupy s l (some r) k) k
    o.occ = some (l.id, r) ∧ o.saved = some (id, r') ∧ o.below = (occOf s k).saved.toList ++ (occOf s k).below) ∧
  ∀ (s : State) (pkg part seq fuel : Nat) (cores : List Nat) (l : Launch) (rest : List Launch),
    waitingOf s pkg part = l :: rest → placeLaunch s l (cores.filter (freeCore s)) (fun _ => false) = none →
    placeLaunch s l (cores.filter fun k => freeCore s k || victimCore s l.prio k) (victimCore s l.prio) = none →
    placeWaiting s pkg part seq cores fuel = s

/-- 20 R389, 11 R237: a change of the partition table that the rules allow takes its place behind the events raised before
it, records the partition, gives its cores the tenant word and the windows, and takes them from the cores that it leaves (log
entry 30); any other is not made. The row has 16 windows, a way mask for each of the 16 clusters, 1 to 16 LLC ways and
weights of 1 to 255, and shares no quad with another. -/
def Claims.PartitionChange : Prop :=
  ∀ (s : State) (pkg num tenant : Nat) (quads : BitVec 128) (windows : List (BitVec 64)) (mask : List (BitVec 24)) (ways hbm ddr : Nat),
    let p : Partn := { tenant := tenant, quads := quads, windows := windows, l2mask := mask, llcWays := ways, bwHbm := hbm, bwDdr := ddr }
    let ev := Instr.part pkg num tenant quads windows mask ways hbm ddr
    let n := fget 0 s.seq pkg
    (fget [] s.events pkg ≠ [] ∨ partAllowed s pkg num p = false → exec ev s = .next s) ∧
    (partAllowed s pkg num p = true → num < 128 ∧ windows.length = 16 ∧ mask.length = 16 ∧ 1 ≤ ways ∧ ways ≤ 16 ∧
      1 ≤ hbm ∧ hbm ≤ 255 ∧ 1 ≤ ddr ∧ ddr ≤ 255 ∧
      ∀ e ∈ s.parts, e.1 / 128 = pkg → e.1 ≠ partKey pkg num → ∀ q < 128, e.2.quads.getLsbD q = true → quads.getLsbD q = false) ∧
    (fget [] s.events pkg = [] → partAllowed s pkg num p = true →
      (Answers ev s fun t => t = distribute (applyPart { s with seq := fset s.seq pkg (n + 1) } pkg num p) pkg num n) ∧
      let t := applyPart s pkg num p
      t.parts = fset s.parts (partKey pkg num) p ∧ t.mem = s.mem ∧
      ∀ q < 128, quads.getLsbD q = true → ∀ j < 32,
        let c := getCore t (pkg * 4096 + q * 32 + j)
        c.qtenant = BitVec.ofNat 64 (num * 2 ^ 16 + tenant % 2 ^ 16) ∧
        (∀ i < 16, fget 0 c.qpwin i = windows.getD i 0)) ∧
    ∀ old, s.parts.find? (fun e => e.1 == partKey pkg num) = some (partKey pkg num, old) →
      ∀ q < 128, old.quads.getLsbD q = true → quads.getLsbD q = false → ∀ j < 32,
        let c := getCore (applyPart s pkg num p) (pkg * 4096 + q * 32 + j)
        c.qtenant = 0 ∧ (∀ i < 16, fget 0 c.qpwin i = 0) ∧ (occOf (applyPart s pkg num p) (pkg * 4096 + q * 32 + j)).saveV = false

/-- Launch packets are checked in order, the sequencer numbers events, placement and partitions follow. -/
def Obligations.LaunchScheduling : Prop :=
  Claims.LaunchPackets ∧ Claims.Sequencer ∧ Claims.Placement ∧ Claims.PartitionChange

/-- 11 R240, R241, 01 R13: a rank starts on a core that has none: context 0 is live in U mode at the program's entry with
its arguments, parcel, size and stack in registers that are otherwise 0, the scratchpad, accumulators, remaps and upcall
registers are clear, the regions and the policy are those of the launch, and the core is in its launch domain, whose counter
the first rank creates; a rank without a parcel retires at once. It waits while its region block, or the slot table that the
first rank reads, is held; one in a host window is read by messages first, and its bytes are those that came (log entry
76). -/
def Claims.RankStart : Prop :=
  ∀ (s : State) (k r : Nat) (l : Launch),
    (rankToStart s k = none → exec (.rankStart k) s = .next s) ∧
    (rankToStart s k = some (l, r) →
      (∀ u, startWait s k l = some u → exec (.rankStart k) s = .next u) ∧
      (startWait s k l = none → Answers (.rankStart k) s fun t =>
        let g := regionsFor (withSlots (openDomain (wakeCore s k) l) l) k l
        t = startRank g.2 k l r g.1)) ∧
    let slots := l.slotsPa ≠ 0 ∧ l.started = true ∧ l.finished = false ∧ l.unstarted.length = l.place.length
    (isHost l.regions = false → isHost l.slotsPa = false →
      startWait s k l = if readHeld s l.regions 128 = true ∨ (slots ∧ slotsHeld s l.slotsPa = true) then some s else none) ∧
    (isHost l.regions = true →
      (findTable s (.regions k l.id) = none →
        startWait s k l = some (serveTable s.nextId (openTable s l.pkg l.tenant l.regions (.regions k l.id)))) ∧
      ∀ tab, findTable s (.regions k l.id) = some tab →
        (tableDone tab = false → startWait s k l = some s) ∧ (regionsFor s k l).1 = regionsOf (tableBytes s tab).1) ∧
    (findTable s (.regions k l.id) = none → (regionsFor s k l).1 = regionsOf (readDevice s l.pkg l.tenant 4 l.regions 128).1) ∧
    (isHost l.regions = false → readHeld s l.regions 128 = false → slots → isHost l.slotsPa = true → findTable s (.slots l.id) = none →
      startWait s k l = some (serveTable s.nextId (openTable s l.pkg l.tenant l.slotsPa (.slots l.id)))) ∧
    (¬ slots → withSlots s l = s) ∧
    (slots → findTable s (.slots l.id) = none → withSlots s l =
      loadSlots (readSlotTable s l.pkg l.tenant l.slotsPa).2 l (readSlotTable s l.pkg l.tenant l.slotsPa).1) ∧
    (∀ tab, slots → findTable s (.slots l.id) = some tab →
      withSlots s l = loadSlots (dropTable (tableBytes s tab).2 tab.id) l (tableBytes s tab).1) ∧
    (∀ bs l', launchOf s l.id = some l' → ∃ l'', launchOf (loadSlots s l bs) l.id = some l'' ∧
      l''.period = leNat (bs.take 2) ∧ l''.slots = slotEntries bs (min (leNat ((bs.drop 4).take 4)) 16384)) ∧
    (openDomain s l).doms =
      (if l.started = true ∧ l.finished = false ∧ l.unstarted.length = l.place.length then
        s.doms ++ [{ id := l.dom, launch := l.id, members := l.place, e := min l.parcels l.cores }] else s.doms) ∧
    ∀ rgn, let t := startRank s k l r rgn
    let c := getCore t k
    let x := c.ctx 0
    (r < l.parcels → c.launch = some l.id ∧ c.rank = r ∧ c.parcel = r ∧ c.spmBytes = l.spm ∧ c.spm = [] ∧ c.remap = [] ∧ c.acc = [] ∧
      c.qrgn = rgn ∧ c.qcont = l.policy &&& qcontMask ∧
      c.qlaunch = BitVec.ofNat 64 (l.prio * 2 ^ 32 + l.seq % 2 ^ 32) ∧ c.retiring = false ∧ c.stopping = false ∧
      c.qrxcnt = 0 ∧ c.qupv = 0 ∧ c.qupcause = 0 ∧ c.qupval = 0 ∧ c.qupctx = 0 ∧ c.qupepc = 0 ∧ c.domLevel = 0 ∧ c.domDepth = 0 ∧
      c.levels = [{ dom := l.dom, rank := r, size := l.cores }] ∧ c.upq = [] ∧ c.halted = false ∧
      x.st = .live ∧ x.mode = .u ∧ x.regs.pc = l.entry ∧ x.tx = none ∧ x.qsrseed = 0 ∧ x.qhbase = 0xE2 ∧ x.regs.qrm = 0 ∧
      x.regs.qsrctr = 0 ∧ x.regs.fflags = 0 ∧ x.regs.frm = 0 ∧ x.regs.xpend = 0 ∧ x.regs.vpend = 0 ∧
      (∀ i < 32, readX x.regs i = if i = 2 then c.initSp else if i = 10 then l.args
        else if i = 11 then BitVec.ofNat 64 r else if i = 12 then BitVec.ofNat 64 l.cores else 0) ∧
      (∀ i < 32, x.regs.xpres.getLsbD i = true ∧ readF x.regs i = 0) ∧ (∀ i < 16, readV x.regs i = 0) ∧ ∀ i < 8, readK x.regs i = 0) ∧
    (l.parcels ≤ r → ∃ u, t = retireRank u k ∧ (getCore u k).launch = some l.id)

/-- 12 R266, R269 to R272, 14 R303: a pre-emption stops the core at a boundary, its transactions aborted with PREEMPT and its
unpaired multiplies cancelled; once the core has drained it writes the image, leaves, and raises SAVED; without a valid save
area, or with a line of it that gives an error response, which is logged, the rank is contained with SAVEFAULT. A core that
does not run the named rank only raises SAVED. The core then serves the next occupant that it is named for, and keeps the
ranks that it has saved, the latest first (log entry 47). What must end before the boundary, such as a dom.set in flight or
a commit in hand, is log entry 31. -/
def Claims.Preemption : Prop :=
  ∀ (s : State) (k id r : Nat), (getCore s k).victimFor = some (id, r) →
    let c := getCore s k
    let base := c.qsave.toNat / 2 ^ 12 % 2 ^ 44 * 4096
    let ev := Instr.preempt k
    let fails := fun (u : State) => Answers ev s fun t => t = raiseSaved? (containDirect u k 0 0x134 (BitVec.ofNat 64 base)) k false
    (c.launch = some id →
      (c.retiring = true → exec ev s = .next s) ∧
      (c.retiring = false → c.preempting = false →
        (mayStop s k = true → Answers ev s fun t =>
          (getCore t k).preempting = true ∧ t.mem = s.mem ∧ (∀ n < 11, (getCtx t k n).tx = none) ∧ nextCtx t k = none) ∧
        (mayStop s k = false → exec ev s = .next s)) ∧
      (c.retiring = false → c.preempting = true →
        (drained s k = false ∨ areaHeld s base = true → exec ev s = .next s) ∧
        (drained s k = true → areaHeld s base = false →
          (c.qsave.getLsbD 0 = false → fails s) ∧
          (∀ e, c.qsave.getLsbD 0 = true → saveAreaError s k base (areaParts (liveCtxs c) c.spmBytes) = some e → fails (logArea s k e)) ∧
          (c.qsave.getLsbD 0 = true → saveAreaError s k base (areaParts (liveCtxs c) c.spmBytes) = none → Answers ev s fun t =>
            t = raiseSaved? (leaveCore (writeImage s k base) k id r base) k true ∧
            (getCore t k).launch = none ∧ (getCore t k).victimFor = c.victimNext.head? ∧ (getCore t k).below = savedRanks c ∧ (getCore t k).preempting = false ∧
            (∀ n < 11, (getCtx t k n).st = .free) ∧
            (∃ sr, (getCore t k).saved = some sr ∧ sr.launch = id ∧ sr.rank = r ∧ sr.base = base ∧ sr.parcel = c.parcel ∧
              sr.spmBytes = c.spmBytes ∧ sr.qsave = c.qsave) ∧
            Sched.saved k true ∈ fget [] t.events (pkgOf k))))) ∧
    (c.launch ≠ some id →
      (rankYetToStart s k id = true → exec ev s = .next s) ∧
      (rankYetToStart s k id = false → Answers ev s fun t => t = raiseSaved? s k (alreadySaved c id r)))

/-- 12 R271, R272, 14 R303, 17 R345: a saved rank that the map names as the core's occupant is restored on it once the core is
free, no grant that was parked for it has outlasted its time and no commit holds its area, from the header and the records of
the contexts that the header names; a line of them that gives an error response, which is logged, fails it. -/
def Claims.Restoring : Prop :=
  ∀ (s : State) (k : Nat) (sr : SavedRank),
    let c := getCore s k
    let due := c.launch = none ∧ c.victimFor = none ∧ c.quarantined = false ∧ areaHeld s sr.base = false ∧
      ∀ g ∈ c.parkedGrants, g.ctx / 16 = sr.num → ownCycle s k < g.deadline
    (rankToRestore s k = none → exec (.restore k) s = .next s) ∧
    (rankToRestore s k = some sr →
      sr ∈ savedRanks c ∧ (occOf s k).occ = some (sr.launch, sr.rank) ∧ sr.ending = false ∧
      let error := saveAreaError s k sr.base (areaParts (savedLive s sr.base) (savedGrant s sr.base))
      (¬ due → exec (.restore k) s = .next s) ∧
      (∀ e, due → error = some e → Answers (.restore k) s fun t => t = failRestore (logArea s k e) k sr) ∧
      (due → error = none → Answers (.restore k) s fun t => t = restoreRank (wakeCore s k) k sr)) ∧
    let d := restoreCore s k sr c
    let word := fun off => readLE s.mem (sr.base + off) 8
    d.launch = some sr.launch ∧ d.rank = sr.rank ∧ d.parcel = sr.parcel ∧ d.spmBytes = min 16 (word 0x18 / 16384) * 16384 ∧
    (∀ x ∈ savedRanks d, x ∈ savedRanks c ∧ x.num ≠ sr.num) ∧
    d.levels = restoreLevels s sr ∧ d.qsave = sr.qsave ∧ d.qupv.toNat = word 0x30 % 2 ^ 64 ∧ d.qupepc.toNat = word 0x50 % 2 ^ 64 ∧
    (∀ i < 16, (fget 0 d.qrgn i).toNat = word (0x60 + 8 * i) % 2 ^ 64) ∧
    (∀ e < 16384, (fget 0 d.acc e).toNat = readLE s.mem (sr.base + 0x6000 + 4 * e) 4 % 2 ^ 32)

/-- 02 R28, 20 R390, 11 R237: a core reset leaves context 0 live in M mode at the reset PC with every register at reset and no
rank running (where the spec gives no reset value, that of log entry 3); its saved ranks stay (log entry 32). A partition reset takes its place behind the events
raised before it: it stops the partition's cores, whose saved ranks retire with their last answered access, poisons the lines
in flight that they wrote last, takes its lines out of the caches and drops its waiting launches, and a distribution
follows. -/
def Claims.Resets : Prop :=
  (∀ (s : State) (k : Nat), Answers (.coreReset k) s fun t =>
    let c := getCore t k
    c.launch = none ∧ c.retiring = false ∧ c.qtenant = 0 ∧ c.qpwin = [] ∧ c.mtvec = 0 ∧ c.stvec = 0 ∧ c.qcont = 0 ∧ c.qsave = 0 ∧
    c.l1 = [] ∧ c.spm = [] ∧ c.acc = [] ∧ c.spmBytes = 0 ∧ c.cq = [] ∧ c.mq = [] ∧ c.vq = [] ∧ ((∀ sr ∈ savedRanks (getCore s k), sr.ending = false) → savedRanks c = savedRanks (getCore s k)) ∧
    (c.ctx 0).mode = .m ∧ (c.ctx 0).st = .live ∧ (c.ctx 0).regs = {} ∧ ∀ n, 0 < n → n < 16 → (c.ctx n).st = .free) ∧
  ∀ (s : State) (pkg num : Nat) (p : Partn), s.parts.find? (fun e => e.1 == partKey pkg num) = some (partKey pkg num, p) →
    (fget [] s.events pkg ≠ [] → exec (.partitionReset pkg num) s = .next s) ∧
    (fget [] s.events pkg = [] →
      let n := fget 0 s.seq pkg
      let u := resetPart { s with seq := fset s.seq pkg (n + 1) } pkg num p
      (Answers (.partitionReset pkg num) s fun t => t = distribute u pkg num n) ∧
      (∀ l ∈ u.launches, l.pkg = pkg → l.part = num → l.started = true) ∧ u.parts = s.parts ∧
      ∀ k ∈ coresOfPart s pkg p, (getCore u k).launch = none ∧ (∀ sr ∈ savedRanks (getCore u k), sr.ending = true) ∧ (getCore u k).spmBytes = 0 ∧
        (getCore u k).qsave = 0 ∧ (occOf u k).saveV = false)

/-- Ranks start, are pre-empted, saved, restored, contained and reset as their rules say. -/
def Obligations.RankLifecycle : Prop :=
  Claims.RankStart ∧ Claims.Preemption ∧ Claims.Restoring ∧ Claims.Containment ∧ Claims.Resets

/-! ### the host transport -/

/-- 20 R383, R386, R392: a message is performed once, while the transport runs: of an unknown tenant, of sequence 0, of one more
than 1,024 below the highest accepted, or while bring-up has not ended, it does nothing; one whose sequence has been accepted has
its kept reply sent again and does nothing else. An accepted sequence is not accepted again, whatever is replied; the reply names
the request and has a SEQ of its own, one above those before it. Without socket 20 there is no transport (log entry 28). -/
def Claims.MessagesOnce : Prop :=
  ∀ (s : State) (pkg tenant q : Nat),
    let x := sessionOf s pkg tenant
    let runs := (bootOf s pkg).stage = 6 ∧ (bootOf s pkg).stopped = false ∧ (bootOf s pkg).withheld.getLsbD 20 = false
    let ok := runs ∧ x.known = true ∧ 0 < q ∧ q ∉ x.seen ∧ x.highest ≤ q + 1024
    let t := again s pkg tenant q
    (¬ ok →
      (∀ id pa len, exec (.memrd pkg tenant ⟨q, id⟩ pa len) s = .next t) ∧ (∀ id pa d, exec (.memwr pkg tenant ⟨q, id⟩ pa d) s = .next t) ∧
      (∀ id core, exec (.doorbell pkg tenant ⟨q, id⟩ core) s = .next t) ∧ (∀ n, exec (.evread pkg tenant q n) s = .next t) ∧
      (tenant = 0 → (∀ id n k k', exec (.keyset pkg ⟨q, id⟩ n k k') s = .next t) ∧
        (∀ id n l w o, exec (.evring pkg ⟨q, id⟩ n l w o) s = .next t) ∧
        (∀ id n w wr b z, exec (.hwin pkg ⟨q, id⟩ n w wr b z) s = .next t) ∧ ∀ id n, exec (.attest pkg ⟨q, id⟩ n) s = .next t)) ∧
    (¬ (runs ∧ x.known = true ∧ q ∈ x.seen) → t = s) ∧
    (runs → x.known = true → q ∈ x.seen → t = { s with sessions := t.sessions } ∧
      sessionOf t pkg tenant = { x with replies := (sessionOf t pkg tenant).replies } ∧
      ∀ (i : Nat) (r : HostReply), x.replies[i]? = some r →
        (sessionOf t pkg tenant).replies[i]? = some (if r.asked = q then { r with sentAt := s.cycle } else r)) ∧
    (ok → ∃ a, accept s pkg tenant q = some a ∧ a.mem = s.mem ∧ a.cores = s.cores ∧
      (sessionOf a pkg tenant).highest = max x.highest q ∧ q ∈ (sessionOf a pkg tenant).seen ∧
      (∀ n, max x.highest q ≤ n + 1024 → n ∈ x.seen → n ∈ (sessionOf a pkg tenant).seen) ∧
      accept a pkg tenant q = none ∧ ∀ id status body, accept (reply a pkg tenant q id status body) pkg tenant q = none ∧
        (⟨q, x.sent + 1, id, status, body, s.cycle⟩ : HostReply) ∈ (sessionOf (reply a pkg tenant q id status body) pkg tenant).replies ∧
        (sessionOf (reply a pkg tenant q id status body) pkg tenant).sent = x.sent + 1)

/-- 20 R384, R386, 14 R301, R289: MEMRD and MEMWR of 1 to 8,192 bytes; another length is MALFORMED. The endpoint performs a
tenant's requests in the order of their sequences, each once every message before it has been accepted: one that must wait holds
those behind it. Bytes within one line of main memory that no check, page move, commit or partial stands against are read, or
written, and the reply carries them; a failed check replies its reason, with an event of the line that it refused. Of two ranks
on a core it reaches the running one (log entry 85); another tenant's scratchpad is NOTLAUNCH (log entry 51). -/
def Claims.HostMemory : Prop :=
  (∀ (s a : State) (pkg tenant q id pa len : Nat) (d : List (BitVec 8)), accept s pkg tenant q = some a →
    let sent := fun (t : State) (status : Nat) (body : List Byte) =>
      ∃ r ∈ (sessionOf t pkg tenant).replies, r.asked = q ∧ r.reqId = id ∧ r.status = status ∧ r.body = body
    let plain := fun (w : Bool) (n : Nat) => pa % 64 + n ≤ 64 ∧ endpointError a pkg tenant pa n w (w && n == 64) = none ∧
      isMain pa = true ∧ pageAt a pa = none ∧ heldForCommit a pa n = false ∧ (dirOf a (lineOf pa)).st ≠ .p
    let first := (sessionOf a pkg tenant).pend = [] ∧ ∀ n, (sessionOf a pkg tenant).highest ≤ n + 1024 → 0 < n → n < q →
      n ∈ (sessionOf a pkg tenant).seen
    let queued := fun (r : HostReq) => serveHost pkg tenant (modSession a pkg tenant fun x => { x with pend := queueRequest r x.pend })
    let rdOk := 0 < len ∧ len ≤ 8192
    let wrOk := 0 < d.length ∧ d.length ≤ 8192
    (¬ rdOk → Answers (.memrd pkg tenant ⟨q, id⟩ pa len) s fun t => t = reply a pkg tenant q id 0x100 []) ∧
    (¬ wrOk → Answers (.memwr pkg tenant ⟨q, id⟩ pa d) s fun t => t = reply a pkg tenant q id 0x100 []) ∧
    (rdOk → exec (.memrd pkg tenant ⟨q, id⟩ pa len) s = .next (queued ⟨q, id, pa, len, none⟩)) ∧
    (wrOk → exec (.memwr pkg tenant ⟨q, id⟩ pa d) s = .next (queued ⟨q, id, pa, d.length, some d⟩)) ∧
    (rdOk → plain false len → (sessionOf a pkg tenant).seen.Nodup → first → Answers (.memrd pkg tenant ⟨q, id⟩ pa len) s fun t =>
      sent t 0 (getBytes s.mem pa len) ∧ t.mem = s.mem) ∧
    (wrOk → plain true d.length → (sessionOf a pkg tenant).seen.Nodup → first → Answers (.memwr pkg tenant ⟨q, id⟩ pa d) s fun t =>
      sent t 0 [] ∧ t.mem = putBytes s.mem pa d)) ∧
  (∀ (s : State) (pkg tenant : Nat) (q : HostReq) (rest : List HostReq),
    let x := sessionOf s pkg tenant
    let u := setSession s pkg tenant { x with pend := rest }
    let rd := endpointRead u pkg tenant (q.len / 64 + 2) q.pa q.len
    let t := serveHost pkg tenant s
    (x.pend = [] → t = s) ∧
    (x.pend = q :: rest → inOrder x q.seq = false → t = s) ∧
    (x.pend = q :: rest → inOrder x q.seq = true →
      (q.data = none →
        (rd.1 = .ok → t = reply rd.2.2 pkg tenant q.seq q.reqId 0 rd.2.1) ∧
        (∀ pa r, rd.1 = .error pa r →
          t = reply (logEndpoint rd.2.2 pkg tenant pa r 1) pkg tenant q.seq q.reqId (reasonCode r) []) ∧
        (rd.1 = .wait → t = s)) ∧
      ∀ d, q.data = some d →
        let wr := endpointWrite u pkg tenant (q.len / 64 + 2) q.pa d
        (wr.1 = .ok → t = reply wr.2 pkg tenant q.seq q.reqId 0 []) ∧
        (∀ pa r, wr.1 = .error pa r →
          t = reply (logEndpoint wr.2 pkg tenant pa r 2) pkg tenant q.seq q.reqId (reasonCode r) []) ∧
        (wr.1 = .wait → t = s)) ∧
    (x.seen.Nodup → (inOrder x q.seq = true ↔ ∀ n, x.highest ≤ n + 1024 → 0 < n → n < q.seq → n ∈ x.seen)) ∧
    (∀ p, p ∈ queueRequest q rest ↔ p = q ∨ p ∈ rest) ∧
    (rest.Pairwise (fun a b => a.seq ≤ b.seq) → (queueRequest q rest).Pairwise fun a b => a.seq ≤ b.seq)) ∧
  ∀ (s : State) (pkg tenant pa len : Nat), pa < 2 ^ 56 → paSpace pa = 2 → paPkg pa = pkg → s.pkgs.contains pkg = true →
    windowCheck (tenantWindows s pkg tenant) pa len false = none → paOff pa < 2 ^ 30 → spmWithheld s pa = false →
    (endpointError s pkg tenant pa len false false = none ↔
      tenantOf (getCore s (windowCore pa)) = tenant ∧ ∃ r, (rankOn s (windowCore pa)).head? = some r ∧ windowByte pa + len ≤ r.2)

/-- 20 R384, R385, R391: a doorbell of a core in the tenant's partitions sets SEIP, of context 0's core, or of the save area
where the core holds a saved rank (log entry 50); any other is discarded and logged with NOTLAUNCH (log entry 51). EVREAD moves
the read index of the tenant's ring to one of its posted events (log entry 33). -/
def Claims.DoorbellsAndEvents : Prop :=
  ∀ (s a : State) (pkg tenant q id core : Nat), accept s pkg tenant q = some a →
    let k := pkg * 4096 + core
    let own := core < 4096 ∧ ∃ e ∈ s.parts, e.1 / 128 = pkg ∧ e.2.tenant = tenant ∧ e.2.quads.getLsbD (core / 32) = true
    let sent := fun (t : State) (status : Nat) =>
      ∃ r ∈ (sessionOf t pkg tenant).replies, r.asked = q ∧ r.reqId = id ∧ r.status = status ∧ r.body = []
    (own → Answers (.doorbell pkg tenant ⟨q, id⟩ core) s fun t =>
      let c := getCore s k
      t.mem = s.mem ∧ sent t 0 ∧ (∀ k', k' ≠ k → getCore t k' = getCore s k') ∧
      (c.saved = none → getCore t k = { c with mip := putBit c.mip 9 true }) ∧
      (∀ r, c.saved = some r → getCore t k = { c with saved := some { r with seip := true } })) ∧
    (¬ own → Answers (.doorbell pkg tenant ⟨q, id⟩ core) s fun t => t.cores = s.cores ∧ t.mem = s.mem ∧ sent t 6 ∧
      (fhas s.rings (ringKey pkg tenant) = false → ∃ e ∈ t.evlog, e.pkg = pkg ∧ e.tenant = tenant ∧ e.type = 1 ∧ e.code = 6 ∧ e.core = BitVec.ofNat 32 core)) ∧
    ∀ n, let r := fget { log2n := 0, window := 0, offset := 0 } s.rings (ringKey pkg tenant)
      fhas s.rings (ringKey pkg tenant) = true → Answers (.evread pkg tenant q n) s fun t => t.mem = s.mem ∧ t.cores = s.cores ∧
        (∀ m, r.written - 2 ^ r.log2n ≤ m → m ≤ r.written → r.log2n ≤ 20 → n % 2 ^ 32 = m % 2 ^ 32 →
          fget { log2n := 0, window := 0, offset := 0 } t.rings (ringKey pkg tenant) = { r with read := m }) ∧
        ∀ k', k' ≠ ringKey pkg tenant → fget r t.rings k' = fget r s.rings k'

/-- 20 R386, R387, R391, R393, R394: KEYAGREE is performed only under the operator's signature of a fresh sequence, while the
transport runs; KEYSET gives a tenant its keys and posts DEGRADED for every withheld die, with the first address that it takes
along, and for every withheld DDR-5 channel; EVRING and HWIN record a ring and a host window, a ring's LOG2N 6 to 20, a window 0
to 63; ATTEST replies the signed report of 512 bytes, in which a socket is authenticated, withheld or absent. -/
def Claims.Management : Prop :=
  (∀ (s : State) (pkg q id : Nat) (pub : BitVec 256) (sig : BitVec 512),
    let x := sessionOf s pkg 0
    let signed := Config.operatorVerify pkg (leBytes 64 (Config.sha512 (leBytes 32 pub.toNat ++ leBytes 8 q)).toNat) sig = true
    let runs := (bootOf s pkg).stage = 6 ∧ (bootOf s pkg).stopped = false ∧ (bootOf s pkg).withheld.getLsbD 20 = false
    let fresh := 0 < q ∧ q ∉ x.seen ∧ x.highest ≤ q + 1024
    (¬ signed ∨ ¬ runs → exec (.keyagree pkg ⟨q, id⟩ pub sig) s = .next s) ∧
    (signed → runs → ¬ fresh → exec (.keyagree pkg ⟨q, id⟩ pub sig) s = .next (again s pkg 0 q)) ∧
    (signed → runs → fresh → Answers (.keyagree pkg ⟨q, id⟩ pub sig) s fun t =>
      let y := sessionOf t pkg 0
      y.known = true ∧ y.h2d = Config.managementKey pkg q pub false ∧ y.d2h = Config.managementKey pkg q pub true ∧
      t.mem = s.mem ∧ t.cores = s.cores ∧ (∃ r ∈ y.replies, r.asked = q ∧ r.reqId = id ∧ r.status = 0 ∧ r.body.length = 96))) ∧
  ∀ (s a : State) (pkg q id : Nat), accept s pkg 0 q = some a →
    let bad := fun (ev : Instr) => Answers ev s fun t => t = reply a pkg 0 q id 0x100 []
    (∀ (n : Nat) (k k' : BitVec 256), 0 < n → n < 65536 → (bootOf s pkg).withheld = 0 → (bootOf s pkg).channels = 0 →
      Answers (.keyset pkg ⟨q, id⟩ n k k') s fun t =>
        sessionOf t pkg n = { sessionOf s pkg n with known := true, h2d := k, d2h := k' } ∧ t.evlog = s.evlog ∧
        (∃ r ∈ (sessionOf t pkg 0).replies, r.asked = q ∧ r.reqId = id ∧ r.status = 0) ∧ t.mem = s.mem ∧ t.cores = s.cores) ∧
    (∀ (n i : Nat) (k k' : BitVec 256), n < 65536 → fhas s.rings (ringKey pkg n) = false →
      (i < 23 → (bootOf s pkg).withheld.getLsbD i = true → Answers (.keyset pkg ⟨q, id⟩ n k k') s fun t =>
        ∃ e ∈ t.evlog, e.pkg = pkg ∧ e.tenant = n ∧ e.type = 12 ∧ e.code = i ∧
          (4 ≤ i → i < 12 → e.addr = BitVec.ofNat 64 (pkg * 2 ^ 48 + (i - 4) * 1024)) ∧
          (12 ≤ i → i < 20 → e.addr = BitVec.ofNat 64 (pkg * 2 ^ 48 + (i - 12) * 0xC00000000))) ∧
      (i < 12 → (bootOf s pkg).channels.getLsbD i = true → Answers (.keyset pkg ⟨q, id⟩ n k k') s fun t =>
        ∃ e ∈ t.evlog, e.pkg = pkg ∧ e.tenant = n ∧ e.type = 12 ∧ e.addr = BitVec.ofNat 64 (pkg * 2 ^ 48 + 2 ^ 44 + i * 0x4000000000))) ∧
    (∀ n l w o, (l < 6 ∨ 20 < l ∨ 63 < w → bad (.evring pkg ⟨q, id⟩ n l w o)) ∧
      (6 ≤ l → l ≤ 20 → w ≤ 63 → Answers (.evring pkg ⟨q, id⟩ n l w o) s fun t =>
        fget { log2n := 0, window := 0, offset := 0 } t.rings (ringKey pkg (n % 65536)) =
          { log2n := l, window := w, offset := o, written := 0, read := 0, lost := 0 } ∧ t.mem = s.mem)) ∧
    (∀ n w wr b z, (63 < w → bad (.hwin pkg ⟨q, id⟩ n w wr b z)) ∧
      (w ≤ 63 → Answers (.hwin pkg ⟨q, id⟩ n w wr b z) s fun t => t.mem = s.mem ∧
        hostWindow t pkg (n % 65536) w = some { pkg := pkg, tenant := n % 65536, window := w, wr := wr, base := b, size := z } ∧
        ∀ p' n' w', (p' ≠ pkg ∨ n' ≠ n % 65536 ∨ w' ≠ w) → hostWindow t p' n' w' = hostWindow s p' n' w')) ∧
    ∀ nonce, Answers (.attest pkg ⟨q, id⟩ nonce) s fun t => t.mem = s.mem ∧ t.cores = s.cores ∧
      ∃ r ∈ (sessionOf t pkg 0).replies, r.asked = q ∧ r.reqId = id ∧ r.status = 0 ∧ r.body.length = 512 ∧
        leNat (r.body.take 4) = 1 ∧ leNat ((r.body.drop 4).take 4) = (bootOf s pkg).degrade.toNat ∧
        leNat ((r.body.drop 8).take 8) = pkg % 2 ^ 64 ∧ leNat ((r.body.drop 0x128).take 32) = nonce.toNat ∧
        (pkg < 256 → ∀ i < 23, (leNat ((r.body.drop (0x70 + 8 * i)).take 8)) / 2 ^ 56 % 256 =
          if (bootOf s pkg).absent.getLsbD i = true then 2 else if (bootOf s pkg).withheld.getLsbD i = true then 1 else 0) ∧
        leNat (r.body.drop 0x1C0) = (Config.deviceSign pkg (leBytes 64 (Config.sha512 (r.body.take 0x1C0)).toNat)).toNat

/-- Host messages are performed once, check the tenant's windows and reply as their table says. -/
def Obligations.HostTransport : Prop :=
  Claims.MessagesOnce ∧ Claims.HostMemory ∧ Claims.DoorbellsAndEvents ∧ Claims.Management

/-! ### host windows -/

/-- 20 R383, R386 to R388, 03 R57: a load or store of space 0x8 leaves an HRD or HWR message, an atomic, by the proxy core in
order, an HATOMIC (the codes of reductions, signals and tickets: log entry 22), once the window allows it; an offset beyond the
window is ABSENT, a write without permission inside it READONLY. The host's reply, a message accepted once by its SEQ, completes
the access with the bytes read; a status other than 0 is an error response (log entry 99); a write that waits for the
acknowledgement then leaves. A message that 100 us have not seen acknowledged is sent again under its sequence. -/
def Obligations.HostWindows : Prop :=
  (∀ (s : State) (r : Req) (i : Nat) (p : Part), findReq s r.id = some r → r.parts[i]? = some p → orderAllows s r p = true →
    p.own = false → p.sent = false → isHost p.pa = true → r.kind = .load ∨ r.kind = .store →
    let t := partAtIssue s r.id i
    let error := accessError s r.core r.mode p.pa p.n (isWriteKind r.kind) false
    (∀ reason, error = some reason → t = errorPart s r p reason) ∧
    (error = none → t.mem = s.mem ∧ t.cores = s.cores ∧ (∃ r', findReq t r.id = some r' ∧ r'.parts[i]? = some { p with sent := true }) ∧
      ∃ m, t.hostq = s.hostq ++ [m] ∧ m.type = (if r.kind = .load then 0x10 else 0x11) ∧
        m.pkg = pkgOf r.core ∧ m.tenant = tenantOf (getCore s r.core) ∧ m.window = paOff p.pa / 2 ^ 38 ∧
        m.offset = paOff p.pa % 2 ^ 38 ∧ m.len = p.n ∧ m.req = some (r.id, i) ∧
        m.seq = (sessionOf s m.pkg m.tenant).sent + 1 ∧ (r.kind = .store → m.data = leBytes p.n p.data))) ∧
  (∀ (s : State) (k pa n : Nat) (w : Bool), pa < 2 ^ 56 → isHost pa = true → paPkg pa = pkgOf k → s.pkgs.contains (pkgOf k) = true →
    let h := hostWindow s (pkgOf k) (tenantOf (getCore s k)) (paOff pa / 2 ^ 38)
    (h = none → accessError s k .m pa n w false = some Reason.absent) ∧
    ∀ x, h = some x →
      (x.size < paOff pa % 2 ^ 38 + n → accessError s k .m pa n w false = some Reason.absent) ∧
      (paOff pa % 2 ^ 38 + n ≤ x.size →
        accessError s k .m pa n w false = if w = true ∧ x.wr = false then some Reason.readonly else none)) ∧
  (∀ (s : State) (r : Req) (i : Nat) (p : Part), findReq s r.id = some r → r.parts[i]? = some p → orderAllows s r p = true →
    p.answer = none → p.own = false → p.sent = false → p.done = false → isHost p.pa = true →
    (∀ j < i, ∀ o, r.parts[j]? = some o → (isHost o.pa && !o.own && !o.done && !o.sent) = false) →
    ∀ op n v, hostAtomic r.kind p = some (op, p.pa, n, v) →
    (proxyBehind s r p = true → exec (.proxyAtomic r.id) s = .next s) ∧
    (proxyBehind s r p = false →
      (∀ reason, accessError s r.core r.mode p.pa p.n true false = some reason →
      Answers (.proxyAtomic r.id) s fun t => t = errorPart s r p reason) ∧
    (accessError s r.core r.mode p.pa p.n true false = none → Answers (.proxyAtomic r.id) s fun t => ∃ m, t.hostq = s.hostq ++ [m] ∧
      m.type = 0x12 ∧ m.op = op ∧ m.pkg = pkgOf r.core ∧ m.tenant = tenantOf (getCore s r.core) ∧
      m.window = paOff p.pa / 2 ^ 38 ∧ m.offset = paOff p.pa % 2 ^ 38 ∧ m.len = n ∧ leNat m.data = v % 2 ^ 128 ∧
      leNat m.cmp = p.cmp % 2 ^ 128 ∧ m.req = some (r.id, i) ∧ t.mem = s.mem))) ∧
  (∀ (s : State) (m : HostMsg) (q status : Nat) (d : List (BitVec 8)), findHost s m.id = some m →
    (accept s m.pkg m.tenant q = none → exec (.hostReply m.id ⟨q, status, d⟩) s = .next s) ∧
    ∀ a, accept s m.pkg m.tenant q = some a →
      let u := { a with hostq := s.hostq.filter fun x => x.id != m.id }
      (replyWhole m status d = false → exec (.hostReply m.id ⟨q, status, d⟩) s = .next a) ∧
      (replyWhole m status d = true → Answers (.hostReply m.id ⟨q, status, d⟩) s fun t => t = hostDone u m status d ∧
        (∀ rid i r p, m.req = some (rid, i) → findReq s rid = some r → r.parts[i]? = some p → p.done = false →
          (status = 0 → t.mem = s.mem ∧ (∀ x ∈ t.hostq, x.id ≠ m.id) ∧
            HasAnswer t r i p (if m.type = 0x11 then 0 else readValue r.kind (leNat (d.take p.n)))) ∧
          (status ≠ 0 → t = errorPart u r p status)) ∧
        (m.req = none → m.cmd = none → m.watch = none →
          (∀ id, m.table = some id → t = { u with tables := t.tables } ∧ ∀ x ∈ s.tables, x.id = id →
            (if status = 0 then { x with asked := false, got := x.got ++ d.take m.len } else { x with asked := false, refused := true })
              ∈ t.tables) ∧
          (m.table = none → (m.follow = [] ∨ status ≠ 0 → t = u) ∧
            ∀ off bs rest, m.follow = (off, bs) :: rest → status = 0 → ∃ w, t.hostq = u.hostq ++ [w] ∧ w.type = 0x11 ∧
              w.pkg = m.pkg ∧ w.tenant = m.tenant ∧ w.window = m.window ∧ w.offset = off ∧ w.data = bs ∧ w.follow = rest))) ∧
    (replyWhole m status d = true ↔ (status = 0 ∧ (m.type = 0x11 ∨ m.len ≤ d.length)) ∨ (1 ≤ status ∧ status ≤ 11) ∨ status = 0x100)) ∧
  (∀ (s : State) (id q status : Nat) (d : List (BitVec 8)), findHost s id = none → exec (.hostReply id ⟨q, status, d⟩) s = .next s) ∧
  ∀ (s : State) (pkg tenant q : Nat), Answers (.retransmit pkg tenant q) s fun t =>
    t = { s with hostq := t.hostq } ∧ t.hostq.length = s.hostq.length ∧
    ∀ (i : Nat) (m : HostMsg), s.hostq[i]? = some m → t.hostq[i]? = some (if m.pkg = pkg ∧ m.tenant = tenant ∧ m.seq = q ∧
      m.sentAt + 100 * Config.cyclesPerUs ≤ s.cycle then { m with sentAt := s.cycle } else m)

/-! ### links -/

/-- 19 R356 to R359, R362, 20 R382: a codeword is one that the other end's link may send: first the cells to send again, in their order,
then new ones, at most 511 unacknowledged and each with a credit; its NAK and ACKSEQ are those of the sender's receiving side,
its credits those of freed buffers. A good codeword is accepted in order of SEQ: its cells from the next expected one on, each
once and none after a gap, those for another package discarded and logged (log entry 82); its ACKSEQ, 0 at reset (log entry 90),
frees the covered cells, a NAK has them sent again, and its credits return. A bad one is discarded and asks for a NAK, which stays
due until it is sent. 16 NAKs of one ACKSEQ, or 10 us without a good word, take the link down. The modules of R382 obey the same
rules, and the die of one that fails is lost. The numbers of switch ports and of module ends: log entry 29. -/
def Claims.LinkCodewords : Prop :=
  (∀ (s : State) (pkg link : Nat) (good : Bool) (cells : List (Nat × Nat × Nat)) (credits : List Nat) (nak : Bool) (ack : Nat),
    let ev := Instr.linkCodeword pkg link good cells credits nak ack
    (wordEnd pkg link = none ∨ endUp s pkg link = false ∨ 8 < cells.length → exec ev s = .next s) ∧
    (link < 24 → wordEnd pkg link = farEnd pkg link ∧ endUp s pkg link = linkUp s pkg link) ∧
    (24 ≤ link → link ≤ 46 → endUp s pkg link = (fget {} s.links (pkg * 64 + link)).up ∧
      (pkg < 256 → wordEnd pkg link = some (512 + pkg, link)) ∧ (512 ≤ pkg → wordEnd pkg link = some (pkg - 512, link))) ∧
    (46 < link → wordEnd pkg link = none) ∧
    (pkg < 256 → link < 21 → farEnd pkg link = some (pkg / 8 * 8 + (pkg % 8 + 1 + link / 3) % 8,
      linkTo (pkg / 8 * 8 + (pkg % 8 + 1 + link / 3) % 8) pkg (link % 3))) ∧
    (pkg < 256 → 21 ≤ link → link < 24 → farEnd pkg link = some (pkg + 256, link)) ∧
    ∀ peer far, wordEnd pkg link = some (peer, far) → endUp s pkg link = true → cells.length ≤ 8 →
      let at_ := peer * 64 + far
      let l := fget {} s.links (pkg * 64 + link)
      let f := fget {} s.links at_
      let l' := receiveWord s.cycle pkg link good cells credits nak ack l
      (wordFits f cells credits nak ack = false → exec ev s = .next s) ∧
      (wordFits f cells credits nak ack = true → ∃ u, u = { s with links := u.links } ∧
        fget {} u.links at_ = sendWord cells credits f ∧ fget {} u.links (pkg * 64 + link) = l' ∧
        (∀ n, n ≠ at_ → n ≠ pkg * 64 + link → fget {} u.links n = fget {} s.links n) ∧
        (¬ (16 ≤ l'.naks ∨ (good = false ∧ l'.lastGood + 10 * Config.cyclesPerUs ≤ s.cycle)) → exec ev s = .next u) ∧
        (16 ≤ l'.naks ∨ (good = false ∧ l'.lastGood + 10 * Config.cyclesPerUs ≤ s.cycle) →
          exec ev s = .next (if link < 24 then takeDown u pkg link peer far else dieFails u (pkg % 512) (link - 24))))) ∧
  (∀ k : Nat, (fget ({} : Link) State.reset.links k).acked = 0 ∧ (fget ({} : Link) State.reset.links k).rxNext = 1 ∧
    (fget ({} : Link) State.reset.links k).txSeq = 1) ∧
  (∀ (now pkg link ack n : Nat) (l : Link) (cells : List (Nat × Nat × Nat)) (credits : List Nat) (nak : Bool),
    receiveWord now pkg link false cells credits nak ack l = { l with nakOut := true } ∧
    let g := receiveWord now pkg link true cells credits nak ack l
    g.lastGood = now ∧ g.acked = ack ∧ (∀ n ∈ g.credits, n ≤ 128) ∧ (∀ c ∈ g.unacked, c ∈ l.unacked) ∧
    (nak = true → g.pos = 0 ∧ g.nakSeq = ack ∧ g.naks = if l.nakSeq = ack then l.naks + 1 else 1) ∧ (nak = false → g.naks = 0) ∧
    (n ≤ cells.length → (∀ i < n, ∀ c, cells[i]? = some c → c.1 = (l.rxNext + i) % 1024) →
      (∀ i, n ≤ i → ∀ c, cells[i]? = some c → c.1 ≠ (l.rxNext + n) % 1024) → l.rxNext < 1024 →
      g.rxNext = (l.rxNext + n) % 1024 ∧ g.nakOut = (l.nakOut || decide (n < cells.length)) ∧
      g.strays = l.strays ++ (if pkg < 256 ∧ link < 24 then (cells.take n).filter fun c => c.2.2 != pkg else []) ∧
      (l.bufs.length = 4 → ∀ vc < 4,
        g.bufs.getD vc 0 = l.bufs.getD vc 0 + ((cells.take n).filter fun c => c.2.1 == vc).length))) ∧
  ∀ (f : Link) (cells : List (Nat × Nat × Nat)) (credits : List Nat) (nak : Bool) (ack : Nat),
    let again := f.unacked.drop f.pos
    let new := cells.drop again.length
    let count := fun (vc : Nat) => (new.filter fun c => c.2.1 == vc).length
    (wordFits f cells credits nak ack = true ↔
      cells.take again.length = again.take cells.length ∧ f.unacked.length + new.length ≤ 511 ∧
      (∀ i c, new[i]? = some c → c.1 = (f.txSeq + i) % 1024 ∧ c.2.1 < 4) ∧ (∀ vc < 4, count vc ≤ f.credits.getD vc 0) ∧
      nak = f.nakOut ∧ ack = (f.rxNext + 1023) % 1024 ∧ ∀ vc < 4, credits.getD vc 0 ≤ f.bufs.getD vc 0) ∧
    (wordFits f cells credits nak ack = true → f.credits.length = 4 → f.bufs.length = 4 →
      let g := sendWord cells credits f
      g.unacked = f.unacked ++ new ∧ g.unacked.length ≤ 511 ∧ g.txSeq = (f.txSeq + new.length) % 1024 ∧
      g.pos = f.pos + cells.length ∧ g.nakOut = false ∧
      ∀ vc < 4, g.credits.getD vc 0 + count vc = f.credits.getD vc 0 ∧ g.bufs.getD vc 0 + credits.getD vc 0 = f.bufs.getD vc 0)

/-- 19 R359, R363, R365, R366, R379: a link that goes down is down at both ends, and a package whose request was sent 2 ms ago
and is not answered declares its peer lost: every partition with a window into the other end takes QUIESCE with the peer's
number in its live contexts, and what its cores wait for there is abandoned: of a request the register's pending mark is
cleared, a lock request or a watched word that its context waits for issues again, a release on its way there is gone. A request
that its home has performed and whose reply is due counts, and a lock request until its home has taken it (log entry 81); the
2 ms begin when the gateway sends it, which none does while a redirect or the limit holds it. A migration that the loss separates
ends while the page's state does not yet lie at the new home. -/
def Claims.LinkLoss : Prop :=
  (∀ (s : State) (pkg link : Nat),
    (farEnd pkg link = none ∨ linkUp s pkg link = false → exec (.linkDown pkg link) s = .next s) ∧
    ∀ peer far, farEnd pkg link = some (peer, far) → linkUp s pkg link = true → Answers (.linkDown pkg link) s fun t =>
      t = takeDown s pkg link peer far ∧ linkUp t pkg link = false ∧ linkUp t peer far = false) ∧
  (∀ (s : State) (pkg peer : Nat), peer ∉ s.lostPkgs →
    (unanswered s pkg peer = false → exec (.peerLostTimeout pkg peer) s = .next s) ∧
    (unanswered s pkg peer = true → Answers (.peerLostTimeout pkg peer) s fun t => peer ∈ t.lostPkgs ∧
      ∀ a, unreachable t a peer = true)) ∧
  (∀ (s : State) (pkg peer : Nat), unanswered s pkg peer = true ↔
    (∃ r ∈ s.reqs, pkgOf r.core = pkg ∧ ∃ p ∈ r.parts, (p.done = false ∨ reqDone r = true) ∧ partRemote s r.core p = true ∧
      (paPkg p.pa = peer ∨ paPkg (p.named.getD p.pa) = peer) ∧ ∃ c, p.since = some c ∧ c + 2000 * Config.cyclesPerUs ≤ s.cycle) ∨
    (∃ e ∈ s.cores, pkgOf e.1 = pkg ∧ ∃ c ∈ e.2.ctxs, ∃ w ∈ watchesFar e.1 c.2, w.taken = false ∧
      (paPkg w.loc = peer ∨ paPkg w.named = peer) ∧ ∃ t, w.since = some t ∧ t + 2000 * Config.cyclesPerUs ≤ s.cycle) ∨
    (pkg ≠ peer ∧ ∃ m ∈ s.msgs, pkgOf m.core = pkg ∧ ∃ line deadline once born pa, m.kind = .lockReq line deadline once born ∧
      lockPa s m = some pa ∧ paPkg pa = peer ∧ lockUnsent s m pa = false ∧ born + 2000 * Config.cyclesPerUs ≤ s.cycle)) ∧
  (∀ (s : State) (r : Req) (i : Nat) (p : Part), r ∈ s.reqs → r.parts[i]? = some p →
    ∃ r' ∈ (stampSent s).reqs, r'.id = r.id ∧ ∃ p', r'.parts[i]? = some p' ∧
      p'.since = (if p.since = none ∧ partRemote s r.core p = true ∧ orderAllows s r p = true ∧ redirectHolds s r i p = false ∧
        remoteSent s r.core p.pa = true then some s.cycle else p.since) ∧ p' = { p with since := p'.since }) ∧
  (∀ (s : State) (k n rd : Nat) (w : Watch) (v d : Nat), (getCtx s k n).st = .waiting (.word w v d rd) →
    let sent := if w.since = none ∧ w.taken = false ∧ farFrom k w.named = true ∧ watchReady s k n w = true ∧ watchUnsent s k w = false
      then some s.cycle else w.since
    (getCtx (stampSent s) k n).st = .waiting (.word { w with since := sent } v d rd)) ∧
  (∀ (s : State) (k n code : Nat) (v : Word), n < 16 → (getCtx s k n).st ≠ .free → (getCtx s k n).st ≠ .reserved → (getCtx s k n).tx = none →
    (getCtx (deferOne s k code v n) k n).deferred = (getCtx s k n).deferred ++ [⟨code, v⟩]) ∧
  (∀ (s : State) (k n b line : Nat) (w : LockWait), n < 16 → (getCtx s k n).lockWait = some w → (getCtx s k n).lockTries = [] → w.rd = 0 →
    (paPkg w.named = b ∨ paPkg (w.line * 64) = b) → (getCtx s k n).st = .waiting (.lock line) → (getCtx s k n).keptWait = none →
    getCtx (abandonWaits s k n b) k n = { getCtx s k n with lockWait := none, st := .live } ∧ (abandonWaits s k n b).mem = s.mem) ∧
  (∀ (s : State) (k n b rd : Nat) (w : Watch) (v d : Nat), n < 16 → (getCtx s k n).lockWait = none →
    (getCtx s k n).lockTries = [] → (getCtx s k n).keptWait = none → (getCtx s k n).st = .waiting (.word w v d rd) → w.loc < 2 ^ 56 →
    (getCtx (abandonWaits s k n b) k n).st = (if paPkg w.named = b ∨ paPkg w.loc = b then .live else .waiting (.word w v d rd))) ∧
  (∀ (s : State) (k b : Nat), (abandonAll s k b).msgs = if b = pkgOf k then s.msgs else (abandonAll s k b).msgs.filter fun m => !releaseTo k b m) ∧
  (∀ p : Page, beforeInstall p = true ↔ p.st = .eft ∨ p.st = .eftHold ∨ p.st = .handover) ∧
  ∀ (s : State) (r : Req) (rd : Nat), r.orphan = false → r.ctx < 16 → r.dst = .x rd 8 false → 0 < rd → rd < 32 →
    let t := abandonReq s r
    (∀ q ∈ t.reqs, q.id ≠ r.id) ∧ (getCtx t r.core r.ctx).regs.xpend.getLsbD rd = false ∧
    (getCtx t r.core r.ctx).regs.xpres = (getCtx s r.core r.ctx).regs.xpres ∧ t.mem = s.mem

/-- Link codewords keep order and credits; a lost link or peer quiesces its partitions. -/
def Obligations.Fabric : Prop :=
  Claims.LinkCodewords ∧ Claims.LinkLoss

/-! ### homes, dies, bring-up -/

/-- 17 R348, 20 R382: a lost home slice is lost once: no copy and no directory entry of its lines is left, in an instruction cache
as little as in the others, its locks are forgotten, by their holders too, memory stays as it was where no core holds a saved rank,
and an access of the context to its lines gets HOMELOST. A failed module is down at both ends (log entry 29) and its die fails: a
compute die's clusters, both slices of a cache die; a stack, a channel's range or an I/O die stays withheld, without socket 20
there is no transport and without socket 21 no link; without the management die the package stops (log entry 28). -/
def Claims.HomeAndDieLoss : Prop :=
  (∀ (s : State) (pkg slice : Nat), slice < 16 →
    (pkg * 16 + slice ∈ s.lostHomes → exec (.homeLost pkg slice) s = .next s) ∧
    (pkg * 16 + slice ∉ s.lostHomes → Answers (.homeLost pkg slice) s fun t =>
      pkg * 16 + slice ∈ t.lostHomes ∧ ((∀ k, savedRanks (getCore s k) = []) → t.mem = s.mem) ∧
      (∀ e ∈ t.dir, ¬ (paPkg (e.1 * 64) = pkg ∧ homeOf (e.1 * 64) = slice)) ∧
      (∀ e ∈ t.l2, ¬ (paPkg (e.1 / 16 * 64) = pkg ∧ homeOf (e.1 / 16 * 64) = slice)) ∧
      (∀ e ∈ t.part, ¬ (paPkg (e.1 / 16 * 64) = pkg ∧ homeOf (e.1 / 16 * 64) = slice)) ∧
      (∀ e ∈ t.cores, ∀ l ∈ e.2.l1, ¬ (paPkg (l.line * 64) = pkg ∧ homeOf (l.line * 64) = slice)) ∧
      (∀ e ∈ t.cores, ∀ l ∈ e.2.icache, ¬ (paPkg (l.1 * 64) = pkg ∧ homeOf (l.1 * 64) = slice)) ∧
      (∀ l ∈ s.locks, l.held = true → paPkg (l.line * 64) = pkg → homeOf (l.line * 64) = slice →
        l.line ∉ (getCtx t l.hcore l.hctx).locks) ∧
      ∀ l ∈ t.locks, ¬ (paPkg (l.line * 64) = pkg ∧ homeOf (l.line * 64) = slice))) ∧
  (∀ (s : State) (pa n : Nat), paPkg pa * 16 + homeOf pa ∈ s.lostHomes → ∃ r, mainError s pa n false = some r ∧
    (r = Reason.absent ∨ r = Reason.withheld ∨ r = Reason.homelost)) ∧
  ∀ (s : State) (pkg socket : Nat),
    (socket < 4 → Answers (.moduleDown pkg socket) s fun t =>
      t = (List.range 4).foldl (fun s i => failCluster s (pkg * 16 + 4 * socket + i) false) (moduleEnds s pkg socket)) ∧
    (∀ n : Nat, (fget {} (moduleEnds s pkg socket).links n).up = false ↔
      (fget {} s.links n).up = false ∨ n = pkg * 64 + 24 + socket ∨ n = (512 + pkg) * 64 + 24 + socket) ∧
    (4 ≤ socket → socket < 12 → Answers (.moduleDown pkg socket) s fun t => ((∀ k, savedRanks (getCore s k) = []) → t.mem = s.mem) ∧
      pkg * 16 + 2 * (socket - 4) ∈ t.lostHomes ∧ pkg * 16 + 2 * (socket - 4) + 1 ∈ t.lostHomes) ∧
    (12 ≤ socket → socket ≤ 22 → socket ≠ 21 → Answers (.moduleDown pkg socket) s fun t =>
      t = { moduleEnds s pkg socket with boots := t.boots } ∧ (socket = 20 → transportUp t pkg = false) ∧
      (bootOf t pkg).withheld = putBit (bootOf s pkg).withheld socket true ∧
      (bootOf t pkg).stopped = ((bootOf s pkg).stopped || decide (socket = 22))) ∧
    (socket = 21 → Answers (.moduleDown pkg socket) s fun t => (bootOf t pkg).withheld.getLsbD 21 = true ∧
      ∀ link, linkUp t pkg link = false) ∧
    (22 < socket → exec (.moduleDown pkg socket) s = .next s)

/-- 20 R392, R393: a bad firmware signature stops the package at step 2, a failed die, a socket without one, or a DDR-5 channel that
does not train, whose class DEGRADE does not allow, at step 4; else they are withheld and tenants may attach. A stopped package
accepts no message. The package takes the strap's number, and holds nothing (log entry 34). -/
def Claims.BringUp : Prop :=
  ∀ (s : State) (pkg : Nat) (good : Bool) (failed absent : BitVec 23) (channels : BitVec 12) (strap : BitVec 8),
    Answers (.bringUp pkg good ⟨failed, absent, channels⟩ strap) s fun t =>
      let b := bootOf t strap.toNat
      let d := (bootOf s pkg).degrade
      let out := failed ||| absent
      let allowed := (channels ≠ 0 → d.getLsbD 1 = true) ∧ ∀ i < 23, out.getLsbD i = true → (i < 4 ∧ d.getLsbD 3 = true) ∨ (4 ≤ i ∧ i < 12 ∧ d.getLsbD 2 = true) ∨
        (12 ≤ i ∧ i < 20 ∧ d.getLsbD 0 = true)
      b.degrade = d ∧ strap.toNat ∈ t.pkgs ∧
      (good = false → b.stage = 2 ∧ b.stopped = true) ∧
      (good = true → ¬ allowed → b.stage = 4 ∧ b.stopped = true) ∧
      (good = true → allowed → b.stage = 6 ∧ b.stopped = false ∧ b.withheld = out ∧ b.absent = absent ∧ b.channels = channels) ∧
      (good = false ∨ ¬ allowed → ∀ tenant q, accept t strap.toNat tenant q = none) ∧
      (∀ k, pkgOf k = strap.toNat → fhas t.cores k = false) ∧ (∀ e ∈ t.mem, paPkg e.1 ≠ strap.toNat) ∧
      (∀ r ∈ t.reqs, pkgOf r.core ≠ strap.toNat) ∧ (∀ e ∈ t.dir, paPkg (e.1 * 64) ≠ strap.toNat) ∧
      (∀ k, pkgOf k ≠ pkg → pkgOf k ≠ strap.toNat → getCore t k = getCore s k) ∧
      ∀ a, paPkg a ≠ pkg → paPkg a ≠ strap.toNat → byteAt t.mem a = byteAt s.mem a

/-- 20 R395 to R397, 17 R332: above 2,700 W the hottest compute islands (log entry 35), and every island of 105 degrees, fall by
100 MHz, not below 950; below 2,600 W the island lowered last that is not hot rises; an island 1 ms at the floor reports THROTTLE
once to each tenant with a core in it; at 115 degrees the package stops with its partitions reset. An island whose 128 cores have no
live context, command or engine work, the even one of a cluster also without work of the gather engine and the barrier unit, may be
gated: the power manager gives notice, every home that answers acknowledges, and then it is. An island slower than 1,900 MHz falls
behind the package's time. -/
def Claims.Power : Prop :=
  ∀ (s : State) (pkg : Nat),
    (∀ (watts : Nat) (power temps : List Nat),
      let hot := (List.range 32).filter fun i => decide (105 ≤ temps.getD i 0)
      Answers (.powerCheck pkg watts power temps) s fun t =>
        t = { s with islands := t.islands, boots := t.boots } ∧
        (2600 ≤ watts → watts ≤ 2700 → hot = [] → t = s) ∧
        (watts < 2600 → hot = [] → t = raiseIsland s pkg []) ∧
        (watts < 2600 → ∀ i < 32, let x := (islandAt (raiseIsland s pkg hot) pkg i).mhz
          (islandAt t pkg i).mhz = if 105 ≤ temps.getD i 0 ∧ 950 < x then max 950 (x - 100) else x) ∧
        (2600 ≤ watts → ∀ i < 32,
          let x := (islandAt s pkg i).mhz
          (islandAt t pkg i).mhz = if (105 ≤ temps.getD i 0 ∨ (2700 < watts ∧ 950 < x ∧ ∀ j < 32, 950 < (islandAt s pkg j).mhz →
            power.getD j 0 ≤ power.getD i 0)) ∧ 950 < x then max 950 (x - 100) else x)) ∧
    (∀ hot, (∀ j ∈ (bootOf s pkg).lowered, j ∈ hot) → raiseIsland s pkg hot = s) ∧
    (∀ hot before i is, (bootOf s pkg).lowered = before ++ i :: is → (∀ j ∈ before, j ∈ hot) → i ∉ hot →
      (islandAt (raiseIsland s pkg hot) pkg i).mhz =
        min 1900 (if (islandAt s pkg i).mhz = 950 then 1000 else (islandAt s pkg i).mhz + 100) ∧
      (bootOf (raiseIsland s pkg hot) pkg).lowered = before ++ is ∧
      ∀ j, j ≠ i → islandAt (raiseIsland s pkg hot) pkg j = islandAt s pkg j) ∧
    (∀ i, Answers (.throttle pkg i) s fun t =>
      let x := islandAt s pkg i
      let due := i < 32 ∧ x.throttled = false ∧ ∃ c, x.floorSince = some c ∧ c + 1000 * Config.cyclesPerUs ≤ s.cycle
      let told := fun (s : State) (tenant : Nat) => (s.evlog.filter fun r => r.pkg == pkg && r.tenant == tenant && r.type == 11).length
      (¬ due → t = s) ∧ (due → (islandAt t pkg i).throttled = true ∧ t.cores = s.cores ∧ t.mem = s.mem ∧
        (∀ tenant, told t tenant ≤ told s tenant + 1) ∧
        ∀ e ∈ s.parts, e.1 / 128 = pkg → (∃ j < 4, e.2.quads.getLsbD (4 * i + j) = true) →
          fhas s.rings (ringKey pkg e.2.tenant) = false → ∃ r ∈ t.evlog, r.pkg = pkg ∧ r.tenant = e.2.tenant ∧ r.type = 11 ∧ r.code = i)) ∧
    (∀ temp, Answers (.thermalShutdown pkg temp) s fun t => (temp < 115 → t = s) ∧
      (115 ≤ temp → (bootOf t pkg).stopped = true ∧
        ∃ u, u = (s.parts.filter fun e => e.1 / 128 == pkg).foldl (fun s e => resetPart s pkg (e.1 % 128) e.2) s ∧
          t = { u with boots := t.boots })) ∧
    (∀ i,
      let x := islandAt s pkg i
      let idle := (∀ j < 128, coreIdle (getCore s (pkg * 4096 + i * 128 + j)) = true) ∧ (i % 2 = 0 → unitsIdle s pkg (i / 2) = true)
      let answered := ∀ h < 16, pkg * 16 + h ∉ s.lostHomes → h ∈ x.acked
      Answers (.powerGate pkg i) s fun t => (32 ≤ i ∨ x.gated = true → t = s) ∧
        (i < 32 → x.gated = false → t = { s with islands := t.islands } ∧
          (∀ j, j ≠ i → j < 64 → islandAt t pkg j = islandAt s pkg j) ∧
          (¬ idle → islandAt t pkg i = { x with notice := false, acked := [] }) ∧
          (idle → x.notice = false → islandAt t pkg i = { x with notice := true, acked := [] }) ∧
          (idle → x.notice = true → answered → islandAt t pkg i = { x with gated := true, notice := false }) ∧
          (idle → x.notice = true → ¬ answered → t = s))) ∧
    (∀ i, ∃ t, gateAck pkg i s = .next t ∧
      let x := islandAt s pkg i
      (x.notice = false → t = s) ∧
      (x.notice = true → ∀ h < 16, pkg * 16 + h ∉ s.lostHomes → h ∉ x.acked →
        (∀ g < h, pkg * 16 + g ∉ s.lostHomes → g ∈ x.acked) → islandAt t pkg i = { x with acked := x.acked ++ [h] })) ∧
    (∀ cl, (∃ c ∈ s.cores, clusterOf c.1 = pkg * 16 + cl ∧ c.2.gq ≠ []) → unitsIdle s pkg cl = false) ∧
    ∀ i, i < 64 → islandAt (passLag s) pkg i = { islandAt s pkg i with lag := (islandAt s pkg i).lag + (1900 - (islandAt s pkg i).mhz) }

/-- Lost homes and dies, bring-up, power and thermal events change the package as their rules say. -/
def Obligations.PackageLifecycle : Prop :=
  Claims.HomeAndDieLoss ∧ Claims.BringUp ∧ Claims.Power

/-! ### translation, address checks, fetch, step -/

/-- 14 R290, R291, R293, R294, R299, 19 R372: Translate: M mode uses the address itself, below 2^56; else the lowest region that
holds the address decides: none is an access fault, KIND 2 the own scratchpad below BYTES and not for a fetch, KIND 1 the entry
that the TLBs or a walk give. CheckLeaf permits what its rows permit. An entry that permits gives {PPN, offset}, through the
owner cache where M is 1, with A and, for a store, D set in memory by a checked write. A walk access that gets an error response
is an access fault, a bad pointer a page fault; a walk waits for a page in handover and for a commit, and a tail passes it on with a
redirect for its cluster. The walk after MIGCHAIN or MIGSTALE ignores the TLBs and the owner cache and makes the same checks. Space
0xF holds no offset (log entry 66); code lies in main memory (log entry 11). -/
def Claims.Translation : Prop :=
  (∀ (s : State) (k n : Nat) (mode : Mode) (rgn : FMap Word) (va : Nat) (acc : Acc),
    let x := translateWith s k n mode rgn va acc
    let bad := x = (.fault (match acc with | .fetch => 1 | .load => 5 | _ => 7), s)
    let page := match acc with | .fetch => 12 | .load => 13 | _ => 15
    let holds := fun i => (regionOf rgn i).kind ≠ 0 ∧ (regionOf rgn i).base ≤ va / 2 ^ 16 ∧ va / 2 ^ 16 ≤ (regionOf rgn i).limit
    (mode = .m → (va < 2 ^ 56 → x = (.phys va, s)) ∧ (2 ^ 56 ≤ va → bad)) ∧
    (mode ≠ .m → 2 ^ 48 ≤ va → bad) ∧
    (mode ≠ .m → (∀ i < 8, ¬ holds i) → bad) ∧
    ∀ i < 8, mode ≠ .m → va < 2 ^ 48 → holds i → (∀ j < i, ¬ holds j) →
      let r := regionOf rgn i
      let off := va - r.base * 2 ^ 16
      let grant := if n < 16 then (getCore s k).spmBytes else ((rankSaved (getCore s k) n).map (·.spmBytes)).getD 0
      (r.kind = 2 → (off < grant → acc ≠ .fetch → x = (.spm off, s)) ∧ (grant ≤ off ∨ acc = .fetch → bad)) ∧
      (r.kind = 1 →
        let c := getCtx s k n
        let pageNo := if r.pgsz then off / 1024 else off / 2 ^ 21
        let l1 := if acc = .fetch then (getCore s k).itlb else (getCore s k).dtlb
        let cached := fun ts => tlbFind ts (partOf (getCore s k)) (bitsOf (getCore s k).qlaunch 31 0) r pageNo
        let ok := fun pte => leafPermits pte acc mode (c.mstatus.getLsbD 18) (c.mstatus.getLsbD 19) = true ∧
          (r.pgsz = true ∨ bitsOf pte 20 10 = 0)
        let pa := fun pte => if r.pgsz then bitsOf pte 55 10 * 2 ^ 10 + off % 2 ^ 10 else bitsOf pte 55 21 * 2 ^ 21 + off % 2 ^ 21
        let place := fun (u : State) (pte : Word) => XRes.phys (if pte.getLsbD 8 then ownerLookup u (clusterOf k) (pa pte) else pa pte)
        let walked := fun (x : XRes × State) (place : State → Word → XRes) =>
          (∀ u, walk s k n r off = (.accessFault, u) → x = (.fault acc.accessFault, u)) ∧
          (∀ u, walk s k n r off = (.pageFault, u) → x = (.fault page, u)) ∧
          (∀ u, walk s k n r off = (.wait, u) → x = (.wait, u)) ∧
          (∀ at_ pte u, walk s k n r off = (.leaf at_ pte, u) → ¬ ok pte → x = (.fault page, u)) ∧
          (∀ at_ pte u, walk s k n r off = (.leaf at_ pte, u) → ok pte →
            let new := pte ||| 0x40 ||| (if acc.writes then 0x80 else 0)
            (new = pte → x.1 = place u pte ∧ x.2.mem = u.mem) ∧
            (new ≠ pte → (∀ v, walkWrite u k n at_ new = (.error, v) → x = (.fault acc.accessFault, v)) ∧
              (∀ v, walkWrite u k n at_ new = (.wait, v) → x = (.wait, v)) ∧
              ∀ w v, walkWrite u k n at_ new = (.word w, v) → x.1 = place v new ∧ x.2.mem = v.mem))
        (∀ t, n < 16 → cached l1 = some t → ok t.pte → (acc.writes = true → t.pte.getLsbD 7 = true) → x = (place s t.pte, s)) ∧
        (∀ t, n < 16 → cached l1 = none → cached (fget [] s.l2tlb (clusterOf k)) = some t → ok t.pte →
          (acc.writes = true → t.pte.getLsbD 7 = true) → x = (place s t.pte, s)) ∧
        (16 ≤ n ∨ (cached l1 = none ∧ cached (fget [] s.l2tlb (clusterOf k)) = none) → walked x place) ∧
        walked (walkAgain s k n mode rgn va acc) fun _ pte => XRes.phys (pa pte))) ∧
  (∀ (pte : Word) (acc : Acc) (mode : Mode) (sum mxr : Bool),
    let b := fun i => pte.getLsbD i = true
    leafPermits pte acc mode sum mxr = true ↔
      b 0 ∧ (∀ i, 56 ≤ i → i < 64 → ¬ b i) ∧ ¬ b 9 ∧ (b 1 ∨ b 2 ∨ b 3) ∧ (b 2 → b 1) ∧
      (acc = .fetch → b 3) ∧ (acc = .load → b 1 ∨ (mxr = true ∧ b 3)) ∧ (acc = .store → b 2) ∧
      (acc = .amo ∨ acc = .atomic → b 1 ∧ b 2) ∧
      (mode = .u → b 4) ∧ (mode = .s → b 4 → acc ≠ .fetch ∧ sum = true)) ∧
  (∀ (s : State) (k n : Nat) (r : Region) (off : Nat),
    let w := walkRead s k n
    let at0 := r.root * 2 ^ 12 + 8 * (off / 2 ^ 21)
    let at1 := r.root * 2 ^ 12 + 8 * (off / 2 ^ 19)
    (r.pgsz = false → (∀ u, w at0 = (.error, u) → walk s k n r off = (.accessFault, u)) ∧
      (∀ u, w at0 = (.wait, u) → walk s k n r off = (.wait, u)) ∧
      ∀ pte u, w at0 = (.word pte, u) → walk s k n r off = (.leaf at0 pte, u)) ∧
    (r.pgsz = true → (∀ u, w at1 = (.error, u) → walk s k n r off = (.accessFault, u)) ∧
      (∀ u, w at1 = (.wait, u) → walk s k n r off = (.wait, u)) ∧
      ∀ ptr u, w at1 = (.word ptr, u) →
        let good := ptr.getLsbD 0 = true ∧ bitsOf ptr 11 1 = 0 ∧ bitsOf ptr 63 56 = 0
        let at2 := bitsOf ptr 55 12 * 2 ^ 12 + 8 * (off / 2 ^ 10 % 512)
        (¬ good → walk s k n r off = (.pageFault, u)) ∧
        (good → (∀ v, walkRead u k n at2 = (.error, v) → walk s k n r off = (.accessFault, v)) ∧
          (∀ v, walkRead u k n at2 = (.wait, v) → walk s k n r off = (.wait, v)) ∧
          ∀ pte v, walkRead u k n at2 = (.word pte, v) → walk s k n r off = (.leaf at2 pte, v)))) ∧
  ∀ (s : State) (k n pa : Nat) (pte : Word),
    let rd := walkRead s k n pa
    let wr := walkWrite s k n pa pte
    (paSpace pa = 2 ∨ paSpace pa = 8 ∨ paSpace pa = 15 → rd.1 = .error ∧ wr.1 = .error) ∧
    (∀ e, accessError s k .u pa 8 false false = some e → rd.1 = .error) ∧
    (∀ e, accessError s k .u pa 8 true false = some e → wr.1 = .error) ∧
    (paSpace pa < 2 → pageAt s pa = none →
      (accessError s k .u pa 8 false false = none →
        (heldForCommit s pa 8 = true → rd = (.wait, s)) ∧
        (heldForCommit s pa 8 = false → pa % 8 = 0 → (dirOf s (lineOf pa)).st ≠ .p →
          rd.1 = .word (BitVec.ofNat 64 (readLE s.mem pa 8)) ∧ rd.2.mem = s.mem)) ∧
      (accessError s k .u pa 8 true false = none →
        (heldForCommit s pa 8 = true → wr = (.wait, s)) ∧
        (heldForCommit s pa 8 = false → pa % 8 = 0 → (dirOf s (lineOf pa)).st ≠ .p →
          wr.1 = .word pte ∧ wr.2.mem = putBytes s.mem pa (leBytes 8 pte.toNat)))) ∧
    (paSpace pa < 2 → accessError s k .u pa 8 false false = none → ∀ pg, pageAt s pa = some pg → (pg.st = .handover → rd = (.wait, s)) ∧
      (pg.st = .stale → rd.1 = .error) ∧
      (pg.st = .tail → let q := pa - pg.frame * 1024 + pg.new * 1024
        let size := if pg.big then 2048 else 1
        pageAt s q = none → q ≠ pa →
          (∀ e, forwardError s k .u pa q 8 false false = some e → rd.1 = .error) ∧
          (forwardError s k .u pa q 8 false false = none →
            (heldForCommit s q 8 = true → rd = (.wait, s)) ∧
            (heldForCommit s q 8 = false → q % 8 = 0 → (dirOf s (lineOf q)).st ≠ .p →
              rd.1 = .word (BitVec.ofNat 64 (readLE s.mem q 8)) ∧ rd.2.mem = s.mem ∧
              ∃ m ∈ rd.2.msgs, m.kind = .redirect (clusterOf k) pg.frame (frameOf q / size * size) pg.big))))

/-- 02 R45, 14 R287, R289, R301, R303, 20 R387: the error response of an access, in the order of its checks: a wrong form is
RESERVED, a package that is not there ABSENT; outside M mode no valid window that holds the bytes is NOWINDOW, and a write
without WR in any of them READONLY; a package that no link leads to is LINKLOST; a scratchpad window of another launch is
NOTLAUNCH, and one on a withheld die WITHHELD. At another package the windows of the tenant's partition there decide: FARWINDOW. A
DDR-5 channel or stack that is withheld, or a home on a withheld die, is WITHHELD. Space 0xF holds no offset (log entry 66). -/
def Claims.AddressErrors : Prop :=
  (∀ (s : State) (k : Nat) (mode : Mode) (pa n : Nat) (w whole : Bool),
    let e := accessError s k mode pa n w whole
    let sp := pa / 2 ^ 44 % 16
    let pkg := pa / 2 ^ 48 % 256
    let formed := pa < 2 ^ 56 ∧ (sp = 0 ∨ sp = 1 ∨ sp = 2 ∨ sp = 8 ∨ sp = 15)
    let ws := windowsOf (getCore s k)
    (¬ formed → e = some 3) ∧
    (formed → pkg ∉ s.pkgs → e = some 4) ∧
    (formed → pkg ∈ s.pkgs → mode ≠ .m →
      ((∀ x ∈ ws, windowHolds x pa n = false) → e = some 1) ∧
      ((∃ x ∈ ws, windowHolds x pa n = true) → w = true → (∀ x ∈ ws, windowHolds x pa n = true → x.getLsbD 62 = false) → e = some 2)) ∧
    (formed → pkg ∈ s.pkgs → pkg ≠ pkgOf k → unreachable s (pkgOf k) pkg = true →
      (mode = .m ∨ ∃ x ∈ ws, windowHolds x pa n = true ∧ (w = true → x.getLsbD 62 = true)) → e = some Reason.linklost) ∧
    (formed → pkg ∈ s.pkgs → pkg = pkgOf k →
      (mode = .m ∨ ∃ x ∈ ws, windowHolds x pa n = true ∧ (w = true → x.getLsbD 62 = true)) →
      (sp < 2 → e = mainError s pa n whole) ∧
      (sp = 2 → 2 ^ 30 ≤ pa % 2 ^ 44 → e = some 4) ∧
      (sp = 2 → pa % 2 ^ 44 < 2 ^ 30 → spmWithheld s pa = true → e = some 5) ∧
      (sp = 2 → pa % 2 ^ 44 < 2 ^ 30 → spmWithheld s pa = false → (e = none ↔ ∃ l b, (getCore s k).launch = some l ∧
        (l, b) ∈ rankOn s (windowCore pa) ∧ windowByte pa + n ≤ b) ∧ (e = none ∨ e = some 6)) ∧
      (sp = 8 → (e = none ↔ ∃ h, hostWindow s pkg (tenantOf (getCore s k)) (pa % 2 ^ 44 / 2 ^ 38) = some h ∧
        pa % 2 ^ 38 + n ≤ h.size ∧ (w = true → h.wr = true))) ∧
      (sp = 15 → e = some 4)) ∧
    (formed → pkg ∈ s.pkgs → pkg ≠ pkgOf k → unreachable s (pkgOf k) pkg = false → mode ≠ .m →
      (∃ x ∈ ws, windowHolds x pa n = true ∧ (w = true → x.getLsbD 62 = true)) →
      windowCheck (tenantWindows s pkg (tenantOf (getCore s k))) pa n w ≠ none → e = some 13)) ∧
  (∀ (s : State) (pa n : Nat) (whole : Bool), let b := bootOf s (pa / 2 ^ 48 % 256)
    let off := pa % 2 ^ 44
    (pa / 2 ^ 44 % 16 = 0 → off + n ≤ 0x6000000000 → b.withheld.getLsbD (12 + off / 0xC00000000) = true → mainError s pa n whole = some 5) ∧
    (pa / 2 ^ 44 % 16 = 1 → off / 0x4000000000 < 12 →
      off % 0x4000000000 + n ≤ Config.ddrModuleBytes (pa / 2 ^ 48 % 256 * 12 + off / 0x4000000000) →
      (b.channels.getLsbD (off / 0x4000000000) = true ∨ b.withheld.getLsbD (if off / 0x4000000000 < 6 then 20 else 21) = true) →
        mainError s pa n whole = some 5)) ∧
  ∀ (x : Word) (pa n : Nat), windowHolds x pa n = true ↔
    let lg := bitsOf x 61 56
    let base := bitsOf x 55 21 * 2 ^ 21
    x.getLsbD 63 = true ∧ 21 ≤ lg ∧ lg ≤ 44 ∧ base % 2 ^ lg = 0 ∧ base ≤ pa ∧ pa + n ≤ base + 2 ^ lg

/-- 02 R19, R20, 14 R284, R302, 17 R338, 19 R368: a fetch translates the PC; it reads the word in the cached line, else, from main
memory, the four bytes at the PC, and caches a line of its own package; an error response is an access fault; a commit and a
page in handover hold it. The next context is the first ready one after the one that issued last; a context whose awaited
conditions do not hold, whose fetch waits, or that a ctx.save or ctx.load names is not ready, and an access whose walk waits holds
its context as such a condition. Only main memory holds code (log entry 11). -/
def Claims.FetchAndIssue : Prop :=
  (∀ (s : State), let pc := (regs s).pc
    (∀ code u, translate s pc .fetch = (.fault code, u) → fetch s = (.fault code, u)) ∧
    (∀ u, translate s pc .fetch = (.wait, u) → fetch s = (.wait, u)) ∧
    (∀ pa u, translate s pc .fetch = (.phys pa, u) → pa % 4 = 0 →
      (∀ bs, icacheFind (myCore u) (lineOf pa) = some bs → fetch s = (.word (wordIn bs (pa % 64)), u)) ∧
      (icacheFind (myCore u) (lineOf pa) = none →
        let line := getBytes u.mem (lineOf pa * 64) 64
        (∀ e, accessError u u.turn (me u).mode pa 4 false false = some e → (fetch s).1 = .fault 1 ∧ (fetch s).2.mem = u.mem) ∧
        (accessError u u.turn (me u).mode pa 4 false false = none →
          (isMain pa = false → fetch s = (.fault 1, u)) ∧
          (isMain pa = true → pageAt u pa = none → heldForCommit u (lineOf pa * 64) 64 = true → fetch s = (.wait, u)) ∧
          (∀ pg, isMain pa = true → pageAt u pa = some pg → pg.st = .handover → fetch s = (.wait, u)) ∧
          (isMain pa = true → pageAt u pa = none → heldForCommit u (lineOf pa * 64) 64 = false → (dirOf u (lineOf pa)).st ≠ .p →
            (fetch s).1 = .word (BitVec.ofNat 32 (readLE u.mem pa 4)) ∧ (fetch s).2.mem = u.mem ∧
            icacheFind (myCore (fetch s).2) (lineOf pa) = if paPkg pa = pkgOf u.turn then some line else none))))) ∧
  ∀ (s : State) (k : Nat),
    (∀ n, nextCtx s k = some n → n < 11 ∧ ctxReady s k n = true ∧
      ∀ i < 11, ctxReady s k (((getCore s k).last + 1 + i) % 11) = true → ∃ j ≤ i, n = ((getCore s k).last + 1 + j) % 11) ∧
    (nextCtx s k = none → ∀ n < 11, ctxReady s k n = false) ∧
    ∀ n, (ctxReady s k n = true ↔
        ((getCore s k).halted = false ∨ interruptPending (getCore s k) 0 = true) ∧ (getCore s k).quarantined = false ∧
        (getCore s k).preempting = false ∧ (∀ o ∈ (getCore s k).ctxops, o.target ≠ n) ∧
        (fetch { s with turn := k, cur := n }).1 ≠ .wait ∧
        ((getCtx s k n).st = .live ∨ (∃ cs, (getCtx s k n).st = .parked cs ∧ ∀ c ∈ cs, condHolds s k n c = true) ∨
          ((getCtx s k n).st = .waiting .wfi ∧ n = 0 ∧ (getCore s k).mip.getLsbD 9 = true ∧ (getCore s k).mie.getLsbD 9 = true))) ∧
      ∀ (va : Word) (acc : Acc), condHolds s k n (.walk va acc.code) = true ↔
        ∀ u, translateWith s k n (getCtx s k n).mode (getCore s k).qrgn va.toNat acc ≠ (.wait, u)

/-- Translation, address checks, fetch and issue follow their tables. -/
def Obligations.AddressTranslation : Prop :=
  Claims.AccessChecks ∧ Claims.AddressErrors ∧ Claims.Translation ∧ Claims.FetchAndIssue

/-- 02 R20, R42, 04 R113, 20 R396: a step runs the decoded instruction. Where no event is placed and none is due, the context that round robin
selects fetches a word, and the step is exec of the instruction that it decodes to, or of ILLEGAL_INSTRUCTION; a fetch that
waits issues nothing. Around it, a halt ends without its time counting (`toIssue`), the issue is recorded in the cycles of the core's
island (`issued`), a trap from S mode within a launch is firmware's (`serveFirmware`), and the cycle
passes (`tick`). Even cycles try the issue first, odd ones an event of the machine (log entry 1). A placed event runs first. -/
def Obligations.StepRunsDecoded : Prop :=
  (∀ (s : State) (n : Nat), s.agenda = [] → allStopped s = false → (bootOf s (pkgOf s.turn)).stopped = false →
    boundaryEvent s s.turn = none → coreWorks s s.turn = true → (s.cycle % 2 = 0 ∨ dueEvent s = none) → nextCtx s s.turn = some n →
    (∀ w u i, fetch (toIssue s n) = (.word w, u) → decode w = .ok i →
      step s = ticked (afterIssue s.turn n s (exec i u))) ∧
    (∀ w u e, fetch (toIssue s n) = (.word w, u) → decode w = .error e →
      step s = ticked (afterIssue s.turn n s (exec (.illegalInstruction w) u))) ∧
    ∀ code u, fetch (toIssue s n) = (.fault code, u) →
      step s = ticked (afterIssue s.turn n s (.next (takeFault u code (regs u).pc)))) ∧
  (∀ (s u : State) (n : Nat), fetch (toIssue s n) = (.wait, u) → issueCtx s n = .next u) ∧
  (∀ (s : State) (n : Nat), let t := toIssue s n
    t.cur = n ∧ t.mem = s.mem ∧ t.reqs = s.reqs ∧ (∀ k, k ≠ s.turn → getCore t k = getCore s k) ∧
    getCore t s.turn = { getCore s s.turn with halted := false, lastIssue :=
      if (getCore s s.turn).halted then ownCycle s s.turn else (getCore s s.turn).lastIssue }) ∧
  (∀ (k n : Nat) (old t : State),
    afterIssue k n old (.next t) = .next (serveFirmware k n old (issued k n (ownCycle old k) t)) ∧
    ((getCtx old k n).mode ≠ .s → serveFirmware k n old (issued k n (ownCycle old k) t) = issued k n (ownCycle old k) t) ∧
    (isParked (getCtx t k n) = true → issued k n (ownCycle old k) t = t) ∧
    (isParked (getCtx t k n) = false → let u := issued k n (ownCycle old k) t
      u.mem = t.mem ∧ u.reqs = t.reqs ∧ (getCore u k).last = n ∧ (getCore u k).lastIssue = ownCycle old k ∧ (getCore u k).wdogs = 0 ∧
      (fhas (getCore t k).ctxs n = true → getCtx u k n = getCtx t k n) ∧
      (∀ k', k' ≠ k → getCore u k' = getCore t k') ∧ ∀ m, (getCtx u k m).regs = (getCtx t k m).regs)) ∧
  (∀ s t : State, ticked (.next s) = .next (tick s) ∧ (tick t).cycle = t.cycle + 1 ∧ (tick t).mem = t.mem ∧
    (tick t).turn = nextTurn (notifyWaiters t)) ∧
  ∀ (s : State) (i : Instr) (is : List Instr), s.agenda = i :: is → step s = ticked (exec i { s with agenda := is })

/-! ### encoding -/

/-- 03 R46, R50 to R65, R163, R180: words written out from the tables decode to their instructions, and reserved ones are refused
by name. -/
def Obligations.DecodeWords : Prop :=
  decode 0x0006B283#32 = .ok (.ld 5 13 0) ∧ decode 0x00580833#32 = .ok (.add 16 16 5) ∧ decode 0x0062850B#32 = .ok (.hstart 10 5 6) ∧
  decode 0x0A6392AB#32 = .ok (.amAdd 5 7 6 1 1 1) ∧ decode 0x4E60602B#32 = .ok (.fncRel 6) ∧
  decode 0x2A2169DB#32 = .ok (.vfma 3 1 2 1 5 2 0) ∧ decode 0xB406247B#32 = .ok (.maSt 8 2 12 5) ∧
  decode 0xD41B255B#32 = .ok (.vext 10 3 6 2) ∧ decode 0x00000000#32 = .error .opcode ∧
  decode 0xF000005B#32 = .error .selector ∧ decode 0x0200207B#32 = .error .selector

/-- 03 R46 to R65: every well-formed instruction that has a word decodes from the word it is encoded in, with every operand as it
was, for every value that the encoding admits. -/
def Obligations.DecodeEncode : Prop :=
  ∀ (i : Instr) (w : IWord), (∀ x, i ≠ .illegalInstruction x) → i.wf = true → encode i = some w → decode w = .ok i

/-- 00 R8, 03 R51: a word decodes to an instruction, or to a named rejection, and then runs as ILLEGAL_INSTRUCTION with the
word; a word whose bits [1:0] are not 0b11 is rejected; what is decoded is well formed. -/
def Obligations.DecodeIsWellFormed : Prop :=
  (∀ (w : IWord) (i : Instr), decode w = .ok i → i.wf = true ∧ encode i = some w) ∧
  (∀ w : IWord, w.toNat % 4 ≠ 3 → decode w = .error .opcode) ∧
  ∀ (w : IWord) (r : Reject), decode w = .error r → decodeOrIllegal w = .illegalInstruction w

/-! ### reset and invariants -/

/-- 02 R28: after reset, every context is free except context 0, in M mode; x, v, f and k registers, accumulators and tables are
empty or 0, every x and v register present and none pending. The firmware entry is the model's choice, log entry 2. -/
def Claims.ResetState : Prop :=
  (∀ k : Nat, let c := getCore .reset k
    (c.ctx 0).mode = .m ∧ (c.ctx 0).st = .live ∧ (∀ n, n ≠ 0 → (c.ctx n).st = .free) ∧
    (∀ n r, readX (c.ctx n).regs r = 0 ∧ readF (c.ctx n).regs r = 0 ∧ readV (c.ctx n).regs r = 0 ∧ readK (c.ctx n).regs r = 0) ∧
    (∀ n r, r < 32 → (c.ctx n).regs.xpres.getLsbD r = true ∧ (c.ctx n).regs.xpend.getLsbD r = false) ∧
    (∀ n r, r < 16 → (c.ctx n).regs.vpres.getLsbD r = true ∧ (c.ctx n).regs.vpend.getLsbD r = false) ∧
    (∀ e, fget 0 c.acc e = 0) ∧ c.vq = [] ∧ c.mq = [] ∧ c.cq = [] ∧ c.gq = [] ∧ c.upq = [] ∧ c.launch = none) ∧
  State.reset.reqs = [] ∧ State.reset.mem = [] ∧ State.reset.msgs = [] ∧ State.reset.hostq = [] ∧
  State.reset.tables = [] ∧ State.reset.locks = [] ∧ State.reset.pages = [] ∧ State.reset.links = []

/-- Reset meets the invariants that every step keeps. -/
def Claims.ResetKeeps : Prop := State.reset.memWf ∧ State.reset.idsBelow

/-- The reset state holds the reset values and meets the invariants. -/
def Obligations.ResetAndInvariants : Prop :=
  Claims.ResetState ∧ Claims.ResetKeeps

/-- Every step keeps main memory in canonical form: addresses strictly rising and no byte listed that reads as an unlisted
one does (log entry 4), so that equal memories are equal data. -/
def Obligations.StepKeepsMemory : Prop := ∀ s : State, s.memWf → outMemWf (step s)

/-- Every step keeps the identifiers of the outstanding requests below the next one. -/
def Obligations.StepKeepsRequestIds : Prop := ∀ s t : State, s.idsBelow → step s = .next t → t.idsBelow

/-- 09 R219: SrBits, with every step of Mix written out in 64-bit arithmetic; Mix is a bijection on 64-bit values; SrBits of all
zeros is 0; RoundTo uses bits [31:0]. -/
def Obligations.StochasticBits : Prop :=
  (∀ z : Word, let a := z ^^^ (z >>> 31)
    let b := BitVec.ofNat 64 (a.toNat * 0xC2B63D198E47A5F3 % 2 ^ 64)
    let c := b ^^^ (b >>> 29)
    let d := BitVec.ofNat 64 (c.toNat * 0x94E37A51D06B2C8F % 2 ^ 64)
    mix z = d ^^^ (d >>> 32)) ∧
  (∃ unmix : Word → Word, ∀ z, unmix (mix z) = z ∧ mix (unmix z) = z) ∧
  (∀ (seed c d : Word) (core ctx : Nat), let id := core % 2 ^ 12 * 2 ^ 4 + ctx % 2 ^ 4
    let h := mix (seed ^^^ BitVec.ofNat 64 (id * 0xE38D260B7F4C91A5 % 2 ^ 64))
    let g := mix (h ^^^ BitVec.ofNat 64 (c.toNat * 0xD1A54F873B29E6C1 % 2 ^ 64))
    srBits seed core ctx c d = mix (g ^^^ BitVec.ofNat 64 (d.toNat * 0xA7F1C46E95B30D2B % 2 ^ 64))) ∧
  srBits 0 0 0 0 0 = 0 ∧
  ∀ (seed c : Word) (core ctx d : Nat), srDraw seed core ctx c d = (srBits seed core ctx c (BitVec.ofNat 64 d)).toNat % 2 ^ 32
end

