-- ==== Sys2Proof/Laws/Map.lean ====
section
/-! SUPPORT. What finite maps and byte memories read after a write, and that writes keep the canonical form. -/
namespace Sys2Proof.Laws
open Sys2Proof.Machine

variable {β : Type}

theorem fget_below (d : β) (m : FMap β) (k j : Nat) :
    fget d (below k m) j = if j < k then fget d m j else d := by
  induction m with
  | nil => simp [below, fget]
  | cons e m ih =>
    obtain ⟨a, b⟩ := e
    simp only [below] at ih ⊢
    by_cases h : a < k <;> simp only [List.filter, h, decide_true, decide_false, fget, ih]
    · by_cases e : a = j
      · subst e; simp [h]
      · simp [e]
    · by_cases e : a = j
      · subst e; simp [h]
      · simp [e]

theorem fget_above (d : β) (m : FMap β) (k j : Nat) :
    fget d (above k m) j = if k < j then fget d m j else d := by
  induction m with
  | nil => simp [above, fget]
  | cons e m ih =>
    obtain ⟨a, b⟩ := e
    simp only [above] at ih ⊢
    by_cases h : k < a <;> simp only [List.filter, h, decide_true, decide_false, fget, ih]
    · by_cases e : a = j
      · subst e; simp [h]
      · simp [e]
    · by_cases e : a = j
      · subst e; simp [h]
      · simp [e]

theorem fhas_below (m : FMap β) (k j : Nat) : fhas (below k m) j = (decide (j < k) && fhas m j) := by
  induction m with
  | nil => simp [below, fhas]
  | cons e m ih =>
    obtain ⟨a, b⟩ := e
    simp only [below] at ih ⊢
    by_cases e : a = j
    · subst e
      by_cases h : a < k <;> simp [List.filter, h, fhas, ih]
    · have e' : (a == j) = false := by simpa using e
      by_cases h : a < k <;> simp [List.filter, h, fhas, ih, e']

theorem fget_append (d : β) (m n : FMap β) (j : Nat) :
    fget d (m ++ n) j = if fhas m j then fget d m j else fget d n j := by
  induction m with
  | nil => simp [fhas, fget]
  | cons e m ih =>
    obtain ⟨a, b⟩ := e
    by_cases e : a = j <;> simp [fget, fhas, e, ih]

theorem fget_not_has (d : β) (m : FMap β) (j : Nat) (h : fhas m j = false) : fget d m j = d := by
  induction m with
  | nil => rfl
  | cons e m ih =>
    obtain ⟨a, b⟩ := e
    simp only [fhas, Bool.or_eq_false_iff, beq_eq_false_iff_ne] at h
    simp [fget, h.1, ih h.2]

/-- Read after write at the same key. -/
@[simp] theorem fget_fset_same (d : β) (m : FMap β) (k : Nat) (v : β) : fget d (fset m k v) k = v := by
  simp [fset, fget_append, fhas_below, fget]

/-- A write leaves every other key alone. -/
theorem fget_fset_other (d : β) (m : FMap β) (k j : Nat) (v : β) (h : j ≠ k) :
    fget d (fset m k v) j = fget d m j := by
  have h' : ¬ k = j := fun e => h e.symm
  simp only [fset, fget_append, fhas_below, fget, h', if_false, fget_below, fget_above]
  by_cases lt : j < k
  · have : ¬ k < j := by omega
    by_cases hm : fhas m j = true
    · simp [lt, hm]
    · have hm' : fhas m j = false := by simpa using hm
      simp [lt, hm', this, fget_not_has d m j hm']
  · have : k < j := by omega
    simp [lt, this]

theorem fget_fput [DecidableEq β] (d : β) (m : FMap β) (k j : Nat) (v : β) :
    fget d (fput d m k v) j = if j = k then v else fget d m j := by
  by_cases hv : v = d
  · subst hv
    simp only [fput, if_true, List.append_nil, fget_append, fhas_below, fget_below, fget_above]
    by_cases hj : j = k
    · subst hj; simp
    · by_cases lt : j < k
      · have : ¬ k < j := by omega
        by_cases hm : fhas m j = true
        · simp [hj, lt, hm]
        · have hm' : fhas m j = false := by simpa using hm
          simp [hj, lt, hm', this, fget_not_has v m j hm']
      · have : k < j := by omega
        simp [hj, lt, this]
  · have e : fput d m k v = fset m k v := by simp [fput, fset, hv]
    rw [e]
    by_cases hj : j = k
    · subst hj; simp
    · simp [hj, fget_fset_other d m k j v hj]

theorem fhas_cellsOf_lt (a j : Nat) (bs : List Byte) (h : j < a) : fhas (cellsOf a bs) j = false := by
  induction bs generalizing a with
  | nil => rfl
  | cons b bs ih =>
    simp only [cellsOf]
    split
    · exact ih (a + 1) (by omega)
    · simp [fhas, ih (a + 1) (by omega)] <;> omega

theorem fget_cellsOf (a j : Nat) (bs : List Byte) :
    fget 0 (cellsOf a bs) j = if a ≤ j then (bs[j - a]?).getD 0 else 0 := by
  induction bs generalizing a with
  | nil => simp [cellsOf, fget]
  | cons b bs ih =>
    by_cases hj : j = a
    · subst hj
      simp only [cellsOf]
      split
      · rename_i hb; subst hb
        rw [fget_not_has _ _ _ (fhas_cellsOf_lt (j + 1) j bs (by omega))]; simp
      · simp [fget]
    · have key : fget 0 (cellsOf a (b :: bs)) j = fget 0 (cellsOf (a + 1) bs) j := by
        simp only [cellsOf]
        split
        · rfl
        · simp [fget, Ne.symm hj]
      rw [key, ih]
      by_cases hle : a ≤ j
      · have h1 : a + 1 ≤ j := by omega
        have h2 : j - a = (j - (a + 1)) + 1 := by omega
        simp [hle, h1, h2]
      · have h1 : ¬ a + 1 ≤ j := by omega
        simp [hle, h1]

theorem fhas_cellsOf_ge (a j : Nat) (bs : List Byte) (h : a + bs.length ≤ j) : fhas (cellsOf a bs) j = false := by
  induction bs generalizing a with
  | nil => rfl
  | cons b bs ih =>
    simp only [List.length_cons] at h
    simp only [cellsOf]
    split
    · exact ih (a + 1) (by omega)
    · simp [fhas, ih (a + 1) (by omega)] <;> omega

/-- A byte reads the last byte written to it; every other byte reads as before (00 R9). -/
theorem byteAt_putBytes (m : List Host.Cell) (a j : Nat) (bs : List Byte) :
    byteAt (putBytes m a bs) j = if a ≤ j ∧ j < a + bs.length then (bs[j - a]?).getD 0 else byteAt m j := by
  unfold putBytes byteAt
  by_cases h0 : bs.length = 0
  · have : ¬ (a ≤ j ∧ j < a + bs.length) := by omega
    simp [h0, this] <;> omega
  · simp only [h0, if_false, fget_append, fhas_below, fget_below, fget_above, List.append_assoc]
    by_cases h1 : j < a
    · have h3 : ¬ a + bs.length - 1 < j := by omega
      have h4 : ¬ (a ≤ j ∧ j < a + bs.length) := by omega
      rw [if_neg h4]
      by_cases hm : fhas m j = true
      · simp [h1, hm]
      · have hm' : fhas m j = false := by simpa using hm
        have := fget_not_has (0 : Byte) m j hm'
        simp only [h1, hm', fhas_cellsOf_lt a j bs h1, h3, this, Bool.and_false, decide_true, if_false]
        rfl
    · by_cases h2 : j < a + bs.length
      · have h3 : ¬ a + bs.length - 1 < j := by omega
        have h4 : a ≤ j ∧ j < a + bs.length := ⟨by omega, h2⟩
        have hg := fget_cellsOf a j bs
        rw [if_pos h4.1] at hg
        rw [if_pos h4]
        by_cases hc : fhas (cellsOf a bs) j = true
        · simp only [h1, decide_false, Bool.false_and, hc, if_true]
          exact hg
        · have hc' : fhas (cellsOf a bs) j = false := by simpa using hc
          rw [fget_not_has (0 : Byte) _ j hc'] at hg
          simp only [h1, decide_false, Bool.false_and, hc', h3, if_false]
          exact hg
      · have h3 : a + bs.length - 1 < j := by omega
        have h4 : ¬ (a ≤ j ∧ j < a + bs.length) := by omega
        simp only [h1, decide_false, Bool.false_and, h3, if_true, h4, if_false,
          fhas_cellsOf_ge a j bs (by omega)]
        rfl

/-! ### the canonical form -/

theorem risingFrom_mono (lo lo' : Nat) (m : FMap β) (h : risingFrom lo m = true) (hle : lo' ≤ lo) :
    risingFrom lo' m = true := by
  cases m with
  | nil => rfl
  | cons e m =>
    obtain ⟨a, b⟩ := e
    simp only [risingFrom, Bool.and_eq_true, decide_eq_true_eq] at h ⊢
    exact ⟨by omega, h.2⟩

theorem risingFrom_below (lo k : Nat) (m : FMap β) (h : risingFrom lo m = true) :
    risingFrom lo (below k m) = true := by
  induction m generalizing lo with
  | nil => rfl
  | cons e m ih =>
    obtain ⟨a, b⟩ := e
    simp only [risingFrom, Bool.and_eq_true, decide_eq_true_eq] at h
    have := ih (a + 1) h.2
    simp only [below] at this ⊢
    by_cases hk : a < k
    · simp only [List.filter, hk, decide_true, risingFrom, this, h.1, Bool.and_self]
    · simp only [List.filter, hk, decide_false]
      exact risingFrom_mono _ _ _ this (by omega)

theorem risingFrom_above (lo k : Nat) (m : FMap β) (h : risingFrom lo m = true) :
    risingFrom (k + 1) (above k m) = true := by
  induction m generalizing lo with
  | nil => rfl
  | cons e m ih =>
    obtain ⟨a, b⟩ := e
    simp only [risingFrom, Bool.and_eq_true, decide_eq_true_eq] at h
    simp only [above]
    by_cases hk : k < a
    · have hall : (m.filter fun e => decide (k < e.1)) = m := by
        clear ih
        have : ∀ (lo : Nat) (m : FMap β), k < lo → risingFrom lo m = true →
            (m.filter fun e => decide (k < e.1)) = m := by
          intro lo m
          induction m generalizing lo with
          | nil => intros; rfl
          | cons e m ih =>
            intro hlo hr
            obtain ⟨a, b⟩ := e
            simp only [risingFrom, Bool.and_eq_true, decide_eq_true_eq] at hr
            have ha : k < a := by omega
            simp only [List.filter, ha, decide_true]
            rw [ih (a + 1) (by omega) hr.2]
        exact this (a + 1) m (by omega) h.2
      simp only [List.filter, hk, decide_true, risingFrom, hall, h.2]
      simp; omega
    · simp only [List.filter, hk, decide_false]
      exact ih (a + 1) h.2

/-- Keys of a prefix that stay below a bound may be followed by keys from that bound on. -/
theorem risingFrom_append (lo k : Nat) (m n : FMap β) (hlo : lo ≤ k) (hm : risingFrom lo m = true)
    (hb : m.all (fun e => decide (e.1 < k)) = true) (hn : risingFrom k n = true) :
    risingFrom lo (m ++ n) = true := by
  induction m generalizing lo with
  | nil => exact risingFrom_mono _ _ _ hn hlo
  | cons e m ih =>
    obtain ⟨a, b⟩ := e
    simp only [risingFrom, Bool.and_eq_true, decide_eq_true_eq, List.all_cons] at hm hb
    simp only [List.cons_append, risingFrom, Bool.and_eq_true, decide_eq_true_eq]
    exact ⟨hm.1, ih (a + 1) (by omega) hm.2 hb.2⟩

theorem all_below (k : Nat) (m : FMap β) : (below k m).all (fun e => decide (e.1 < k)) = true := by
  simp [below]

theorem risingFrom_cellsOf (a : Nat) (bs : List Byte) :
    risingFrom a (cellsOf a bs) = true ∧ (cellsOf a bs).all (fun e => decide (e.1 < a + bs.length)) = true
      ∧ (cellsOf a bs).all (fun e => e.2 != 0) = true := by
  induction bs generalizing a with
  | nil => simp [cellsOf, risingFrom]
  | cons b bs ih =>
    obtain ⟨h1, h2, h3⟩ := ih (a + 1)
    have h2' : (cellsOf (a + 1) bs).all (fun e => decide (e.1 < a + (b :: bs).length)) = true := by
      rw [show a + (b :: bs).length = a + 1 + bs.length by simp only [List.length_cons]; omega]; exact h2
    simp only [cellsOf]
    split
    · exact ⟨risingFrom_mono _ _ _ h1 (by omega), h2', h3⟩
    · rename_i hb
      refine ⟨?_, ?_, ?_⟩
      · simp [risingFrom, h1]
      · rw [List.all_cons, h2']; simp
      · rw [List.all_cons, h3, Bool.and_true]; exact bne_iff_ne.mpr hb

/-- Writing bytes keeps the canonical form. -/
theorem wf_putBytes (m : List Host.Cell) (a : Nat) (bs : List Byte) (h : Memory.wf m = true) :
    Memory.wf (putBytes m a bs) = true := by
  unfold putBytes
  split
  · exact h
  rename_i h0
  simp only [Memory.wf, Bool.and_eq_true] at h ⊢
  obtain ⟨h1, h2, h3⟩ := risingFrom_cellsOf a bs
  have hpos : a + bs.length - 1 + 1 = a + bs.length := by omega
  refine ⟨?_, ?_⟩
  · rw [List.append_assoc]
    refine risingFrom_append 0 a _ _ (by omega) (risingFrom_below 0 a m h.1) (all_below a m) ?_
    refine risingFrom_append a (a + bs.length) _ _ (by omega) h1 h2 ?_
    have := risingFrom_above 0 (a + bs.length - 1) m h.1
    rwa [hpos] at this
  · have hm := h.2
    simp only [List.all_append, Bool.and_eq_true, h3, and_true, true_and]
    refine ⟨?_, ?_⟩
    · simp only [below, List.all_eq_true, List.mem_filter] at hm ⊢
      exact fun e he => hm e he.1
    · simp only [above, List.all_eq_true, List.mem_filter] at hm ⊢
      exact fun e he => hm e he.1

/-! ### sorting -/

theorem insertBy_perm {α : Type} (le : α → α → Bool) (x : α) (xs : List α) : (insertBy le x xs).Perm (x :: xs) := by
  induction xs with
  | nil => exact .refl _
  | cons y ys ih =>
    unfold insertBy
    split
    · exact .refl _
    · exact (ih.cons y).trans (.swap x y ys)

/-- Sorting keeps the elements. -/
theorem sortBy_perm {α : Type} (le : α → α → Bool) (xs : List α) : (sortBy le xs).Perm xs := by
  induction xs with
  | nil => exact .refl _
  | cons x xs ih => exact (insertBy_perm le x _).trans (ih.cons x)

theorem mem_sortBy {α : Type} (le : α → α → Bool) (xs : List α) (a : α) : a ∈ sortBy le xs ↔ a ∈ xs :=
  (sortBy_perm le xs).mem_iff

theorem length_sortBy {α : Type} (le : α → α → Bool) (xs : List α) : (sortBy le xs).length = xs.length :=
  (sortBy_perm le xs).length_eq

theorem insertBy_pairwise {α : Type} (le : α → α → Bool) (total : ∀ a b, le a b = true ∨ le b a = true)
    (trans : ∀ a b c, le a b = true → le b c = true → le a c = true) (x : α) (ys : List α)
    (h : ys.Pairwise (fun a b => le a b = true)) : (insertBy le x ys).Pairwise (fun a b => le a b = true) := by
  induction ys with
  | nil => simp [insertBy]
  | cons y ys ih =>
    obtain ⟨hy, hs⟩ := List.pairwise_cons.mp h
    unfold insertBy
    split
    · rename_i hxy
      refine List.pairwise_cons.mpr ⟨fun z hz => ?_, h⟩
      rcases List.mem_cons.mp hz with rfl | hz
      · exact hxy
      · exact trans _ _ _ hxy (hy z hz)
    · rename_i hxy
      refine List.pairwise_cons.mpr ⟨fun z hz => ?_, ih hs⟩
      rcases List.mem_cons.mp ((insertBy_perm le x ys).mem_iff.mp hz) with rfl | hz
      · exact (total y z).resolve_right fun h => hxy h
      · exact hy z hz

/-- Sorting by a total order puts the elements in order. -/
theorem sortBy_pairwise {α : Type} (le : α → α → Bool) (total : ∀ a b, le a b = true ∨ le b a = true)
    (trans : ∀ a b c, le a b = true → le b c = true → le a c = true) (xs : List α) :
    (sortBy le xs).Pairwise (fun a b => le a b = true) := by
  induction xs with
  | nil => exact .nil
  | cons x xs ih => exact insertBy_pairwise le total trans x _ ih

end Sys2Proof.Laws
end

