-- ==== Sys2Proof/Laws/State.lean ====
section
/-! SUPPORT. What each field of State reads after an update of a core, a context or its registers. -/
namespace Sys2Proof.Machine

variable (s : State)

/-! ### setCore -/
@[simp] theorem setCore_turn (k : Nat) (c : Core) : (setCore s k c).turn = s.turn := rfl
@[simp] theorem setCore_cur (k : Nat) (c : Core) : (setCore s k c).cur = s.cur := rfl
@[simp] theorem setCore_agenda (k : Nat) (c : Core) : (setCore s k c).agenda = s.agenda := rfl
@[simp] theorem setCore_fresh (k : Nat) (c : Core) : (setCore s k c).fresh = s.fresh := rfl
@[simp] theorem setCore_nextId (k : Nat) (c : Core) : (setCore s k c).nextId = s.nextId := rfl
@[simp] theorem setCore_cycle (k : Nat) (c : Core) : (setCore s k c).cycle = s.cycle := rfl
@[simp] theorem setCore_pkgs (k : Nat) (c : Core) : (setCore s k c).pkgs = s.pkgs := rfl
@[simp] theorem setCore_mem (k : Nat) (c : Core) : (setCore s k c).mem = s.mem := rfl
@[simp] theorem setCore_reqs (k : Nat) (c : Core) : (setCore s k c).reqs = s.reqs := rfl
@[simp] theorem setCore_msgs (k : Nat) (c : Core) : (setCore s k c).msgs = s.msgs := rfl
@[simp] theorem setCore_dir (k : Nat) (c : Core) : (setCore s k c).dir = s.dir := rfl
@[simp] theorem setCore_dirCv (k : Nat) (c : Core) : (setCore s k c).dirCv = s.dirCv := rfl
@[simp] theorem setCore_l2 (k : Nat) (c : Core) : (setCore s k c).l2 = s.l2 := rfl
@[simp] theorem setCore_l2way (k : Nat) (c : Core) : (setCore s k c).l2way = s.l2way := rfl
@[simp] theorem setCore_part (k : Nat) (c : Core) : (setCore s k c).part = s.part := rfl
@[simp] theorem setCore_ovr (k : Nat) (c : Core) : (setCore s k c).ovr = s.ovr := rfl
@[simp] theorem setCore_l2tlb (k : Nat) (c : Core) : (setCore s k c).l2tlb = s.l2tlb := rfl
@[simp] theorem setCore_locks (k : Nat) (c : Core) : (setCore s k c).locks = s.locks := rfl
@[simp] theorem setCore_pages (k : Nat) (c : Core) : (setCore s k c).pages = s.pages := rfl
@[simp] theorem setCore_owners (k : Nat) (c : Core) : (setCore s k c).owners = s.owners := rfl
@[simp] theorem setCore_poison (k : Nat) (c : Core) : (setCore s k c).poison = s.poison := rfl
@[simp] theorem setCore_probeMiss (k : Nat) (c : Core) : (setCore s k c).probeMiss = s.probeMiss := rfl
@[simp] theorem setCore_lostHomes (k : Nat) (c : Core) : (setCore s k c).lostHomes = s.lostHomes := rfl
@[simp] theorem setCore_doms (k : Nat) (c : Core) : (setCore s k c).doms = s.doms := rfl
@[simp] theorem setCore_arb (k : Nat) (c : Core) : (setCore s k c).arb = s.arb := rfl
@[simp] theorem setCore_copyLast (k : Nat) (c : Core) : (setCore s k c).copyLast = s.copyLast := rfl
@[simp] theorem setCore_gatherLast (k : Nat) (c : Core) : (setCore s k c).gatherLast = s.gatherLast := rfl
@[simp] theorem setCore_launches (k : Nat) (c : Core) : (setCore s k c).launches = s.launches := rfl
@[simp] theorem setCore_seq (k : Nat) (c : Core) : (setCore s k c).seq = s.seq := rfl
@[simp] theorem setCore_events (k : Nat) (c : Core) : (setCore s k c).events = s.events := rfl
@[simp] theorem setCore_occ (k : Nat) (c : Core) : (setCore s k c).occ = s.occ := rfl
@[simp] theorem setCore_parts (k : Nat) (c : Core) : (setCore s k c).parts = s.parts := rfl
@[simp] theorem setCore_hwins (k : Nat) (c : Core) : (setCore s k c).hwins = s.hwins := rfl
@[simp] theorem setCore_rings (k : Nat) (c : Core) : (setCore s k c).rings = s.rings := rfl
@[simp] theorem setCore_evlog (k : Nat) (c : Core) : (setCore s k c).evlog = s.evlog := rfl
@[simp] theorem setCore_sessions (k : Nat) (c : Core) : (setCore s k c).sessions = s.sessions := rfl
@[simp] theorem setCore_hostq (k : Nat) (c : Core) : (setCore s k c).hostq = s.hostq := rfl
@[simp] theorem setCore_tables (k : Nat) (c : Core) : (setCore s k c).tables = s.tables := rfl
@[simp] theorem setCore_links (k : Nat) (c : Core) : (setCore s k c).links = s.links := rfl
@[simp] theorem setCore_lostPkgs (k : Nat) (c : Core) : (setCore s k c).lostPkgs = s.lostPkgs := rfl
@[simp] theorem setCore_spares (k : Nat) (c : Core) : (setCore s k c).spares = s.spares := rfl
@[simp] theorem setCore_islands (k : Nat) (c : Core) : (setCore s k c).islands = s.islands := rfl
@[simp] theorem setCore_boots (k : Nat) (c : Core) : (setCore s k c).boots = s.boots := rfl

/-! ### setCtx -/
@[simp] theorem setCtx_turn (k n : Nat) (c : Context) : (setCtx s k n c).turn = s.turn := rfl
@[simp] theorem setCtx_cur (k n : Nat) (c : Context) : (setCtx s k n c).cur = s.cur := rfl
@[simp] theorem setCtx_agenda (k n : Nat) (c : Context) : (setCtx s k n c).agenda = s.agenda := rfl
@[simp] theorem setCtx_fresh (k n : Nat) (c : Context) : (setCtx s k n c).fresh = s.fresh := rfl
@[simp] theorem setCtx_nextId (k n : Nat) (c : Context) : (setCtx s k n c).nextId = s.nextId := rfl
@[simp] theorem setCtx_cycle (k n : Nat) (c : Context) : (setCtx s k n c).cycle = s.cycle := rfl
@[simp] theorem setCtx_pkgs (k n : Nat) (c : Context) : (setCtx s k n c).pkgs = s.pkgs := rfl
@[simp] theorem setCtx_mem (k n : Nat) (c : Context) : (setCtx s k n c).mem = s.mem := rfl
@[simp] theorem setCtx_reqs (k n : Nat) (c : Context) : (setCtx s k n c).reqs = s.reqs := rfl
@[simp] theorem setCtx_msgs (k n : Nat) (c : Context) : (setCtx s k n c).msgs = s.msgs := rfl
@[simp] theorem setCtx_dir (k n : Nat) (c : Context) : (setCtx s k n c).dir = s.dir := rfl
@[simp] theorem setCtx_dirCv (k n : Nat) (c : Context) : (setCtx s k n c).dirCv = s.dirCv := rfl
@[simp] theorem setCtx_l2 (k n : Nat) (c : Context) : (setCtx s k n c).l2 = s.l2 := rfl
@[simp] theorem setCtx_l2way (k n : Nat) (c : Context) : (setCtx s k n c).l2way = s.l2way := rfl
@[simp] theorem setCtx_part (k n : Nat) (c : Context) : (setCtx s k n c).part = s.part := rfl
@[simp] theorem setCtx_ovr (k n : Nat) (c : Context) : (setCtx s k n c).ovr = s.ovr := rfl
@[simp] theorem setCtx_l2tlb (k n : Nat) (c : Context) : (setCtx s k n c).l2tlb = s.l2tlb := rfl
@[simp] theorem setCtx_locks (k n : Nat) (c : Context) : (setCtx s k n c).locks = s.locks := rfl
@[simp] theorem setCtx_pages (k n : Nat) (c : Context) : (setCtx s k n c).pages = s.pages := rfl
@[simp] theorem setCtx_owners (k n : Nat) (c : Context) : (setCtx s k n c).owners = s.owners := rfl
@[simp] theorem setCtx_poison (k n : Nat) (c : Context) : (setCtx s k n c).poison = s.poison := rfl
@[simp] theorem setCtx_probeMiss (k n : Nat) (c : Context) : (setCtx s k n c).probeMiss = s.probeMiss := rfl
@[simp] theorem setCtx_lostHomes (k n : Nat) (c : Context) : (setCtx s k n c).lostHomes = s.lostHomes := rfl
@[simp] theorem setCtx_doms (k n : Nat) (c : Context) : (setCtx s k n c).doms = s.doms := rfl
@[simp] theorem setCtx_arb (k n : Nat) (c : Context) : (setCtx s k n c).arb = s.arb := rfl
@[simp] theorem setCtx_copyLast (k n : Nat) (c : Context) : (setCtx s k n c).copyLast = s.copyLast := rfl
@[simp] theorem setCtx_gatherLast (k n : Nat) (c : Context) : (setCtx s k n c).gatherLast = s.gatherLast := rfl
@[simp] theorem setCtx_launches (k n : Nat) (c : Context) : (setCtx s k n c).launches = s.launches := rfl
@[simp] theorem setCtx_seq (k n : Nat) (c : Context) : (setCtx s k n c).seq = s.seq := rfl
@[simp] theorem setCtx_events (k n : Nat) (c : Context) : (setCtx s k n c).events = s.events := rfl
@[simp] theorem setCtx_occ (k n : Nat) (c : Context) : (setCtx s k n c).occ = s.occ := rfl
@[simp] theorem setCtx_parts (k n : Nat) (c : Context) : (setCtx s k n c).parts = s.parts := rfl
@[simp] theorem setCtx_hwins (k n : Nat) (c : Context) : (setCtx s k n c).hwins = s.hwins := rfl
@[simp] theorem setCtx_rings (k n : Nat) (c : Context) : (setCtx s k n c).rings = s.rings := rfl
@[simp] theorem setCtx_evlog (k n : Nat) (c : Context) : (setCtx s k n c).evlog = s.evlog := rfl
@[simp] theorem setCtx_sessions (k n : Nat) (c : Context) : (setCtx s k n c).sessions = s.sessions := rfl
@[simp] theorem setCtx_hostq (k n : Nat) (c : Context) : (setCtx s k n c).hostq = s.hostq := rfl
@[simp] theorem setCtx_tables (k n : Nat) (c : Context) : (setCtx s k n c).tables = s.tables := rfl
@[simp] theorem setCtx_links (k n : Nat) (c : Context) : (setCtx s k n c).links = s.links := rfl
@[simp] theorem setCtx_lostPkgs (k n : Nat) (c : Context) : (setCtx s k n c).lostPkgs = s.lostPkgs := rfl
@[simp] theorem setCtx_spares (k n : Nat) (c : Context) : (setCtx s k n c).spares = s.spares := rfl
@[simp] theorem setCtx_islands (k n : Nat) (c : Context) : (setCtx s k n c).islands = s.islands := rfl
@[simp] theorem setCtx_boots (k n : Nat) (c : Context) : (setCtx s k n c).boots = s.boots := rfl

/-! ### modCore -/
@[simp] theorem modCore_turn (k : Nat) (f : Core → Core) : (modCore s k f).turn = s.turn := rfl
@[simp] theorem modCore_cur (k : Nat) (f : Core → Core) : (modCore s k f).cur = s.cur := rfl
@[simp] theorem modCore_agenda (k : Nat) (f : Core → Core) : (modCore s k f).agenda = s.agenda := rfl
@[simp] theorem modCore_fresh (k : Nat) (f : Core → Core) : (modCore s k f).fresh = s.fresh := rfl
@[simp] theorem modCore_nextId (k : Nat) (f : Core → Core) : (modCore s k f).nextId = s.nextId := rfl
@[simp] theorem modCore_cycle (k : Nat) (f : Core → Core) : (modCore s k f).cycle = s.cycle := rfl
@[simp] theorem modCore_pkgs (k : Nat) (f : Core → Core) : (modCore s k f).pkgs = s.pkgs := rfl
@[simp] theorem modCore_mem (k : Nat) (f : Core → Core) : (modCore s k f).mem = s.mem := rfl
@[simp] theorem modCore_reqs (k : Nat) (f : Core → Core) : (modCore s k f).reqs = s.reqs := rfl
@[simp] theorem modCore_msgs (k : Nat) (f : Core → Core) : (modCore s k f).msgs = s.msgs := rfl
@[simp] theorem modCore_dir (k : Nat) (f : Core → Core) : (modCore s k f).dir = s.dir := rfl
@[simp] theorem modCore_dirCv (k : Nat) (f : Core → Core) : (modCore s k f).dirCv = s.dirCv := rfl
@[simp] theorem modCore_l2 (k : Nat) (f : Core → Core) : (modCore s k f).l2 = s.l2 := rfl
@[simp] theorem modCore_l2way (k : Nat) (f : Core → Core) : (modCore s k f).l2way = s.l2way := rfl
@[simp] theorem modCore_part (k : Nat) (f : Core → Core) : (modCore s k f).part = s.part := rfl
@[simp] theorem modCore_ovr (k : Nat) (f : Core → Core) : (modCore s k f).ovr = s.ovr := rfl
@[simp] theorem modCore_l2tlb (k : Nat) (f : Core → Core) : (modCore s k f).l2tlb = s.l2tlb := rfl
@[simp] theorem modCore_locks (k : Nat) (f : Core → Core) : (modCore s k f).locks = s.locks := rfl
@[simp] theorem modCore_pages (k : Nat) (f : Core → Core) : (modCore s k f).pages = s.pages := rfl
@[simp] theorem modCore_owners (k : Nat) (f : Core → Core) : (modCore s k f).owners = s.owners := rfl
@[simp] theorem modCore_poison (k : Nat) (f : Core → Core) : (modCore s k f).poison = s.poison := rfl
@[simp] theorem modCore_probeMiss (k : Nat) (f : Core → Core) : (modCore s k f).probeMiss = s.probeMiss := rfl
@[simp] theorem modCore_lostHomes (k : Nat) (f : Core → Core) : (modCore s k f).lostHomes = s.lostHomes := rfl
@[simp] theorem modCore_doms (k : Nat) (f : Core → Core) : (modCore s k f).doms = s.doms := rfl
@[simp] theorem modCore_arb (k : Nat) (f : Core → Core) : (modCore s k f).arb = s.arb := rfl
@[simp] theorem modCore_copyLast (k : Nat) (f : Core → Core) : (modCore s k f).copyLast = s.copyLast := rfl
@[simp] theorem modCore_gatherLast (k : Nat) (f : Core → Core) : (modCore s k f).gatherLast = s.gatherLast := rfl
@[simp] theorem modCore_launches (k : Nat) (f : Core → Core) : (modCore s k f).launches = s.launches := rfl
@[simp] theorem modCore_seq (k : Nat) (f : Core → Core) : (modCore s k f).seq = s.seq := rfl
@[simp] theorem modCore_events (k : Nat) (f : Core → Core) : (modCore s k f).events = s.events := rfl
@[simp] theorem modCore_occ (k : Nat) (f : Core → Core) : (modCore s k f).occ = s.occ := rfl
@[simp] theorem modCore_parts (k : Nat) (f : Core → Core) : (modCore s k f).parts = s.parts := rfl
@[simp] theorem modCore_hwins (k : Nat) (f : Core → Core) : (modCore s k f).hwins = s.hwins := rfl
@[simp] theorem modCore_rings (k : Nat) (f : Core → Core) : (modCore s k f).rings = s.rings := rfl
@[simp] theorem modCore_evlog (k : Nat) (f : Core → Core) : (modCore s k f).evlog = s.evlog := rfl
@[simp] theorem modCore_sessions (k : Nat) (f : Core → Core) : (modCore s k f).sessions = s.sessions := rfl
@[simp] theorem modCore_hostq (k : Nat) (f : Core → Core) : (modCore s k f).hostq = s.hostq := rfl
@[simp] theorem modCore_tables (k : Nat) (f : Core → Core) : (modCore s k f).tables = s.tables := rfl
@[simp] theorem modCore_links (k : Nat) (f : Core → Core) : (modCore s k f).links = s.links := rfl
@[simp] theorem modCore_lostPkgs (k : Nat) (f : Core → Core) : (modCore s k f).lostPkgs = s.lostPkgs := rfl
@[simp] theorem modCore_spares (k : Nat) (f : Core → Core) : (modCore s k f).spares = s.spares := rfl
@[simp] theorem modCore_islands (k : Nat) (f : Core → Core) : (modCore s k f).islands = s.islands := rfl
@[simp] theorem modCore_boots (k : Nat) (f : Core → Core) : (modCore s k f).boots = s.boots := rfl

/-! ### modCtx -/
@[simp] theorem modCtx_turn (k n : Nat) (f : Context → Context) : (modCtx s k n f).turn = s.turn := rfl
@[simp] theorem modCtx_cur (k n : Nat) (f : Context → Context) : (modCtx s k n f).cur = s.cur := rfl
@[simp] theorem modCtx_agenda (k n : Nat) (f : Context → Context) : (modCtx s k n f).agenda = s.agenda := rfl
@[simp] theorem modCtx_fresh (k n : Nat) (f : Context → Context) : (modCtx s k n f).fresh = s.fresh := rfl
@[simp] theorem modCtx_nextId (k n : Nat) (f : Context → Context) : (modCtx s k n f).nextId = s.nextId := rfl
@[simp] theorem modCtx_cycle (k n : Nat) (f : Context → Context) : (modCtx s k n f).cycle = s.cycle := rfl
@[simp] theorem modCtx_pkgs (k n : Nat) (f : Context → Context) : (modCtx s k n f).pkgs = s.pkgs := rfl
@[simp] theorem modCtx_mem (k n : Nat) (f : Context → Context) : (modCtx s k n f).mem = s.mem := rfl
@[simp] theorem modCtx_reqs (k n : Nat) (f : Context → Context) : (modCtx s k n f).reqs = s.reqs := rfl
@[simp] theorem modCtx_msgs (k n : Nat) (f : Context → Context) : (modCtx s k n f).msgs = s.msgs := rfl
@[simp] theorem modCtx_dir (k n : Nat) (f : Context → Context) : (modCtx s k n f).dir = s.dir := rfl
@[simp] theorem modCtx_dirCv (k n : Nat) (f : Context → Context) : (modCtx s k n f).dirCv = s.dirCv := rfl
@[simp] theorem modCtx_l2 (k n : Nat) (f : Context → Context) : (modCtx s k n f).l2 = s.l2 := rfl
@[simp] theorem modCtx_l2way (k n : Nat) (f : Context → Context) : (modCtx s k n f).l2way = s.l2way := rfl
@[simp] theorem modCtx_part (k n : Nat) (f : Context → Context) : (modCtx s k n f).part = s.part := rfl
@[simp] theorem modCtx_ovr (k n : Nat) (f : Context → Context) : (modCtx s k n f).ovr = s.ovr := rfl
@[simp] theorem modCtx_l2tlb (k n : Nat) (f : Context → Context) : (modCtx s k n f).l2tlb = s.l2tlb := rfl
@[simp] theorem modCtx_locks (k n : Nat) (f : Context → Context) : (modCtx s k n f).locks = s.locks := rfl
@[simp] theorem modCtx_pages (k n : Nat) (f : Context → Context) : (modCtx s k n f).pages = s.pages := rfl
@[simp] theorem modCtx_owners (k n : Nat) (f : Context → Context) : (modCtx s k n f).owners = s.owners := rfl
@[simp] theorem modCtx_poison (k n : Nat) (f : Context → Context) : (modCtx s k n f).poison = s.poison := rfl
@[simp] theorem modCtx_probeMiss (k n : Nat) (f : Context → Context) : (modCtx s k n f).probeMiss = s.probeMiss := rfl
@[simp] theorem modCtx_lostHomes (k n : Nat) (f : Context → Context) : (modCtx s k n f).lostHomes = s.lostHomes := rfl
@[simp] theorem modCtx_doms (k n : Nat) (f : Context → Context) : (modCtx s k n f).doms = s.doms := rfl
@[simp] theorem modCtx_arb (k n : Nat) (f : Context → Context) : (modCtx s k n f).arb = s.arb := rfl
@[simp] theorem modCtx_copyLast (k n : Nat) (f : Context → Context) : (modCtx s k n f).copyLast = s.copyLast := rfl
@[simp] theorem modCtx_gatherLast (k n : Nat) (f : Context → Context) : (modCtx s k n f).gatherLast = s.gatherLast := rfl
@[simp] theorem modCtx_launches (k n : Nat) (f : Context → Context) : (modCtx s k n f).launches = s.launches := rfl
@[simp] theorem modCtx_seq (k n : Nat) (f : Context → Context) : (modCtx s k n f).seq = s.seq := rfl
@[simp] theorem modCtx_events (k n : Nat) (f : Context → Context) : (modCtx s k n f).events = s.events := rfl
@[simp] theorem modCtx_occ (k n : Nat) (f : Context → Context) : (modCtx s k n f).occ = s.occ := rfl
@[simp] theorem modCtx_parts (k n : Nat) (f : Context → Context) : (modCtx s k n f).parts = s.parts := rfl
@[simp] theorem modCtx_hwins (k n : Nat) (f : Context → Context) : (modCtx s k n f).hwins = s.hwins := rfl
@[simp] theorem modCtx_rings (k n : Nat) (f : Context → Context) : (modCtx s k n f).rings = s.rings := rfl
@[simp] theorem modCtx_evlog (k n : Nat) (f : Context → Context) : (modCtx s k n f).evlog = s.evlog := rfl
@[simp] theorem modCtx_sessions (k n : Nat) (f : Context → Context) : (modCtx s k n f).sessions = s.sessions := rfl
@[simp] theorem modCtx_hostq (k n : Nat) (f : Context → Context) : (modCtx s k n f).hostq = s.hostq := rfl
@[simp] theorem modCtx_tables (k n : Nat) (f : Context → Context) : (modCtx s k n f).tables = s.tables := rfl
@[simp] theorem modCtx_links (k n : Nat) (f : Context → Context) : (modCtx s k n f).links = s.links := rfl
@[simp] theorem modCtx_lostPkgs (k n : Nat) (f : Context → Context) : (modCtx s k n f).lostPkgs = s.lostPkgs := rfl
@[simp] theorem modCtx_spares (k n : Nat) (f : Context → Context) : (modCtx s k n f).spares = s.spares := rfl
@[simp] theorem modCtx_islands (k n : Nat) (f : Context → Context) : (modCtx s k n f).islands = s.islands := rfl
@[simp] theorem modCtx_boots (k n : Nat) (f : Context → Context) : (modCtx s k n f).boots = s.boots := rfl

/-! ### setMe -/
@[simp] theorem setMe_turn (c : Context) : (setMe s c).turn = s.turn := rfl
@[simp] theorem setMe_cur (c : Context) : (setMe s c).cur = s.cur := rfl
@[simp] theorem setMe_agenda (c : Context) : (setMe s c).agenda = s.agenda := rfl
@[simp] theorem setMe_fresh (c : Context) : (setMe s c).fresh = s.fresh := rfl
@[simp] theorem setMe_nextId (c : Context) : (setMe s c).nextId = s.nextId := rfl
@[simp] theorem setMe_cycle (c : Context) : (setMe s c).cycle = s.cycle := rfl
@[simp] theorem setMe_pkgs (c : Context) : (setMe s c).pkgs = s.pkgs := rfl
@[simp] theorem setMe_mem (c : Context) : (setMe s c).mem = s.mem := rfl
@[simp] theorem setMe_reqs (c : Context) : (setMe s c).reqs = s.reqs := rfl
@[simp] theorem setMe_msgs (c : Context) : (setMe s c).msgs = s.msgs := rfl
@[simp] theorem setMe_dir (c : Context) : (setMe s c).dir = s.dir := rfl
@[simp] theorem setMe_dirCv (c : Context) : (setMe s c).dirCv = s.dirCv := rfl
@[simp] theorem setMe_l2 (c : Context) : (setMe s c).l2 = s.l2 := rfl
@[simp] theorem setMe_l2way (c : Context) : (setMe s c).l2way = s.l2way := rfl
@[simp] theorem setMe_part (c : Context) : (setMe s c).part = s.part := rfl
@[simp] theorem setMe_ovr (c : Context) : (setMe s c).ovr = s.ovr := rfl
@[simp] theorem setMe_l2tlb (c : Context) : (setMe s c).l2tlb = s.l2tlb := rfl
@[simp] theorem setMe_locks (c : Context) : (setMe s c).locks = s.locks := rfl
@[simp] theorem setMe_pages (c : Context) : (setMe s c).pages = s.pages := rfl
@[simp] theorem setMe_owners (c : Context) : (setMe s c).owners = s.owners := rfl
@[simp] theorem setMe_poison (c : Context) : (setMe s c).poison = s.poison := rfl
@[simp] theorem setMe_probeMiss (c : Context) : (setMe s c).probeMiss = s.probeMiss := rfl
@[simp] theorem setMe_lostHomes (c : Context) : (setMe s c).lostHomes = s.lostHomes := rfl
@[simp] theorem setMe_doms (c : Context) : (setMe s c).doms = s.doms := rfl
@[simp] theorem setMe_arb (c : Context) : (setMe s c).arb = s.arb := rfl
@[simp] theorem setMe_copyLast (c : Context) : (setMe s c).copyLast = s.copyLast := rfl
@[simp] theorem setMe_gatherLast (c : Context) : (setMe s c).gatherLast = s.gatherLast := rfl
@[simp] theorem setMe_launches (c : Context) : (setMe s c).launches = s.launches := rfl
@[simp] theorem setMe_seq (c : Context) : (setMe s c).seq = s.seq := rfl
@[simp] theorem setMe_events (c : Context) : (setMe s c).events = s.events := rfl
@[simp] theorem setMe_occ (c : Context) : (setMe s c).occ = s.occ := rfl
@[simp] theorem setMe_parts (c : Context) : (setMe s c).parts = s.parts := rfl
@[simp] theorem setMe_hwins (c : Context) : (setMe s c).hwins = s.hwins := rfl
@[simp] theorem setMe_rings (c : Context) : (setMe s c).rings = s.rings := rfl
@[simp] theorem setMe_evlog (c : Context) : (setMe s c).evlog = s.evlog := rfl
@[simp] theorem setMe_sessions (c : Context) : (setMe s c).sessions = s.sessions := rfl
@[simp] theorem setMe_hostq (c : Context) : (setMe s c).hostq = s.hostq := rfl
@[simp] theorem setMe_tables (c : Context) : (setMe s c).tables = s.tables := rfl
@[simp] theorem setMe_links (c : Context) : (setMe s c).links = s.links := rfl
@[simp] theorem setMe_lostPkgs (c : Context) : (setMe s c).lostPkgs = s.lostPkgs := rfl
@[simp] theorem setMe_spares (c : Context) : (setMe s c).spares = s.spares := rfl
@[simp] theorem setMe_islands (c : Context) : (setMe s c).islands = s.islands := rfl
@[simp] theorem setMe_boots (c : Context) : (setMe s c).boots = s.boots := rfl

/-! ### modMe -/
@[simp] theorem modMe_turn (f : Context → Context) : (modMe s f).turn = s.turn := rfl
@[simp] theorem modMe_cur (f : Context → Context) : (modMe s f).cur = s.cur := rfl
@[simp] theorem modMe_agenda (f : Context → Context) : (modMe s f).agenda = s.agenda := rfl
@[simp] theorem modMe_fresh (f : Context → Context) : (modMe s f).fresh = s.fresh := rfl
@[simp] theorem modMe_nextId (f : Context → Context) : (modMe s f).nextId = s.nextId := rfl
@[simp] theorem modMe_cycle (f : Context → Context) : (modMe s f).cycle = s.cycle := rfl
@[simp] theorem modMe_pkgs (f : Context → Context) : (modMe s f).pkgs = s.pkgs := rfl
@[simp] theorem modMe_mem (f : Context → Context) : (modMe s f).mem = s.mem := rfl
@[simp] theorem modMe_reqs (f : Context → Context) : (modMe s f).reqs = s.reqs := rfl
@[simp] theorem modMe_msgs (f : Context → Context) : (modMe s f).msgs = s.msgs := rfl
@[simp] theorem modMe_dir (f : Context → Context) : (modMe s f).dir = s.dir := rfl
@[simp] theorem modMe_dirCv (f : Context → Context) : (modMe s f).dirCv = s.dirCv := rfl
@[simp] theorem modMe_l2 (f : Context → Context) : (modMe s f).l2 = s.l2 := rfl
@[simp] theorem modMe_l2way (f : Context → Context) : (modMe s f).l2way = s.l2way := rfl
@[simp] theorem modMe_part (f : Context → Context) : (modMe s f).part = s.part := rfl
@[simp] theorem modMe_ovr (f : Context → Context) : (modMe s f).ovr = s.ovr := rfl
@[simp] theorem modMe_l2tlb (f : Context → Context) : (modMe s f).l2tlb = s.l2tlb := rfl
@[simp] theorem modMe_locks (f : Context → Context) : (modMe s f).locks = s.locks := rfl
@[simp] theorem modMe_pages (f : Context → Context) : (modMe s f).pages = s.pages := rfl
@[simp] theorem modMe_owners (f : Context → Context) : (modMe s f).owners = s.owners := rfl
@[simp] theorem modMe_poison (f : Context → Context) : (modMe s f).poison = s.poison := rfl
@[simp] theorem modMe_probeMiss (f : Context → Context) : (modMe s f).probeMiss = s.probeMiss := rfl
@[simp] theorem modMe_lostHomes (f : Context → Context) : (modMe s f).lostHomes = s.lostHomes := rfl
@[simp] theorem modMe_doms (f : Context → Context) : (modMe s f).doms = s.doms := rfl
@[simp] theorem modMe_arb (f : Context → Context) : (modMe s f).arb = s.arb := rfl
@[simp] theorem modMe_copyLast (f : Context → Context) : (modMe s f).copyLast = s.copyLast := rfl
@[simp] theorem modMe_gatherLast (f : Context → Context) : (modMe s f).gatherLast = s.gatherLast := rfl
@[simp] theorem modMe_launches (f : Context → Context) : (modMe s f).launches = s.launches := rfl
@[simp] theorem modMe_seq (f : Context → Context) : (modMe s f).seq = s.seq := rfl
@[simp] theorem modMe_events (f : Context → Context) : (modMe s f).events = s.events := rfl
@[simp] theorem modMe_occ (f : Context → Context) : (modMe s f).occ = s.occ := rfl
@[simp] theorem modMe_parts (f : Context → Context) : (modMe s f).parts = s.parts := rfl
@[simp] theorem modMe_hwins (f : Context → Context) : (modMe s f).hwins = s.hwins := rfl
@[simp] theorem modMe_rings (f : Context → Context) : (modMe s f).rings = s.rings := rfl
@[simp] theorem modMe_evlog (f : Context → Context) : (modMe s f).evlog = s.evlog := rfl
@[simp] theorem modMe_sessions (f : Context → Context) : (modMe s f).sessions = s.sessions := rfl
@[simp] theorem modMe_hostq (f : Context → Context) : (modMe s f).hostq = s.hostq := rfl
@[simp] theorem modMe_tables (f : Context → Context) : (modMe s f).tables = s.tables := rfl
@[simp] theorem modMe_links (f : Context → Context) : (modMe s f).links = s.links := rfl
@[simp] theorem modMe_lostPkgs (f : Context → Context) : (modMe s f).lostPkgs = s.lostPkgs := rfl
@[simp] theorem modMe_spares (f : Context → Context) : (modMe s f).spares = s.spares := rfl
@[simp] theorem modMe_islands (f : Context → Context) : (modMe s f).islands = s.islands := rfl
@[simp] theorem modMe_boots (f : Context → Context) : (modMe s f).boots = s.boots := rfl

/-! ### modMyCore -/
@[simp] theorem modMyCore_turn (f : Core → Core) : (modMyCore s f).turn = s.turn := rfl
@[simp] theorem modMyCore_cur (f : Core → Core) : (modMyCore s f).cur = s.cur := rfl
@[simp] theorem modMyCore_agenda (f : Core → Core) : (modMyCore s f).agenda = s.agenda := rfl
@[simp] theorem modMyCore_fresh (f : Core → Core) : (modMyCore s f).fresh = s.fresh := rfl
@[simp] theorem modMyCore_nextId (f : Core → Core) : (modMyCore s f).nextId = s.nextId := rfl
@[simp] theorem modMyCore_cycle (f : Core → Core) : (modMyCore s f).cycle = s.cycle := rfl
@[simp] theorem modMyCore_pkgs (f : Core → Core) : (modMyCore s f).pkgs = s.pkgs := rfl
@[simp] theorem modMyCore_mem (f : Core → Core) : (modMyCore s f).mem = s.mem := rfl
@[simp] theorem modMyCore_reqs (f : Core → Core) : (modMyCore s f).reqs = s.reqs := rfl
@[simp] theorem modMyCore_msgs (f : Core → Core) : (modMyCore s f).msgs = s.msgs := rfl
@[simp] theorem modMyCore_dir (f : Core → Core) : (modMyCore s f).dir = s.dir := rfl
@[simp] theorem modMyCore_dirCv (f : Core → Core) : (modMyCore s f).dirCv = s.dirCv := rfl
@[simp] theorem modMyCore_l2 (f : Core → Core) : (modMyCore s f).l2 = s.l2 := rfl
@[simp] theorem modMyCore_l2way (f : Core → Core) : (modMyCore s f).l2way = s.l2way := rfl
@[simp] theorem modMyCore_part (f : Core → Core) : (modMyCore s f).part = s.part := rfl
@[simp] theorem modMyCore_ovr (f : Core → Core) : (modMyCore s f).ovr = s.ovr := rfl
@[simp] theorem modMyCore_l2tlb (f : Core → Core) : (modMyCore s f).l2tlb = s.l2tlb := rfl
@[simp] theorem modMyCore_locks (f : Core → Core) : (modMyCore s f).locks = s.locks := rfl
@[simp] theorem modMyCore_pages (f : Core → Core) : (modMyCore s f).pages = s.pages := rfl
@[simp] theorem modMyCore_owners (f : Core → Core) : (modMyCore s f).owners = s.owners := rfl
@[simp] theorem modMyCore_poison (f : Core → Core) : (modMyCore s f).poison = s.poison := rfl
@[simp] theorem modMyCore_probeMiss (f : Core → Core) : (modMyCore s f).probeMiss = s.probeMiss := rfl
@[simp] theorem modMyCore_lostHomes (f : Core → Core) : (modMyCore s f).lostHomes = s.lostHomes := rfl
@[simp] theorem modMyCore_doms (f : Core → Core) : (modMyCore s f).doms = s.doms := rfl
@[simp] theorem modMyCore_arb (f : Core → Core) : (modMyCore s f).arb = s.arb := rfl
@[simp] theorem modMyCore_copyLast (f : Core → Core) : (modMyCore s f).copyLast = s.copyLast := rfl
@[simp] theorem modMyCore_gatherLast (f : Core → Core) : (modMyCore s f).gatherLast = s.gatherLast := rfl
@[simp] theorem modMyCore_launches (f : Core → Core) : (modMyCore s f).launches = s.launches := rfl
@[simp] theorem modMyCore_seq (f : Core → Core) : (modMyCore s f).seq = s.seq := rfl
@[simp] theorem modMyCore_events (f : Core → Core) : (modMyCore s f).events = s.events := rfl
@[simp] theorem modMyCore_occ (f : Core → Core) : (modMyCore s f).occ = s.occ := rfl
@[simp] theorem modMyCore_parts (f : Core → Core) : (modMyCore s f).parts = s.parts := rfl
@[simp] theorem modMyCore_hwins (f : Core → Core) : (modMyCore s f).hwins = s.hwins := rfl
@[simp] theorem modMyCore_rings (f : Core → Core) : (modMyCore s f).rings = s.rings := rfl
@[simp] theorem modMyCore_evlog (f : Core → Core) : (modMyCore s f).evlog = s.evlog := rfl
@[simp] theorem modMyCore_sessions (f : Core → Core) : (modMyCore s f).sessions = s.sessions := rfl
@[simp] theorem modMyCore_hostq (f : Core → Core) : (modMyCore s f).hostq = s.hostq := rfl
@[simp] theorem modMyCore_tables (f : Core → Core) : (modMyCore s f).tables = s.tables := rfl
@[simp] theorem modMyCore_links (f : Core → Core) : (modMyCore s f).links = s.links := rfl
@[simp] theorem modMyCore_lostPkgs (f : Core → Core) : (modMyCore s f).lostPkgs = s.lostPkgs := rfl
@[simp] theorem modMyCore_spares (f : Core → Core) : (modMyCore s f).spares = s.spares := rfl
@[simp] theorem modMyCore_islands (f : Core → Core) : (modMyCore s f).islands = s.islands := rfl
@[simp] theorem modMyCore_boots (f : Core → Core) : (modMyCore s f).boots = s.boots := rfl

/-! ### modRegs -/
@[simp] theorem modRegs_turn (f : Regs → Regs) : (modRegs s f).turn = s.turn := rfl
@[simp] theorem modRegs_cur (f : Regs → Regs) : (modRegs s f).cur = s.cur := rfl
@[simp] theorem modRegs_agenda (f : Regs → Regs) : (modRegs s f).agenda = s.agenda := rfl
@[simp] theorem modRegs_fresh (f : Regs → Regs) : (modRegs s f).fresh = s.fresh := rfl
@[simp] theorem modRegs_nextId (f : Regs → Regs) : (modRegs s f).nextId = s.nextId := rfl
@[simp] theorem modRegs_cycle (f : Regs → Regs) : (modRegs s f).cycle = s.cycle := rfl
@[simp] theorem modRegs_pkgs (f : Regs → Regs) : (modRegs s f).pkgs = s.pkgs := rfl
@[simp] theorem modRegs_mem (f : Regs → Regs) : (modRegs s f).mem = s.mem := rfl
@[simp] theorem modRegs_reqs (f : Regs → Regs) : (modRegs s f).reqs = s.reqs := rfl
@[simp] theorem modRegs_msgs (f : Regs → Regs) : (modRegs s f).msgs = s.msgs := rfl
@[simp] theorem modRegs_dir (f : Regs → Regs) : (modRegs s f).dir = s.dir := rfl
@[simp] theorem modRegs_dirCv (f : Regs → Regs) : (modRegs s f).dirCv = s.dirCv := rfl
@[simp] theorem modRegs_l2 (f : Regs → Regs) : (modRegs s f).l2 = s.l2 := rfl
@[simp] theorem modRegs_l2way (f : Regs → Regs) : (modRegs s f).l2way = s.l2way := rfl
@[simp] theorem modRegs_part (f : Regs → Regs) : (modRegs s f).part = s.part := rfl
@[simp] theorem modRegs_ovr (f : Regs → Regs) : (modRegs s f).ovr = s.ovr := rfl
@[simp] theorem modRegs_l2tlb (f : Regs → Regs) : (modRegs s f).l2tlb = s.l2tlb := rfl
@[simp] theorem modRegs_locks (f : Regs → Regs) : (modRegs s f).locks = s.locks := rfl
@[simp] theorem modRegs_pages (f : Regs → Regs) : (modRegs s f).pages = s.pages := rfl
@[simp] theorem modRegs_owners (f : Regs → Regs) : (modRegs s f).owners = s.owners := rfl
@[simp] theorem modRegs_poison (f : Regs → Regs) : (modRegs s f).poison = s.poison := rfl
@[simp] theorem modRegs_probeMiss (f : Regs → Regs) : (modRegs s f).probeMiss = s.probeMiss := rfl
@[simp] theorem modRegs_lostHomes (f : Regs → Regs) : (modRegs s f).lostHomes = s.lostHomes := rfl
@[simp] theorem modRegs_doms (f : Regs → Regs) : (modRegs s f).doms = s.doms := rfl
@[simp] theorem modRegs_arb (f : Regs → Regs) : (modRegs s f).arb = s.arb := rfl
@[simp] theorem modRegs_copyLast (f : Regs → Regs) : (modRegs s f).copyLast = s.copyLast := rfl
@[simp] theorem modRegs_gatherLast (f : Regs → Regs) : (modRegs s f).gatherLast = s.gatherLast := rfl
@[simp] theorem modRegs_launches (f : Regs → Regs) : (modRegs s f).launches = s.launches := rfl
@[simp] theorem modRegs_seq (f : Regs → Regs) : (modRegs s f).seq = s.seq := rfl
@[simp] theorem modRegs_events (f : Regs → Regs) : (modRegs s f).events = s.events := rfl
@[simp] theorem modRegs_occ (f : Regs → Regs) : (modRegs s f).occ = s.occ := rfl
@[simp] theorem modRegs_parts (f : Regs → Regs) : (modRegs s f).parts = s.parts := rfl
@[simp] theorem modRegs_hwins (f : Regs → Regs) : (modRegs s f).hwins = s.hwins := rfl
@[simp] theorem modRegs_rings (f : Regs → Regs) : (modRegs s f).rings = s.rings := rfl
@[simp] theorem modRegs_evlog (f : Regs → Regs) : (modRegs s f).evlog = s.evlog := rfl
@[simp] theorem modRegs_sessions (f : Regs → Regs) : (modRegs s f).sessions = s.sessions := rfl
@[simp] theorem modRegs_hostq (f : Regs → Regs) : (modRegs s f).hostq = s.hostq := rfl
@[simp] theorem modRegs_tables (f : Regs → Regs) : (modRegs s f).tables = s.tables := rfl
@[simp] theorem modRegs_links (f : Regs → Regs) : (modRegs s f).links = s.links := rfl
@[simp] theorem modRegs_lostPkgs (f : Regs → Regs) : (modRegs s f).lostPkgs = s.lostPkgs := rfl
@[simp] theorem modRegs_spares (f : Regs → Regs) : (modRegs s f).spares = s.spares := rfl
@[simp] theorem modRegs_islands (f : Regs → Regs) : (modRegs s f).islands = s.islands := rfl
@[simp] theorem modRegs_boots (f : Regs → Regs) : (modRegs s f).boots = s.boots := rfl

/-! ### retire -/
@[simp] theorem retire_turn : (retire s).turn = s.turn := rfl
@[simp] theorem retire_cur : (retire s).cur = s.cur := rfl
@[simp] theorem retire_agenda : (retire s).agenda = s.agenda := rfl
@[simp] theorem retire_fresh : (retire s).fresh = s.fresh := rfl
@[simp] theorem retire_nextId : (retire s).nextId = s.nextId := rfl
@[simp] theorem retire_cycle : (retire s).cycle = s.cycle := rfl
@[simp] theorem retire_pkgs : (retire s).pkgs = s.pkgs := rfl
@[simp] theorem retire_mem : (retire s).mem = s.mem := rfl
@[simp] theorem retire_reqs : (retire s).reqs = s.reqs := rfl
@[simp] theorem retire_msgs : (retire s).msgs = s.msgs := rfl
@[simp] theorem retire_dir : (retire s).dir = s.dir := rfl
@[simp] theorem retire_dirCv : (retire s).dirCv = s.dirCv := rfl
@[simp] theorem retire_l2 : (retire s).l2 = s.l2 := rfl
@[simp] theorem retire_l2way : (retire s).l2way = s.l2way := rfl
@[simp] theorem retire_part : (retire s).part = s.part := rfl
@[simp] theorem retire_ovr : (retire s).ovr = s.ovr := rfl
@[simp] theorem retire_l2tlb : (retire s).l2tlb = s.l2tlb := rfl
@[simp] theorem retire_locks : (retire s).locks = s.locks := rfl
@[simp] theorem retire_pages : (retire s).pages = s.pages := rfl
@[simp] theorem retire_owners : (retire s).owners = s.owners := rfl
@[simp] theorem retire_poison : (retire s).poison = s.poison := rfl
@[simp] theorem retire_probeMiss : (retire s).probeMiss = s.probeMiss := rfl
@[simp] theorem retire_lostHomes : (retire s).lostHomes = s.lostHomes := rfl
@[simp] theorem retire_doms : (retire s).doms = s.doms := rfl
@[simp] theorem retire_arb : (retire s).arb = s.arb := rfl
@[simp] theorem retire_copyLast : (retire s).copyLast = s.copyLast := rfl
@[simp] theorem retire_gatherLast : (retire s).gatherLast = s.gatherLast := rfl
@[simp] theorem retire_launches : (retire s).launches = s.launches := rfl
@[simp] theorem retire_seq : (retire s).seq = s.seq := rfl
@[simp] theorem retire_events : (retire s).events = s.events := rfl
@[simp] theorem retire_occ : (retire s).occ = s.occ := rfl
@[simp] theorem retire_parts : (retire s).parts = s.parts := rfl
@[simp] theorem retire_hwins : (retire s).hwins = s.hwins := rfl
@[simp] theorem retire_rings : (retire s).rings = s.rings := rfl
@[simp] theorem retire_evlog : (retire s).evlog = s.evlog := rfl
@[simp] theorem retire_sessions : (retire s).sessions = s.sessions := rfl
@[simp] theorem retire_hostq : (retire s).hostq = s.hostq := rfl
@[simp] theorem retire_tables : (retire s).tables = s.tables := rfl
@[simp] theorem retire_links : (retire s).links = s.links := rfl
@[simp] theorem retire_lostPkgs : (retire s).lostPkgs = s.lostPkgs := rfl
@[simp] theorem retire_spares : (retire s).spares = s.spares := rfl
@[simp] theorem retire_islands : (retire s).islands = s.islands := rfl
@[simp] theorem retire_boots : (retire s).boots = s.boots := rfl

/-! ### retireX -/
@[simp] theorem retireX_turn (rd : BitVec 5) (v : Word) : (retireX s rd v).turn = s.turn := rfl
@[simp] theorem retireX_cur (rd : BitVec 5) (v : Word) : (retireX s rd v).cur = s.cur := rfl
@[simp] theorem retireX_agenda (rd : BitVec 5) (v : Word) : (retireX s rd v).agenda = s.agenda := rfl
@[simp] theorem retireX_fresh (rd : BitVec 5) (v : Word) : (retireX s rd v).fresh = s.fresh := rfl
@[simp] theorem retireX_nextId (rd : BitVec 5) (v : Word) : (retireX s rd v).nextId = s.nextId := rfl
@[simp] theorem retireX_cycle (rd : BitVec 5) (v : Word) : (retireX s rd v).cycle = s.cycle := rfl
@[simp] theorem retireX_pkgs (rd : BitVec 5) (v : Word) : (retireX s rd v).pkgs = s.pkgs := rfl
@[simp] theorem retireX_mem (rd : BitVec 5) (v : Word) : (retireX s rd v).mem = s.mem := rfl
@[simp] theorem retireX_reqs (rd : BitVec 5) (v : Word) : (retireX s rd v).reqs = s.reqs := rfl
@[simp] theorem retireX_msgs (rd : BitVec 5) (v : Word) : (retireX s rd v).msgs = s.msgs := rfl
@[simp] theorem retireX_dir (rd : BitVec 5) (v : Word) : (retireX s rd v).dir = s.dir := rfl
@[simp] theorem retireX_dirCv (rd : BitVec 5) (v : Word) : (retireX s rd v).dirCv = s.dirCv := rfl
@[simp] theorem retireX_l2 (rd : BitVec 5) (v : Word) : (retireX s rd v).l2 = s.l2 := rfl
@[simp] theorem retireX_l2way (rd : BitVec 5) (v : Word) : (retireX s rd v).l2way = s.l2way := rfl
@[simp] theorem retireX_part (rd : BitVec 5) (v : Word) : (retireX s rd v).part = s.part := rfl
@[simp] theorem retireX_ovr (rd : BitVec 5) (v : Word) : (retireX s rd v).ovr = s.ovr := rfl
@[simp] theorem retireX_l2tlb (rd : BitVec 5) (v : Word) : (retireX s rd v).l2tlb = s.l2tlb := rfl
@[simp] theorem retireX_locks (rd : BitVec 5) (v : Word) : (retireX s rd v).locks = s.locks := rfl
@[simp] theorem retireX_pages (rd : BitVec 5) (v : Word) : (retireX s rd v).pages = s.pages := rfl
@[simp] theorem retireX_owners (rd : BitVec 5) (v : Word) : (retireX s rd v).owners = s.owners := rfl
@[simp] theorem retireX_poison (rd : BitVec 5) (v : Word) : (retireX s rd v).poison = s.poison := rfl
@[simp] theorem retireX_probeMiss (rd : BitVec 5) (v : Word) : (retireX s rd v).probeMiss = s.probeMiss := rfl
@[simp] theorem retireX_lostHomes (rd : BitVec 5) (v : Word) : (retireX s rd v).lostHomes = s.lostHomes := rfl
@[simp] theorem retireX_doms (rd : BitVec 5) (v : Word) : (retireX s rd v).doms = s.doms := rfl
@[simp] theorem retireX_arb (rd : BitVec 5) (v : Word) : (retireX s rd v).arb = s.arb := rfl
@[simp] theorem retireX_copyLast (rd : BitVec 5) (v : Word) : (retireX s rd v).copyLast = s.copyLast := rfl
@[simp] theorem retireX_gatherLast (rd : BitVec 5) (v : Word) : (retireX s rd v).gatherLast = s.gatherLast := rfl
@[simp] theorem retireX_launches (rd : BitVec 5) (v : Word) : (retireX s rd v).launches = s.launches := rfl
@[simp] theorem retireX_seq (rd : BitVec 5) (v : Word) : (retireX s rd v).seq = s.seq := rfl
@[simp] theorem retireX_events (rd : BitVec 5) (v : Word) : (retireX s rd v).events = s.events := rfl
@[simp] theorem retireX_occ (rd : BitVec 5) (v : Word) : (retireX s rd v).occ = s.occ := rfl
@[simp] theorem retireX_parts (rd : BitVec 5) (v : Word) : (retireX s rd v).parts = s.parts := rfl
@[simp] theorem retireX_hwins (rd : BitVec 5) (v : Word) : (retireX s rd v).hwins = s.hwins := rfl
@[simp] theorem retireX_rings (rd : BitVec 5) (v : Word) : (retireX s rd v).rings = s.rings := rfl
@[simp] theorem retireX_evlog (rd : BitVec 5) (v : Word) : (retireX s rd v).evlog = s.evlog := rfl
@[simp] theorem retireX_sessions (rd : BitVec 5) (v : Word) : (retireX s rd v).sessions = s.sessions := rfl
@[simp] theorem retireX_hostq (rd : BitVec 5) (v : Word) : (retireX s rd v).hostq = s.hostq := rfl
@[simp] theorem retireX_tables (rd : BitVec 5) (v : Word) : (retireX s rd v).tables = s.tables := rfl
@[simp] theorem retireX_links (rd : BitVec 5) (v : Word) : (retireX s rd v).links = s.links := rfl
@[simp] theorem retireX_lostPkgs (rd : BitVec 5) (v : Word) : (retireX s rd v).lostPkgs = s.lostPkgs := rfl
@[simp] theorem retireX_spares (rd : BitVec 5) (v : Word) : (retireX s rd v).spares = s.spares := rfl
@[simp] theorem retireX_islands (rd : BitVec 5) (v : Word) : (retireX s rd v).islands = s.islands := rfl
@[simp] theorem retireX_boots (rd : BitVec 5) (v : Word) : (retireX s rd v).boots = s.boots := rfl

/-! ### jumpTo -/
@[simp] theorem jumpTo_turn (v : Word) : (jumpTo s v).turn = s.turn := rfl
@[simp] theorem jumpTo_cur (v : Word) : (jumpTo s v).cur = s.cur := rfl
@[simp] theorem jumpTo_agenda (v : Word) : (jumpTo s v).agenda = s.agenda := rfl
@[simp] theorem jumpTo_fresh (v : Word) : (jumpTo s v).fresh = s.fresh := rfl
@[simp] theorem jumpTo_nextId (v : Word) : (jumpTo s v).nextId = s.nextId := rfl
@[simp] theorem jumpTo_cycle (v : Word) : (jumpTo s v).cycle = s.cycle := rfl
@[simp] theorem jumpTo_pkgs (v : Word) : (jumpTo s v).pkgs = s.pkgs := rfl
@[simp] theorem jumpTo_mem (v : Word) : (jumpTo s v).mem = s.mem := rfl
@[simp] theorem jumpTo_reqs (v : Word) : (jumpTo s v).reqs = s.reqs := rfl
@[simp] theorem jumpTo_msgs (v : Word) : (jumpTo s v).msgs = s.msgs := rfl
@[simp] theorem jumpTo_dir (v : Word) : (jumpTo s v).dir = s.dir := rfl
@[simp] theorem jumpTo_dirCv (v : Word) : (jumpTo s v).dirCv = s.dirCv := rfl
@[simp] theorem jumpTo_l2 (v : Word) : (jumpTo s v).l2 = s.l2 := rfl
@[simp] theorem jumpTo_l2way (v : Word) : (jumpTo s v).l2way = s.l2way := rfl
@[simp] theorem jumpTo_part (v : Word) : (jumpTo s v).part = s.part := rfl
@[simp] theorem jumpTo_ovr (v : Word) : (jumpTo s v).ovr = s.ovr := rfl
@[simp] theorem jumpTo_l2tlb (v : Word) : (jumpTo s v).l2tlb = s.l2tlb := rfl
@[simp] theorem jumpTo_locks (v : Word) : (jumpTo s v).locks = s.locks := rfl
@[simp] theorem jumpTo_pages (v : Word) : (jumpTo s v).pages = s.pages := rfl
@[simp] theorem jumpTo_owners (v : Word) : (jumpTo s v).owners = s.owners := rfl
@[simp] theorem jumpTo_poison (v : Word) : (jumpTo s v).poison = s.poison := rfl
@[simp] theorem jumpTo_probeMiss (v : Word) : (jumpTo s v).probeMiss = s.probeMiss := rfl
@[simp] theorem jumpTo_lostHomes (v : Word) : (jumpTo s v).lostHomes = s.lostHomes := rfl
@[simp] theorem jumpTo_doms (v : Word) : (jumpTo s v).doms = s.doms := rfl
@[simp] theorem jumpTo_arb (v : Word) : (jumpTo s v).arb = s.arb := rfl
@[simp] theorem jumpTo_copyLast (v : Word) : (jumpTo s v).copyLast = s.copyLast := rfl
@[simp] theorem jumpTo_gatherLast (v : Word) : (jumpTo s v).gatherLast = s.gatherLast := rfl
@[simp] theorem jumpTo_launches (v : Word) : (jumpTo s v).launches = s.launches := rfl
@[simp] theorem jumpTo_seq (v : Word) : (jumpTo s v).seq = s.seq := rfl
@[simp] theorem jumpTo_events (v : Word) : (jumpTo s v).events = s.events := rfl
@[simp] theorem jumpTo_occ (v : Word) : (jumpTo s v).occ = s.occ := rfl
@[simp] theorem jumpTo_parts (v : Word) : (jumpTo s v).parts = s.parts := rfl
@[simp] theorem jumpTo_hwins (v : Word) : (jumpTo s v).hwins = s.hwins := rfl
@[simp] theorem jumpTo_rings (v : Word) : (jumpTo s v).rings = s.rings := rfl
@[simp] theorem jumpTo_evlog (v : Word) : (jumpTo s v).evlog = s.evlog := rfl
@[simp] theorem jumpTo_sessions (v : Word) : (jumpTo s v).sessions = s.sessions := rfl
@[simp] theorem jumpTo_hostq (v : Word) : (jumpTo s v).hostq = s.hostq := rfl
@[simp] theorem jumpTo_tables (v : Word) : (jumpTo s v).tables = s.tables := rfl
@[simp] theorem jumpTo_links (v : Word) : (jumpTo s v).links = s.links := rfl
@[simp] theorem jumpTo_lostPkgs (v : Word) : (jumpTo s v).lostPkgs = s.lostPkgs := rfl
@[simp] theorem jumpTo_spares (v : Word) : (jumpTo s v).spares = s.spares := rfl
@[simp] theorem jumpTo_islands (v : Word) : (jumpTo s v).islands = s.islands := rfl
@[simp] theorem jumpTo_boots (v : Word) : (jumpTo s v).boots = s.boots := rfl

end Sys2Proof.Machine
end

