-- ==== Sys2Proof/Laws/Access.lean ====
section
/-! SUPPORT. What a core, a context and its registers read after an update: the same one reads what was written, every
other is as it was. -/
namespace Sys2Proof.Machine
open Sys2Proof.Laws

variable (s : State)

/-! ### maps -/

theorem fset_fset {β : Type} (m : FMap β) (k : Nat) (a b : β) : fset (fset m k a) k b = fset m k b := by
  have h1 : ∀ x : Nat × β, (decide (x.1 < k) && decide (k < x.1)) = false := by intro x; simp; omega
  have h2 : ∀ x : Nat × β, (decide (k < x.1) && decide (x.1 < k)) = false := by intro x; simp; omega
  have h3 : m.filter (fun _ => false) = [] := by simp
  simp [fset, below, above, List.filter_append, List.filter_filter, h1, h2, h3]

@[simp] theorem fget_fset_same {β : Type} (d : β) (m : FMap β) (k : Nat) (v : β) : fget d (fset m k v) k = v := by
  have h : ∀ n : FMap β, fget d (below k n ++ (k, v) :: above k n) k = v := by
    intro n
    rw [fget_append]
    simp [fhas_below, fget]
  exact h m

@[simp] theorem fget_fset_ne {β : Type} (d : β) (m : FMap β) (k j : Nat) (v : β) (h : j ≠ k) :
    fget d (fset m k v) j = fget d m j := fget_fset_other d m k j v h

/-! ### cores -/

@[simp] theorem getCore_setCore (k : Nat) (c : Core) : getCore (setCore s k c) k = c := by simp [getCore, setCore]
@[simp] theorem getCore_setCore_ne (k j : Nat) (c : Core) (h : j ≠ k) : getCore (setCore s k c) j = getCore s j := by
  simp [getCore, setCore, h]
@[simp] theorem getCore_modCore (k : Nat) (f : Core → Core) : getCore (modCore s k f) k = f (getCore s k) := by simp [modCore]
@[simp] theorem getCore_modCore_ne (k j : Nat) (f : Core → Core) (h : j ≠ k) : getCore (modCore s k f) j = getCore s j := by
  simp [modCore, h]
theorem setCore_setCore (k : Nat) (c d : Core) : setCore (setCore s k c) k d = setCore s k d := by
  simp [setCore, fset_fset]

/-! ### contexts -/

@[simp] theorem ctx_setCtx (c : Core) (n : Nat) (x : Context) : (c.setCtx n x).ctx n = x := by simp [Core.ctx, Core.setCtx]
@[simp] theorem ctx_setCtx_ne (c : Core) (n m : Nat) (x : Context) (h : m ≠ n) : (c.setCtx n x).ctx m = c.ctx m := by
  simp [Core.ctx, Core.setCtx, h]
theorem setCtx_setCtx_core (c : Core) (n : Nat) (x y : Context) : (c.setCtx n x).setCtx n y = c.setCtx n y := by
  simp [Core.setCtx, fset_fset]

@[simp] theorem getCtx_setCtx (k n : Nat) (x : Context) : getCtx (setCtx s k n x) k n = x := by simp [getCtx, setCtx]
@[simp] theorem getCtx_setCtx_ne (k n m : Nat) (x : Context) (h : m ≠ n) : getCtx (setCtx s k n x) k m = getCtx s k m := by
  simp [getCtx, setCtx, h]
@[simp] theorem getCtx_setCtx_core (k j n m : Nat) (x : Context) (h : j ≠ k) : getCtx (setCtx s k n x) j m = getCtx s j m := by
  simp [getCtx, setCtx, h]
@[simp] theorem getCtx_modCtx (k n : Nat) (f : Context → Context) : getCtx (modCtx s k n f) k n = f (getCtx s k n) := by
  simp [modCtx]
theorem setCtx_twice (k n : Nat) (x y : Context) : setCtx (setCtx s k n x) k n y = setCtx s k n y := by
  simp [setCtx, setCore_setCore, setCtx_setCtx_core]

/-! ### the executing context -/

@[simp] theorem me_setMe (x : Context) : me (setMe s x) = x := by simp [me, setMe]
@[simp] theorem setMe_setMe (x y : Context) : setMe (setMe s x) y = setMe s y := by
  simp [setMe, setCtx_twice]
@[simp] theorem me_modMe (f : Context → Context) : me (modMe s f) = f (me s) := by simp [modMe]
@[simp] theorem me_modRegs (f : Regs → Regs) : me (modRegs s f) = { me s with regs := f (regs s) } := by
  simp [modRegs, regs]
@[simp] theorem regs_setMe (x : Context) : regs (setMe s x) = x.regs := by simp [regs]
@[simp] theorem regs_modRegs (f : Regs → Regs) : regs (modRegs s f) = f (regs s) := by simp [regs, modRegs]
@[simp] theorem me_retire :
    me (retire s) = { me s with st := .live, regs := { regs s with pc := (regs s).pc + 4 } } := by
  simp [retire, regs]
@[simp] theorem regs_retire : regs (retire s) = { regs s with pc := (regs s).pc + 4 } := by simp [regs]
@[simp] theorem me_jumpTo (v : Word) : me (jumpTo s v) = { me s with st := .live, regs := { regs s with pc := v } } := by
  simp [jumpTo, regs]

theorem modMe_eq (f : Context → Context) : modMe s f = setMe s (f (me s)) := rfl
theorem modRegs_eq (f : Regs → Regs) : modRegs s f = setMe s { me s with regs := f (regs s) } := rfl
theorem retire_eq :
    retire s = setMe s { me s with st := .live, regs := { regs s with pc := (regs s).pc + 4 } } := rfl
theorem jumpTo_eq (v : Word) : jumpTo s v = setMe s { me s with st := .live, regs := { regs s with pc := v } } := rfl

/-! ### registers -/

/-- Bit j of a word after putBit: the bit that was put, or the old one. -/
theorem getLsbD_putBit {w : Nat} (m : BitVec w) (i j : Nat) (b : Bool) :
    (putBit m i b).getLsbD j = if j = i ∧ j < w then b else m.getLsbD j := by
  have hp : (BitVec.ofNat w (2 ^ i)).getLsbD j = (decide (j < w) && decide (j = i)) := by
    rw [BitVec.getLsbD_ofNat, Nat.testBit_two_pow]
    simp [eq_comm]
  by_cases hj : j < w
  · cases b
    · simp only [putBit, Bool.false_eq_true, if_false, BitVec.getLsbD_and, BitVec.getLsbD_not, hp, hj, decide_true, Bool.true_and]
      by_cases e : j = i <;> simp [e]
    · simp only [putBit, if_true, BitVec.getLsbD_or, hp, hj, decide_true, Bool.true_and]
      by_cases e : j = i <;> simp [e]
  · have : ∀ x : BitVec w, x.getLsbD j = false := fun x => BitVec.getLsbD_of_ge x j (by omega)
    simp [hj, this]

variable (g : Regs)

@[simp] theorem readX_zero : readX g 0 = 0 := rfl
theorem readX_writeX (r q : Nat) (v : Word) :
    readX (writeX g r v) q = if q = r ∧ q ≠ 0 then v else readX g q := by
  unfold writeX readX
  by_cases h0 : r = 0
  · subst h0
    by_cases hq : q = 0 <;> simp [hq]
  · by_cases hq : q = 0
    · simp [hq]
    · by_cases e : q = r
      · subst e; simp [h0]
      · simp [h0, hq, e]

theorem xpres_writeX (r q : Nat) (v : Word) :
    (writeX g r v).xpres.getLsbD q = if q = r ∧ q < 32 ∧ q ≠ 0 then true else g.xpres.getLsbD q := by
  unfold writeX
  by_cases h0 : r = 0
  · subst h0
    by_cases hq : q = 0 <;> simp [hq]
  · simp only [h0, if_false, getLsbD_putBit]
    by_cases e : q = r
    · subst e; simp [h0]
    · simp [e]

theorem writeX_frame (r : Nat) (v : Word) :
    writeX g r v = { g with x := (writeX g r v).x, xpres := (writeX g r v).xpres } := by
  unfold writeX; split <;> rfl

theorem readF_writeF (r q : Nat) (v : BitVec 32) : readF (writeF g r v) q = if q = r then v else readF g q := by
  unfold readF writeF
  by_cases e : q = r
  · subst e; simp
  · simp [e]

theorem readV_writeV (r q : Nat) (v : VWord) : readV (writeV g r v) q = if q = r then v else readV g q := by
  unfold readV writeV
  by_cases e : q = r
  · subst e; simp
  · simp [e]

theorem readK_writeK (r q : Nat) (v : Word) : readK (writeK g r v) q = if q = r then v else readK g q := by
  unfold readK writeK
  by_cases e : q = r
  · subst e; simp
  · simp [e]

end Sys2Proof.Machine
end

