-- ==== Sys2Proof/Laws/Exec.lean ====
section
/-! SUPPORT. The arms of exec, one equation each. -/
namespace Sys2Proof.Machine

variable (s : State)

theorem exec_lui (rd : BitVec 5) (imm : BitVec 20) : exec (.lui rd imm) s = execLui rd imm s := rfl
theorem exec_auipc (rd : BitVec 5) (imm : BitVec 20) : exec (.auipc rd imm) s = execAuipc rd imm s := rfl
theorem exec_jal (rd : BitVec 5) (off : BitVec 20) : exec (.jal rd off) s = execJal rd off s := rfl
theorem exec_jalr (rd : BitVec 5) (rs1 : BitVec 5) (imm : BitVec 12) : exec (.jalr rd rs1 imm) s = execJalr rd rs1 imm s := rfl
theorem exec_beq (rs1 : BitVec 5) (rs2 : BitVec 5) (off : BitVec 12) : exec (.beq rs1 rs2 off) s = execBeq rs1 rs2 off s := rfl
theorem exec_bne (rs1 : BitVec 5) (rs2 : BitVec 5) (off : BitVec 12) : exec (.bne rs1 rs2 off) s = execBne rs1 rs2 off s := rfl
theorem exec_blt (rs1 : BitVec 5) (rs2 : BitVec 5) (off : BitVec 12) : exec (.blt rs1 rs2 off) s = execBlt rs1 rs2 off s := rfl
theorem exec_bge (rs1 : BitVec 5) (rs2 : BitVec 5) (off : BitVec 12) : exec (.bge rs1 rs2 off) s = execBge rs1 rs2 off s := rfl
theorem exec_bltu (rs1 : BitVec 5) (rs2 : BitVec 5) (off : BitVec 12) : exec (.bltu rs1 rs2 off) s = execBltu rs1 rs2 off s := rfl
theorem exec_bgeu (rs1 : BitVec 5) (rs2 : BitVec 5) (off : BitVec 12) : exec (.bgeu rs1 rs2 off) s = execBgeu rs1 rs2 off s := rfl
theorem exec_lb (rd : BitVec 5) (rs1 : BitVec 5) (imm : BitVec 12) : exec (.lb rd rs1 imm) s = execLb rd rs1 imm s := rfl
theorem exec_lh (rd : BitVec 5) (rs1 : BitVec 5) (imm : BitVec 12) : exec (.lh rd rs1 imm) s = execLh rd rs1 imm s := rfl
theorem exec_lw (rd : BitVec 5) (rs1 : BitVec 5) (imm : BitVec 12) : exec (.lw rd rs1 imm) s = execLw rd rs1 imm s := rfl
theorem exec_ld (rd : BitVec 5) (rs1 : BitVec 5) (imm : BitVec 12) : exec (.ld rd rs1 imm) s = execLd rd rs1 imm s := rfl
theorem exec_lbu (rd : BitVec 5) (rs1 : BitVec 5) (imm : BitVec 12) : exec (.lbu rd rs1 imm) s = execLbu rd rs1 imm s := rfl
theorem exec_lhu (rd : BitVec 5) (rs1 : BitVec 5) (imm : BitVec 12) : exec (.lhu rd rs1 imm) s = execLhu rd rs1 imm s := rfl
theorem exec_lwu (rd : BitVec 5) (rs1 : BitVec 5) (imm : BitVec 12) : exec (.lwu rd rs1 imm) s = execLwu rd rs1 imm s := rfl
theorem exec_sb (rs2 : BitVec 5) (rs1 : BitVec 5) (imm : BitVec 12) : exec (.sb rs2 rs1 imm) s = execSb rs2 rs1 imm s := rfl
theorem exec_sh (rs2 : BitVec 5) (rs1 : BitVec 5) (imm : BitVec 12) : exec (.sh rs2 rs1 imm) s = execSh rs2 rs1 imm s := rfl
theorem exec_sw (rs2 : BitVec 5) (rs1 : BitVec 5) (imm : BitVec 12) : exec (.sw rs2 rs1 imm) s = execSw rs2 rs1 imm s := rfl
theorem exec_sd (rs2 : BitVec 5) (rs1 : BitVec 5) (imm : BitVec 12) : exec (.sd rs2 rs1 imm) s = execSd rs2 rs1 imm s := rfl
theorem exec_addi (rd : BitVec 5) (rs1 : BitVec 5) (imm : BitVec 12) : exec (.addi rd rs1 imm) s = execAddi rd rs1 imm s := rfl
theorem exec_slti (rd : BitVec 5) (rs1 : BitVec 5) (imm : BitVec 12) : exec (.slti rd rs1 imm) s = execSlti rd rs1 imm s := rfl
theorem exec_sltiu (rd : BitVec 5) (rs1 : BitVec 5) (imm : BitVec 12) : exec (.sltiu rd rs1 imm) s = execSltiu rd rs1 imm s := rfl
theorem exec_xori (rd : BitVec 5) (rs1 : BitVec 5) (imm : BitVec 12) : exec (.xori rd rs1 imm) s = execXori rd rs1 imm s := rfl
theorem exec_ori (rd : BitVec 5) (rs1 : BitVec 5) (imm : BitVec 12) : exec (.ori rd rs1 imm) s = execOri rd rs1 imm s := rfl
theorem exec_andi (rd : BitVec 5) (rs1 : BitVec 5) (imm : BitVec 12) : exec (.andi rd rs1 imm) s = execAndi rd rs1 imm s := rfl
theorem exec_slli (rd : BitVec 5) (rs1 : BitVec 5) (sh : BitVec 6) : exec (.slli rd rs1 sh) s = execSlli rd rs1 sh s := rfl
theorem exec_srli (rd : BitVec 5) (rs1 : BitVec 5) (sh : BitVec 6) : exec (.srli rd rs1 sh) s = execSrli rd rs1 sh s := rfl
theorem exec_srai (rd : BitVec 5) (rs1 : BitVec 5) (sh : BitVec 6) : exec (.srai rd rs1 sh) s = execSrai rd rs1 sh s := rfl
theorem exec_addiw (rd : BitVec 5) (rs1 : BitVec 5) (imm : BitVec 12) : exec (.addiw rd rs1 imm) s = execAddiw rd rs1 imm s := rfl
theorem exec_slliw (rd : BitVec 5) (rs1 : BitVec 5) (sh : BitVec 5) : exec (.slliw rd rs1 sh) s = execSlliw rd rs1 sh s := rfl
theorem exec_srliw (rd : BitVec 5) (rs1 : BitVec 5) (sh : BitVec 5) : exec (.srliw rd rs1 sh) s = execSrliw rd rs1 sh s := rfl
theorem exec_sraiw (rd : BitVec 5) (rs1 : BitVec 5) (sh : BitVec 5) : exec (.sraiw rd rs1 sh) s = execSraiw rd rs1 sh s := rfl
theorem exec_add (rd : BitVec 5) (rs1 : BitVec 5) (rs2 : BitVec 5) : exec (.add rd rs1 rs2) s = execAdd rd rs1 rs2 s := rfl
theorem exec_sll (rd : BitVec 5) (rs1 : BitVec 5) (rs2 : BitVec 5) : exec (.sll rd rs1 rs2) s = execSll rd rs1 rs2 s := rfl
theorem exec_slt (rd : BitVec 5) (rs1 : BitVec 5) (rs2 : BitVec 5) : exec (.slt rd rs1 rs2) s = execSlt rd rs1 rs2 s := rfl
theorem exec_sltu (rd : BitVec 5) (rs1 : BitVec 5) (rs2 : BitVec 5) : exec (.sltu rd rs1 rs2) s = execSltu rd rs1 rs2 s := rfl
theorem exec_xor (rd : BitVec 5) (rs1 : BitVec 5) (rs2 : BitVec 5) : exec (.xor rd rs1 rs2) s = execXor rd rs1 rs2 s := rfl
theorem exec_srl (rd : BitVec 5) (rs1 : BitVec 5) (rs2 : BitVec 5) : exec (.srl rd rs1 rs2) s = execSrl rd rs1 rs2 s := rfl
theorem exec_or (rd : BitVec 5) (rs1 : BitVec 5) (rs2 : BitVec 5) : exec (.or rd rs1 rs2) s = execOr rd rs1 rs2 s := rfl
theorem exec_and (rd : BitVec 5) (rs1 : BitVec 5) (rs2 : BitVec 5) : exec (.and rd rs1 rs2) s = execAnd rd rs1 rs2 s := rfl
theorem exec_sub (rd : BitVec 5) (rs1 : BitVec 5) (rs2 : BitVec 5) : exec (.sub rd rs1 rs2) s = execSub rd rs1 rs2 s := rfl
theorem exec_sra (rd : BitVec 5) (rs1 : BitVec 5) (rs2 : BitVec 5) : exec (.sra rd rs1 rs2) s = execSra rd rs1 rs2 s := rfl
theorem exec_mul (rd : BitVec 5) (rs1 : BitVec 5) (rs2 : BitVec 5) : exec (.mul rd rs1 rs2) s = execMul rd rs1 rs2 s := rfl
theorem exec_mulh (rd : BitVec 5) (rs1 : BitVec 5) (rs2 : BitVec 5) : exec (.mulh rd rs1 rs2) s = execMulh rd rs1 rs2 s := rfl
theorem exec_mulhsu (rd : BitVec 5) (rs1 : BitVec 5) (rs2 : BitVec 5) : exec (.mulhsu rd rs1 rs2) s = execMulhsu rd rs1 rs2 s := rfl
theorem exec_mulhu (rd : BitVec 5) (rs1 : BitVec 5) (rs2 : BitVec 5) : exec (.mulhu rd rs1 rs2) s = execMulhu rd rs1 rs2 s := rfl
theorem exec_div (rd : BitVec 5) (rs1 : BitVec 5) (rs2 : BitVec 5) : exec (.div rd rs1 rs2) s = execDiv rd rs1 rs2 s := rfl
theorem exec_divu (rd : BitVec 5) (rs1 : BitVec 5) (rs2 : BitVec 5) : exec (.divu rd rs1 rs2) s = execDivu rd rs1 rs2 s := rfl
theorem exec_rem (rd : BitVec 5) (rs1 : BitVec 5) (rs2 : BitVec 5) : exec (.rem rd rs1 rs2) s = execRem rd rs1 rs2 s := rfl
theorem exec_remu (rd : BitVec 5) (rs1 : BitVec 5) (rs2 : BitVec 5) : exec (.remu rd rs1 rs2) s = execRemu rd rs1 rs2 s := rfl
theorem exec_addw (rd : BitVec 5) (rs1 : BitVec 5) (rs2 : BitVec 5) : exec (.addw rd rs1 rs2) s = execAddw rd rs1 rs2 s := rfl
theorem exec_sllw (rd : BitVec 5) (rs1 : BitVec 5) (rs2 : BitVec 5) : exec (.sllw rd rs1 rs2) s = execSllw rd rs1 rs2 s := rfl
theorem exec_srlw (rd : BitVec 5) (rs1 : BitVec 5) (rs2 : BitVec 5) : exec (.srlw rd rs1 rs2) s = execSrlw rd rs1 rs2 s := rfl
theorem exec_subw (rd : BitVec 5) (rs1 : BitVec 5) (rs2 : BitVec 5) : exec (.subw rd rs1 rs2) s = execSubw rd rs1 rs2 s := rfl
theorem exec_sraw (rd : BitVec 5) (rs1 : BitVec 5) (rs2 : BitVec 5) : exec (.sraw rd rs1 rs2) s = execSraw rd rs1 rs2 s := rfl
theorem exec_mulw (rd : BitVec 5) (rs1 : BitVec 5) (rs2 : BitVec 5) : exec (.mulw rd rs1 rs2) s = execMulw rd rs1 rs2 s := rfl
theorem exec_divw (rd : BitVec 5) (rs1 : BitVec 5) (rs2 : BitVec 5) : exec (.divw rd rs1 rs2) s = execDivw rd rs1 rs2 s := rfl
theorem exec_divuw (rd : BitVec 5) (rs1 : BitVec 5) (rs2 : BitVec 5) : exec (.divuw rd rs1 rs2) s = execDivuw rd rs1 rs2 s := rfl
theorem exec_remw (rd : BitVec 5) (rs1 : BitVec 5) (rs2 : BitVec 5) : exec (.remw rd rs1 rs2) s = execRemw rd rs1 rs2 s := rfl
theorem exec_remuw (rd : BitVec 5) (rs1 : BitVec 5) (rs2 : BitVec 5) : exec (.remuw rd rs1 rs2) s = execRemuw rd rs1 rs2 s := rfl
theorem exec_fence (rd : BitVec 5) (rs1 : BitVec 5) (imm : BitVec 12) : exec (.fence rd rs1 imm) s = execFence rd rs1 imm s := rfl
theorem exec_fenceI (rd : BitVec 5) (rs1 : BitVec 5) (imm : BitVec 12) : exec (.fenceI rd rs1 imm) s = execFenceI rd rs1 imm s := rfl
theorem exec_csrrw (rd : BitVec 5) (rs1 : BitVec 5) (csr : BitVec 12) : exec (.csrrw rd rs1 csr) s = execCsrrw rd rs1 csr s := rfl
theorem exec_csrrs (rd : BitVec 5) (rs1 : BitVec 5) (csr : BitVec 12) : exec (.csrrs rd rs1 csr) s = execCsrrs rd rs1 csr s := rfl
theorem exec_csrrc (rd : BitVec 5) (rs1 : BitVec 5) (csr : BitVec 12) : exec (.csrrc rd rs1 csr) s = execCsrrc rd rs1 csr s := rfl
theorem exec_csrrwi (rd : BitVec 5) (uimm : BitVec 5) (csr : BitVec 12) : exec (.csrrwi rd uimm csr) s = execCsrrwi rd uimm csr s := rfl
theorem exec_csrrsi (rd : BitVec 5) (uimm : BitVec 5) (csr : BitVec 12) : exec (.csrrsi rd uimm csr) s = execCsrrsi rd uimm csr s := rfl
theorem exec_csrrci (rd : BitVec 5) (uimm : BitVec 5) (csr : BitVec 12) : exec (.csrrci rd uimm csr) s = execCsrrci rd uimm csr s := rfl
theorem exec_flw (rd : BitVec 5) (rs1 : BitVec 5) (imm : BitVec 12) : exec (.flw rd rs1 imm) s = execFlw rd rs1 imm s := rfl
theorem exec_fsw (rs2 : BitVec 5) (rs1 : BitVec 5) (imm : BitVec 12) : exec (.fsw rs2 rs1 imm) s = execFsw rs2 rs1 imm s := rfl
theorem exec_fmaddS (rd : BitVec 5) (rs1 : BitVec 5) (rs2 : BitVec 5) (rs3 : BitVec 5) (rm : BitVec 3) : exec (.fmaddS rd rs1 rs2 rs3 rm) s = execFmaddS rd rs1 rs2 rs3 rm s := rfl
theorem exec_fmsubS (rd : BitVec 5) (rs1 : BitVec 5) (rs2 : BitVec 5) (rs3 : BitVec 5) (rm : BitVec 3) : exec (.fmsubS rd rs1 rs2 rs3 rm) s = execFmsubS rd rs1 rs2 rs3 rm s := rfl
theorem exec_fnmsubS (rd : BitVec 5) (rs1 : BitVec 5) (rs2 : BitVec 5) (rs3 : BitVec 5) (rm : BitVec 3) : exec (.fnmsubS rd rs1 rs2 rs3 rm) s = execFnmsubS rd rs1 rs2 rs3 rm s := rfl
theorem exec_fnmaddS (rd : BitVec 5) (rs1 : BitVec 5) (rs2 : BitVec 5) (rs3 : BitVec 5) (rm : BitVec 3) : exec (.fnmaddS rd rs1 rs2 rs3 rm) s = execFnmaddS rd rs1 rs2 rs3 rm s := rfl
theorem exec_faddS (rd : BitVec 5) (rs1 : BitVec 5) (rs2 : BitVec 5) (rm : BitVec 3) : exec (.faddS rd rs1 rs2 rm) s = execFaddS rd rs1 rs2 rm s := rfl
theorem exec_fsubS (rd : BitVec 5) (rs1 : BitVec 5) (rs2 : BitVec 5) (rm : BitVec 3) : exec (.fsubS rd rs1 rs2 rm) s = execFsubS rd rs1 rs2 rm s := rfl
theorem exec_fmulS (rd : BitVec 5) (rs1 : BitVec 5) (rs2 : BitVec 5) (rm : BitVec 3) : exec (.fmulS rd rs1 rs2 rm) s = execFmulS rd rs1 rs2 rm s := rfl
theorem exec_fdivS (rd : BitVec 5) (rs1 : BitVec 5) (rs2 : BitVec 5) (rm : BitVec 3) : exec (.fdivS rd rs1 rs2 rm) s = execFdivS rd rs1 rs2 rm s := rfl
theorem exec_fsqrtS (rd : BitVec 5) (rs1 : BitVec 5) (rm : BitVec 3) : exec (.fsqrtS rd rs1 rm) s = execFsqrtS rd rs1 rm s := rfl
theorem exec_fsgnjS (rd : BitVec 5) (rs1 : BitVec 5) (rs2 : BitVec 5) : exec (.fsgnjS rd rs1 rs2) s = execFsgnjS rd rs1 rs2 s := rfl
theorem exec_fsgnjnS (rd : BitVec 5) (rs1 : BitVec 5) (rs2 : BitVec 5) : exec (.fsgnjnS rd rs1 rs2) s = execFsgnjnS rd rs1 rs2 s := rfl
theorem exec_fsgnjxS (rd : BitVec 5) (rs1 : BitVec 5) (rs2 : BitVec 5) : exec (.fsgnjxS rd rs1 rs2) s = execFsgnjxS rd rs1 rs2 s := rfl
theorem exec_fminS (rd : BitVec 5) (rs1 : BitVec 5) (rs2 : BitVec 5) : exec (.fminS rd rs1 rs2) s = execFminS rd rs1 rs2 s := rfl
theorem exec_fmaxS (rd : BitVec 5) (rs1 : BitVec 5) (rs2 : BitVec 5) : exec (.fmaxS rd rs1 rs2) s = execFmaxS rd rs1 rs2 s := rfl
theorem exec_fleS (rd : BitVec 5) (rs1 : BitVec 5) (rs2 : BitVec 5) : exec (.fleS rd rs1 rs2) s = execFleS rd rs1 rs2 s := rfl
theorem exec_fltS (rd : BitVec 5) (rs1 : BitVec 5) (rs2 : BitVec 5) : exec (.fltS rd rs1 rs2) s = execFltS rd rs1 rs2 s := rfl
theorem exec_feqS (rd : BitVec 5) (rs1 : BitVec 5) (rs2 : BitVec 5) : exec (.feqS rd rs1 rs2) s = execFeqS rd rs1 rs2 s := rfl
theorem exec_fcvtWS (rd : BitVec 5) (rs1 : BitVec 5) (rm : BitVec 3) : exec (.fcvtWS rd rs1 rm) s = execFcvtWS rd rs1 rm s := rfl
theorem exec_fcvtWuS (rd : BitVec 5) (rs1 : BitVec 5) (rm : BitVec 3) : exec (.fcvtWuS rd rs1 rm) s = execFcvtWuS rd rs1 rm s := rfl
theorem exec_fcvtLS (rd : BitVec 5) (rs1 : BitVec 5) (rm : BitVec 3) : exec (.fcvtLS rd rs1 rm) s = execFcvtLS rd rs1 rm s := rfl
theorem exec_fcvtLuS (rd : BitVec 5) (rs1 : BitVec 5) (rm : BitVec 3) : exec (.fcvtLuS rd rs1 rm) s = execFcvtLuS rd rs1 rm s := rfl
theorem exec_fcvtSW (rd : BitVec 5) (rs1 : BitVec 5) (rm : BitVec 3) : exec (.fcvtSW rd rs1 rm) s = execFcvtSW rd rs1 rm s := rfl
theorem exec_fcvtSWu (rd : BitVec 5) (rs1 : BitVec 5) (rm : BitVec 3) : exec (.fcvtSWu rd rs1 rm) s = execFcvtSWu rd rs1 rm s := rfl
theorem exec_fcvtSL (rd : BitVec 5) (rs1 : BitVec 5) (rm : BitVec 3) : exec (.fcvtSL rd rs1 rm) s = execFcvtSL rd rs1 rm s := rfl
theorem exec_fcvtSLu (rd : BitVec 5) (rs1 : BitVec 5) (rm : BitVec 3) : exec (.fcvtSLu rd rs1 rm) s = execFcvtSLu rd rs1 rm s := rfl
theorem exec_fmvXW (rd : BitVec 5) (rs1 : BitVec 5) : exec (.fmvXW rd rs1) s = execFmvXW rd rs1 s := rfl
theorem exec_fclassS (rd : BitVec 5) (rs1 : BitVec 5) : exec (.fclassS rd rs1) s = execFclassS rd rs1 s := rfl
theorem exec_fmvWX (rd : BitVec 5) (rs1 : BitVec 5) : exec (.fmvWX rd rs1) s = execFmvWX rd rs1 s := rfl
theorem exec_illegalInstruction (word : BitVec 32) : exec (.illegalInstruction word) s = execIllegalInstruction word s := rfl
theorem exec_hstart (rd : BitVec 5) (rs1 : BitVec 5) (rs2 : BitVec 5) : exec (.hstart rd rs1 rs2) s = execHstart rd rs1 rs2 s := rfl
theorem exec_hwait (rs1 : BitVec 5) : exec (.hwait rs1) s = execHwait rs1 s := rfl
theorem exec_hkill (rs1 : BitVec 5) : exec (.hkill rs1) s = execHkill rs1 s := rfl
theorem exec_pnext (rd : BitVec 5) : exec (.pnext rd) s = execPnext rd s := rfl
theorem exec_pclr (kind : BitVec 5) (reg : BitVec 5) : exec (.pclr kind reg) s = execPclr kind reg s := rfl
theorem exec_ptest (rd : BitVec 5) (kind : BitVec 5) (reg : BitVec 5) : exec (.ptest rd kind reg) s = execPtest rd kind reg s := rfl
theorem exec_nput (rs1 : BitVec 5) (rs2 : BitVec 5) : exec (.nput rs1 rs2) s = execNput rs1 rs2 s := rfl
theorem exec_ctxSave (rd : BitVec 5) (rs1 : BitVec 5) (rs2 : BitVec 5) : exec (.ctxSave rd rs1 rs2) s = execCtxSave rd rs1 rs2 s := rfl
theorem exec_ctxLoad (rd : BitVec 5) (rs1 : BitVec 5) (rs2 : BitVec 5) : exec (.ctxLoad rd rs1 rs2) s = execCtxLoad rd rs1 rs2 s := rfl
theorem exec_barInit (rs1 : BitVec 5) : exec (.barInit rs1) s = execBarInit rs1 s := rfl
theorem exec_barArr (rd : BitVec 5) : exec (.barArr rd) s = execBarArr rd s := rfl
theorem exec_barWait (rs1 : BitVec 5) : exec (.barWait rs1) s = execBarWait rs1 s := rfl
theorem exec_barAwt (rd : BitVec 5) : exec (.barAwt rd) s = execBarAwt rd s := rfl
theorem exec_barDrop (rd : BitVec 5) : exec (.barDrop rd) s = execBarDrop rd s := rfl
theorem exec_domSet (rd : BitVec 5) (rs1 : BitVec 5) (rs2 : BitVec 5) : exec (.domSet rd rs1 rs2) s = execDomSet rd rs1 rs2 s := rfl
theorem exec_domGet (rd : BitVec 5) (rs1 : BitVec 5) : exec (.domGet rd rs1) s = execDomGet rd rs1 s := rfl
theorem exec_xchBeg (rs1 : BitVec 5) : exec (.xchBeg rs1) s = execXchBeg rs1 s := rfl
theorem exec_xsend (rs1 : BitVec 5) (vs : BitVec 4) : exec (.xsend rs1 vs) s = execXsend rs1 vs s := rfl
theorem exec_xrecv (rd : BitVec 5) (rs1 : BitVec 5) : exec (.xrecv rd rs1) s = execXrecv rd rs1 s := rfl
theorem exec_qtrap (rs1 : BitVec 5) (code : BitVec 12) : exec (.qtrap rs1 code) s = execQtrap rs1 code s := rfl
theorem exec_amAdd (rd : BitVec 5) (rs1 : BitVec 5) (rs2 : BitVec 5) (ord : BitVec 3) (w : BitVec 1) (sc : BitVec 2) : exec (.amAdd rd rs1 rs2 ord w sc) s = execAmAdd rd rs1 rs2 ord w sc s := rfl
theorem exec_amAnd (rd : BitVec 5) (rs1 : BitVec 5) (rs2 : BitVec 5) (ord : BitVec 3) (w : BitVec 1) (sc : BitVec 2) : exec (.amAnd rd rs1 rs2 ord w sc) s = execAmAnd rd rs1 rs2 ord w sc s := rfl
theorem exec_amOr (rd : BitVec 5) (rs1 : BitVec 5) (rs2 : BitVec 5) (ord : BitVec 3) (w : BitVec 1) (sc : BitVec 2) : exec (.amOr rd rs1 rs2 ord w sc) s = execAmOr rd rs1 rs2 ord w sc s := rfl
theorem exec_amXor (rd : BitVec 5) (rs1 : BitVec 5) (rs2 : BitVec 5) (ord : BitVec 3) (w : BitVec 1) (sc : BitVec 2) : exec (.amXor rd rs1 rs2 ord w sc) s = execAmXor rd rs1 rs2 ord w sc s := rfl
theorem exec_amMin (rd : BitVec 5) (rs1 : BitVec 5) (rs2 : BitVec 5) (ord : BitVec 3) (w : BitVec 1) (sc : BitVec 2) : exec (.amMin rd rs1 rs2 ord w sc) s = execAmMin rd rs1 rs2 ord w sc s := rfl
theorem exec_amMax (rd : BitVec 5) (rs1 : BitVec 5) (rs2 : BitVec 5) (ord : BitVec 3) (w : BitVec 1) (sc : BitVec 2) : exec (.amMax rd rs1 rs2 ord w sc) s = execAmMax rd rs1 rs2 ord w sc s := rfl
theorem exec_amMinn (rd : BitVec 5) (rs1 : BitVec 5) (rs2 : BitVec 5) (ord : BitVec 3) (w : BitVec 1) (sc : BitVec 2) : exec (.amMinn rd rs1 rs2 ord w sc) s = execAmMinn rd rs1 rs2 ord w sc s := rfl
theorem exec_amMaxn (rd : BitVec 5) (rs1 : BitVec 5) (rs2 : BitVec 5) (ord : BitVec 3) (w : BitVec 1) (sc : BitVec 2) : exec (.amMaxn rd rs1 rs2 ord w sc) s = execAmMaxn rd rs1 rs2 ord w sc s := rfl
theorem exec_amSwp (rd : BitVec 5) (rs1 : BitVec 5) (rs2 : BitVec 5) (ord : BitVec 3) (w : BitVec 1) (sc : BitVec 2) : exec (.amSwp rd rs1 rs2 ord w sc) s = execAmSwp rd rs1 rs2 ord w sc s := rfl
theorem exec_amCas (rd : BitVec 5) (rs1 : BitVec 5) (rs2 : BitVec 5) (ord : BitVec 3) (w : BitVec 1) (sc : BitVec 2) : exec (.amCas rd rs1 rs2 ord w sc) s = execAmCas rd rs1 rs2 ord w sc s := rfl
theorem exec_amFadd (rd : BitVec 5) (rs1 : BitVec 5) (rs2 : BitVec 5) (ord : BitVec 3) (w : BitVec 1) (sc : BitVec 2) : exec (.amFadd rd rs1 rs2 ord w sc) s = execAmFadd rd rs1 rs2 ord w sc s := rfl
theorem exec_amCasQ (rd : BitVec 5) (rs1 : BitVec 5) (rs2 : BitVec 5) (ord : BitVec 3) (sc : BitVec 2) : exec (.amCasQ rd rs1 rs2 ord sc) s = execAmCasQ rd rs1 rs2 ord sc s := rfl
theorem exec_vld (v : BitVec 4) (rs1 : BitVec 5) (et : BitVec 3) (km : BitVec 2) (h : BitVec 1) : exec (.vld v rs1 et km h) s = execVld v rs1 et km h s := rfl
theorem exec_vlds (v : BitVec 4) (rs1 : BitVec 5) (rs2 : BitVec 5) (et : BitVec 3) (km : BitVec 2) (h : BitVec 1) : exec (.vlds v rs1 rs2 et km h) s = execVlds v rs1 rs2 et km h s := rfl
theorem exec_vldx (v : BitVec 4) (rs1 : BitVec 5) (vs : BitVec 4) (et : BitVec 3) (km : BitVec 2) (h : BitVec 1) : exec (.vldx v rs1 vs et km h) s = execVldx v rs1 vs et km h s := rfl
theorem exec_vbc (v : BitVec 4) (rs1 : BitVec 5) (et : BitVec 3) (km : BitVec 2) (h : BitVec 1) : exec (.vbc v rs1 et km h) s = execVbc v rs1 et km h s := rfl
theorem exec_vst (v : BitVec 4) (rs1 : BitVec 5) (et : BitVec 3) (km : BitVec 2) (h : BitVec 1) : exec (.vst v rs1 et km h) s = execVst v rs1 et km h s := rfl
theorem exec_vsts (v : BitVec 4) (rs1 : BitVec 5) (rs2 : BitVec 5) (et : BitVec 3) (km : BitVec 2) (h : BitVec 1) : exec (.vsts v rs1 rs2 et km h) s = execVsts v rs1 rs2 et km h s := rfl
theorem exec_vstx (v : BitVec 4) (rs1 : BitVec 5) (vs : BitVec 4) (et : BitVec 3) (km : BitVec 2) (h : BitVec 1) : exec (.vstx v rs1 vs et km h) s = execVstx v rs1 vs et km h s := rfl
theorem exec_gwait (rd : BitVec 5) (rs1 : BitVec 5) (rs2 : BitVec 5) (rs3 : BitVec 5) : exec (.gwait rd rs1 rs2 rs3) s = execGwait rd rs1 rs2 rs3 s := rfl
theorem exec_cpG2g (rd : BitVec 5) (rs1 : BitVec 5) (rs2 : BitVec 5) (rs3 : BitVec 5) : exec (.cpG2g rd rs1 rs2 rs3) s = execCpG2g rd rs1 rs2 rs3 s := rfl
theorem exec_cp2d (rd : BitVec 5) (rs1 : BitVec 5) (rs2 : BitVec 5) (rs3 : BitVec 5) : exec (.cp2d rd rs1 rs2 rs3) s = execCp2d rd rs1 rs2 rs3 s := rfl
theorem exec_cpG2s (rd : BitVec 5) (rs1 : BitVec 5) (rs2 : BitVec 5) (rs3 : BitVec 5) : exec (.cpG2s rd rs1 rs2 rs3) s = execCpG2s rd rs1 rs2 rs3 s := rfl
theorem exec_cpS2g (rd : BitVec 5) (rs1 : BitVec 5) (rs2 : BitVec 5) (rs3 : BitVec 5) : exec (.cpS2g rd rs1 rs2 rs3) s = execCpS2g rd rs1 rs2 rs3 s := rfl
theorem exec_cpS2s (rd : BitVec 5) (rs1 : BitVec 5) (rs2 : BitVec 5) (rs3 : BitVec 5) : exec (.cpS2s rd rs1 rs2 rs3) s = execCpS2s rd rs1 rs2 rs3 s := rfl
theorem exec_redAdd (rs1 : BitVec 5) (rs2 : BitVec 5) (w : BitVec 1) : exec (.redAdd rs1 rs2 w) s = execRedAdd rs1 rs2 w s := rfl
theorem exec_redMin (rs1 : BitVec 5) (rs2 : BitVec 5) (w : BitVec 1) : exec (.redMin rs1 rs2 w) s = execRedMin rs1 rs2 w s := rfl
theorem exec_redMax (rs1 : BitVec 5) (rs2 : BitVec 5) (w : BitVec 1) : exec (.redMax rs1 rs2 w) s = execRedMax rs1 rs2 w s := rfl
theorem exec_redFadd (rs1 : BitVec 5) (rs2 : BitVec 5) (w : BitVec 1) : exec (.redFadd rs1 rs2 w) s = execRedFadd rs1 rs2 w s := rfl
theorem exec_fncAcq (scope : BitVec 5) : exec (.fncAcq scope) s = execFncAcq scope s := rfl
theorem exec_fncRel (scope : BitVec 5) : exec (.fncRel scope) s = execFncRel scope s := rfl
theorem exec_fncFull (scope : BitVec 5) : exec (.fncFull scope) s = execFncFull scope s := rfl
theorem exec_gsig (rs1 : BitVec 5) (rs2 : BitVec 5) : exec (.gsig rs1 rs2) s = execGsig rs1 rs2 s := rfl
theorem exec_tkGet (rd : BitVec 5) (rs1 : BitVec 5) : exec (.tkGet rd rs1) s = execTkGet rd rs1 s := rfl
theorem exec_tkWait (rs1 : BitVec 5) (rs2 : BitVec 5) : exec (.tkWait rs1 rs2) s = execTkWait rs1 rs2 s := rfl
theorem exec_tkAdv (rs1 : BitVec 5) : exec (.tkAdv rs1) s = execTkAdv rs1 s := rfl
theorem exec_lkAcq (rd : BitVec 5) (rs1 : BitVec 5) (rs2 : BitVec 5) : exec (.lkAcq rd rs1 rs2) s = execLkAcq rd rs1 rs2 s := rfl
theorem exec_lkTry (rd : BitVec 5) (rs1 : BitVec 5) : exec (.lkTry rd rs1) s = execLkTry rd rs1 s := rfl
theorem exec_lkRel (rs1 : BitVec 5) : exec (.lkRel rs1) s = execLkRel rs1 s := rfl
theorem exec_lkStat (rd : BitVec 5) (rs1 : BitVec 5) : exec (.lkStat rd rs1) s = execLkStat rd rs1 s := rfl
theorem exec_txBeg (rd : BitVec 5) : exec (.txBeg rd) s = execTxBeg rd s := rfl
theorem exec_txAbt (rs1 : BitVec 5) : exec (.txAbt rs1) s = execTxAbt rs1 s := rfl
theorem exec_txStat (rd : BitVec 5) : exec (.txStat rd) s = execTxStat rd s := rfl
theorem exec_cpPub (rd : BitVec 5) (rs1 : BitVec 5) : exec (.cpPub rd rs1) s = execCpPub rd rs1 s := rfl
theorem exec_cpCancel (rd : BitVec 5) : exec (.cpCancel rd) s = execCpCancel rd s := rfl
theorem exec_gth (rd : BitVec 5) (rs1 : BitVec 5) (rs2 : BitVec 5) : exec (.gth rd rs1 rs2) s = execGth rd rs1 rs2 s := rfl
theorem exec_sct (rd : BitVec 5) (rs1 : BitVec 5) (rs2 : BitVec 5) : exec (.sct rd rs1 rs2) s = execSct rd rs1 rs2 s := rfl
theorem exec_clWb (rs1 : BitVec 5) : exec (.clWb rs1) s = execClWb rs1 s := rfl
theorem exec_clInv (rs1 : BitVec 5) : exec (.clInv rs1) s = execClInv rs1 s := rfl
theorem exec_clFlush (rs1 : BitVec 5) : exec (.clFlush rs1) s = execClFlush rs1 s := rfl
theorem exec_tlbInv (rs1 : BitVec 5) (rs2 : BitVec 5) : exec (.tlbInv rs1 rs2) s = execTlbInv rs1 rs2 s := rfl
theorem exec_pgMig (rd : BitVec 5) (rs1 : BitVec 5) (rs2 : BitVec 5) : exec (.pgMig rd rs1 rs2) s = execPgMig rd rs1 rs2 s := rfl
theorem exec_pgStat (rd : BitVec 5) (rs1 : BitVec 5) : exec (.pgStat rd rs1) s = execPgStat rd rs1 s := rfl
theorem exec_vadd (vd : BitVec 4) (vs1 : BitVec 4) (vs2 : BitVec 4) (ft : BitVec 2) (rm : BitVec 3) (km : BitVec 2) (h : BitVec 1) : exec (.vadd vd vs1 vs2 ft rm km h) s = execVadd vd vs1 vs2 ft rm km h s := rfl
theorem exec_vsub (vd : BitVec 4) (vs1 : BitVec 4) (vs2 : BitVec 4) (ft : BitVec 2) (rm : BitVec 3) (km : BitVec 2) (h : BitVec 1) : exec (.vsub vd vs1 vs2 ft rm km h) s = execVsub vd vs1 vs2 ft rm km h s := rfl
theorem exec_vmul (vd : BitVec 4) (vs1 : BitVec 4) (vs2 : BitVec 4) (ft : BitVec 2) (rm : BitVec 3) (km : BitVec 2) (h : BitVec 1) : exec (.vmul vd vs1 vs2 ft rm km h) s = execVmul vd vs1 vs2 ft rm km h s := rfl
theorem exec_vdiv (vd : BitVec 4) (vs1 : BitVec 4) (vs2 : BitVec 4) (ft : BitVec 2) (rm : BitVec 3) (km : BitVec 2) (h : BitVec 1) : exec (.vdiv vd vs1 vs2 ft rm km h) s = execVdiv vd vs1 vs2 ft rm km h s := rfl
theorem exec_vsqrt (vd : BitVec 4) (vs1 : BitVec 4) (ft : BitVec 2) (rm : BitVec 3) (km : BitVec 2) (h : BitVec 1) : exec (.vsqrt vd vs1 ft rm km h) s = execVsqrt vd vs1 ft rm km h s := rfl
theorem exec_vfma (vd : BitVec 4) (vs1 : BitVec 4) (vs2 : BitVec 4) (ft : BitVec 2) (rm : BitVec 3) (km : BitVec 2) (h : BitVec 1) : exec (.vfma vd vs1 vs2 ft rm km h) s = execVfma vd vs1 vs2 ft rm km h s := rfl
theorem exec_vfms (vd : BitVec 4) (vs1 : BitVec 4) (vs2 : BitVec 4) (ft : BitVec 2) (rm : BitVec 3) (km : BitVec 2) (h : BitVec 1) : exec (.vfms vd vs1 vs2 ft rm km h) s = execVfms vd vs1 vs2 ft rm km h s := rfl
theorem exec_vfnma (vd : BitVec 4) (vs1 : BitVec 4) (vs2 : BitVec 4) (ft : BitVec 2) (rm : BitVec 3) (km : BitVec 2) (h : BitVec 1) : exec (.vfnma vd vs1 vs2 ft rm km h) s = execVfnma vd vs1 vs2 ft rm km h s := rfl
theorem exec_vmin (vd : BitVec 4) (vs1 : BitVec 4) (vs2 : BitVec 4) (ft : BitVec 2) (km : BitVec 2) (h : BitVec 1) : exec (.vmin vd vs1 vs2 ft km h) s = execVmin vd vs1 vs2 ft km h s := rfl
theorem exec_vmax (vd : BitVec 4) (vs1 : BitVec 4) (vs2 : BitVec 4) (ft : BitVec 2) (km : BitVec 2) (h : BitVec 1) : exec (.vmax vd vs1 vs2 ft km h) s = execVmax vd vs1 vs2 ft km h s := rfl
theorem exec_vabs (vd : BitVec 4) (vs1 : BitVec 4) (ft : BitVec 2) (km : BitVec 2) (h : BitVec 1) : exec (.vabs vd vs1 ft km h) s = execVabs vd vs1 ft km h s := rfl
theorem exec_vneg (vd : BitVec 4) (vs1 : BitVec 4) (ft : BitVec 2) (km : BitVec 2) (h : BitVec 1) : exec (.vneg vd vs1 ft km h) s = execVneg vd vs1 ft km h s := rfl
theorem exec_vcvt (vd : BitVec 4) (vs1 : BitVec 4) (sf : BitVec 4) (ft : BitVec 2) (rm : BitVec 3) (km : BitVec 2) (h : BitVec 1) : exec (.vcvt vd vs1 sf ft rm km h) s = execVcvt vd vs1 sf ft rm km h s := rfl
theorem exec_vredsum (vd : BitVec 4) (vs1 : BitVec 4) (ft : BitVec 2) (rm : BitVec 3) (km : BitVec 2) (h : BitVec 1) : exec (.vredsum vd vs1 ft rm km h) s = execVredsum vd vs1 ft rm km h s := rfl
theorem exec_vredmin (vd : BitVec 4) (vs1 : BitVec 4) (ft : BitVec 2) (km : BitVec 2) (h : BitVec 1) : exec (.vredmin vd vs1 ft km h) s = execVredmin vd vs1 ft km h s := rfl
theorem exec_vredmax (vd : BitVec 4) (vs1 : BitVec 4) (ft : BitVec 2) (km : BitVec 2) (h : BitVec 1) : exec (.vredmax vd vs1 ft km h) s = execVredmax vd vs1 ft km h s := rfl
theorem exec_viadd (vd : BitVec 4) (vs1 : BitVec 4) (vs2 : BitVec 4) (et : BitVec 3) (km : BitVec 3) (h : BitVec 1) : exec (.viadd vd vs1 vs2 et km h) s = execViadd vd vs1 vs2 et km h s := rfl
theorem exec_visub (vd : BitVec 4) (vs1 : BitVec 4) (vs2 : BitVec 4) (et : BitVec 3) (km : BitVec 3) (h : BitVec 1) : exec (.visub vd vs1 vs2 et km h) s = execVisub vd vs1 vs2 et km h s := rfl
theorem exec_vimul (vd : BitVec 4) (vs1 : BitVec 4) (vs2 : BitVec 4) (et : BitVec 3) (km : BitVec 3) (h : BitVec 1) : exec (.vimul vd vs1 vs2 et km h) s = execVimul vd vs1 vs2 et km h s := rfl
theorem exec_vand (vd : BitVec 4) (vs1 : BitVec 4) (vs2 : BitVec 4) (et : BitVec 3) (km : BitVec 3) (h : BitVec 1) : exec (.vand vd vs1 vs2 et km h) s = execVand vd vs1 vs2 et km h s := rfl
theorem exec_vor (vd : BitVec 4) (vs1 : BitVec 4) (vs2 : BitVec 4) (et : BitVec 3) (km : BitVec 3) (h : BitVec 1) : exec (.vor vd vs1 vs2 et km h) s = execVor vd vs1 vs2 et km h s := rfl
theorem exec_vxor (vd : BitVec 4) (vs1 : BitVec 4) (vs2 : BitVec 4) (et : BitVec 3) (km : BitVec 3) (h : BitVec 1) : exec (.vxor vd vs1 vs2 et km h) s = execVxor vd vs1 vs2 et km h s := rfl
theorem exec_vsll (vd : BitVec 4) (vs1 : BitVec 4) (vs2 : BitVec 4) (et : BitVec 3) (km : BitVec 3) (h : BitVec 1) : exec (.vsll vd vs1 vs2 et km h) s = execVsll vd vs1 vs2 et km h s := rfl
theorem exec_vsrl (vd : BitVec 4) (vs1 : BitVec 4) (vs2 : BitVec 4) (et : BitVec 3) (km : BitVec 3) (h : BitVec 1) : exec (.vsrl vd vs1 vs2 et km h) s = execVsrl vd vs1 vs2 et km h s := rfl
theorem exec_vsra (vd : BitVec 4) (vs1 : BitVec 4) (vs2 : BitVec 4) (et : BitVec 3) (km : BitVec 3) (h : BitVec 1) : exec (.vsra vd vs1 vs2 et km h) s = execVsra vd vs1 vs2 et km h s := rfl
theorem exec_vcmpeq (kd : BitVec 3) (vs1 : BitVec 4) (vs2 : BitVec 4) (et : BitVec 3) (km : BitVec 3) (h : BitVec 1) : exec (.vcmpeq kd vs1 vs2 et km h) s = execVcmpeq kd vs1 vs2 et km h s := rfl
theorem exec_vcmpne (kd : BitVec 3) (vs1 : BitVec 4) (vs2 : BitVec 4) (et : BitVec 3) (km : BitVec 3) (h : BitVec 1) : exec (.vcmpne kd vs1 vs2 et km h) s = execVcmpne kd vs1 vs2 et km h s := rfl
theorem exec_vcmplt (kd : BitVec 3) (vs1 : BitVec 4) (vs2 : BitVec 4) (et : BitVec 3) (km : BitVec 3) (h : BitVec 1) : exec (.vcmplt kd vs1 vs2 et km h) s = execVcmplt kd vs1 vs2 et km h s := rfl
theorem exec_vcmple (kd : BitVec 3) (vs1 : BitVec 4) (vs2 : BitVec 4) (et : BitVec 3) (km : BitVec 3) (h : BitVec 1) : exec (.vcmple kd vs1 vs2 et km h) s = execVcmple kd vs1 vs2 et km h s := rfl
theorem exec_vcmpltn (kd : BitVec 3) (vs1 : BitVec 4) (vs2 : BitVec 4) (et : BitVec 3) (km : BitVec 3) (h : BitVec 1) : exec (.vcmpltn kd vs1 vs2 et km h) s = execVcmpltn kd vs1 vs2 et km h s := rfl
theorem exec_vperm (vd : BitVec 4) (vs1 : BitVec 4) (vs2 : BitVec 4) (et : BitVec 3) (km : BitVec 3) (h : BitVec 1) : exec (.vperm vd vs1 vs2 et km h) s = execVperm vd vs1 vs2 et km h s := rfl
theorem exec_vslide (vd : BitVec 4) (vs1 : BitVec 4) (xs : BitVec 4) (et : BitVec 3) (km : BitVec 3) (h : BitVec 1) : exec (.vslide vd vs1 xs et km h) s = execVslide vd vs1 xs et km h s := rfl
theorem exec_vzip (vd : BitVec 4) (vs1 : BitVec 4) (vs2 : BitVec 4) (et : BitVec 3) (km : BitVec 3) (h : BitVec 1) : exec (.vzip vd vs1 vs2 et km h) s = execVzip vd vs1 vs2 et km h s := rfl
theorem exec_vunzip (vd : BitVec 4) (vs1 : BitVec 4) (vs2 : BitVec 4) (et : BitVec 3) (km : BitVec 3) (h : BitVec 1) : exec (.vunzip vd vs1 vs2 et km h) s = execVunzip vd vs1 vs2 et km h s := rfl
theorem exec_vmerge (vd : BitVec 4) (vs1 : BitVec 4) (vs2 : BitVec 4) (et : BitVec 3) (km : BitVec 3) (h : BitVec 1) : exec (.vmerge vd vs1 vs2 et km h) s = execVmerge vd vs1 vs2 et km h s := rfl
theorem exec_vmv (vd : BitVec 4) (vs1 : BitVec 4) (km : BitVec 3) (h : BitVec 1) : exec (.vmv vd vs1 km h) s = execVmv vd vs1 km h s := rfl
theorem exec_vins (vd : BitVec 4) (xs : BitVec 4) (xi : BitVec 4) (et : BitVec 3) (h : BitVec 1) : exec (.vins vd xs xi et h) s = execVins vd xs xi et h s := rfl
theorem exec_vext (rd : BitVec 5) (vs : BitVec 4) (xi : BitVec 4) (et : BitVec 3) : exec (.vext rd vs xi et) s = execVext rd vs xi et s := rfl
theorem exec_kand (kd : BitVec 3) (ks1 : BitVec 3) (ks2 : BitVec 3) : exec (.kand kd ks1 ks2) s = execKand kd ks1 ks2 s := rfl
theorem exec_kor (kd : BitVec 3) (ks1 : BitVec 3) (ks2 : BitVec 3) : exec (.kor kd ks1 ks2) s = execKor kd ks1 ks2 s := rfl
theorem exec_kxor (kd : BitVec 3) (ks1 : BitVec 3) (ks2 : BitVec 3) : exec (.kxor kd ks1 ks2) s = execKxor kd ks1 ks2 s := rfl
theorem exec_knot (kd : BitVec 3) (ks1 : BitVec 3) : exec (.knot kd ks1) s = execKnot kd ks1 s := rfl
theorem exec_kpop (rd : BitVec 5) (ks1 : BitVec 3) : exec (.kpop rd ks1) s = execKpop rd ks1 s := rfl
theorem exec_kfirst (rd : BitVec 5) (ks1 : BitVec 3) : exec (.kfirst rd ks1) s = execKfirst rd ks1 s := rfl
theorem exec_mmBf16 (rd : BitVec 5) (rs1 : BitVec 5) (rs2 : BitVec 5) (fs : BitVec 5) : exec (.mmBf16 rd rs1 rs2 fs) s = execMmBf16 rd rs1 rs2 fs s := rfl
theorem exec_mmFp16 (rd : BitVec 5) (rs1 : BitVec 5) (rs2 : BitVec 5) (fs : BitVec 5) : exec (.mmFp16 rd rs1 rs2 fs) s = execMmFp16 rd rs1 rs2 fs s := rfl
theorem exec_mmE4e4 (rd : BitVec 5) (rs1 : BitVec 5) (rs2 : BitVec 5) (fs : BitVec 5) : exec (.mmE4e4 rd rs1 rs2 fs) s = execMmE4e4 rd rs1 rs2 fs s := rfl
theorem exec_mmE5e5 (rd : BitVec 5) (rs1 : BitVec 5) (rs2 : BitVec 5) (fs : BitVec 5) : exec (.mmE5e5 rd rs1 rs2 fs) s = execMmE5e5 rd rs1 rs2 fs s := rfl
theorem exec_mmE4e5 (rd : BitVec 5) (rs1 : BitVec 5) (rs2 : BitVec 5) (fs : BitVec 5) : exec (.mmE4e5 rd rs1 rs2 fs) s = execMmE4e5 rd rs1 rs2 fs s := rfl
theorem exec_mmE5e4 (rd : BitVec 5) (rs1 : BitVec 5) (rs2 : BitVec 5) (fs : BitVec 5) : exec (.mmE5e4 rd rs1 rs2 fs) s = execMmE5e4 rd rs1 rs2 fs s := rfl
theorem exec_mmQe4 (rd : BitVec 5) (rs1 : BitVec 5) (rs2 : BitVec 5) (fs : BitVec 5) : exec (.mmQe4 rd rs1 rs2 fs) s = execMmQe4 rd rs1 rs2 fs s := rfl
theorem exec_mmQbf (rd : BitVec 5) (rs1 : BitVec 5) (rs2 : BitVec 5) (fs : BitVec 5) : exec (.mmQbf rd rs1 rs2 fs) s = execMmQbf rd rs1 rs2 fs s := rfl
theorem exec_mmI8 (rd : BitVec 5) (rs1 : BitVec 5) (rs2 : BitVec 5) (fs : BitVec 5) : exec (.mmI8 rd rs1 rs2 fs) s = execMmI8 rd rs1 rs2 fs s := rfl
theorem exec_mmFp32 (rd : BitVec 5) (rs1 : BitVec 5) (rs2 : BitVec 5) (fs : BitVec 5) : exec (.mmFp32 rd rs1 rs2 fs) s = execMmFp32 rd rs1 rs2 fs s := rfl
theorem exec_maZero (rd : BitVec 5) (acc : BitVec 2) : exec (.maZero rd acc) s = execMaZero rd acc s := rfl
theorem exec_maLd (rd : BitVec 5) (acc : BitVec 2) (rs1 : BitVec 5) : exec (.maLd rd acc rs1) s = execMaLd rd acc rs1 s := rfl
theorem exec_maSt (rd : BitVec 5) (acc : BitVec 2) (rs1 : BitVec 5) (rm : BitVec 3) : exec (.maSt rd acc rs1 rm) s = execMaSt rd acc rs1 rm s := rfl
theorem exec_maMv (rd : BitVec 5) (accD : BitVec 2) (accS : BitVec 2) : exec (.maMv rd accD accS) s = execMaMv rd accD accS s := rfl
theorem exec_laClr (rd : BitVec 5) (rs1 : BitVec 5) : exec (.laClr rd rs1) s = execLaClr rd rs1 s := rfl
theorem exec_laFma (rd : BitVec 5) (rs1 : BitVec 5) (va : BitVec 4) (vb : BitVec 4) : exec (.laFma rd rs1 va vb) s = execLaFma rd rs1 va vb s := rfl
theorem exec_laAdd (rd : BitVec 5) (rs1 : BitVec 5) (va : BitVec 4) : exec (.laAdd rd rs1 va) s = execLaAdd rd rs1 va s := rfl
theorem exec_laRnd (rd : BitVec 5) (rs1 : BitVec 5) (fmt : BitVec 2) (rm : BitVec 3) : exec (.laRnd rd rs1 fmt rm) s = execLaRnd rd rs1 fmt rm s := rfl
theorem exec_laMrg (rd : BitVec 5) (rs1 : BitVec 5) (rs2 : BitVec 5) : exec (.laMrg rd rs1 rs2) s = execLaMrg rd rs1 rs2 s := rfl
theorem exec_hxBin (rd : BitVec 5) (rs1 : BitVec 5) (va : BitVec 4) (ft : BitVec 2) : exec (.hxBin rd rs1 va ft) s = execHxBin rd rs1 va ft s := rfl
theorem exec_hxClr (rd : BitVec 5) (rs1 : BitVec 5) : exec (.hxClr rd rs1) s = execHxClr rd rs1 s := rfl
theorem exec_hxMrg (rd : BitVec 5) (rs1 : BitVec 5) (rs2 : BitVec 5) : exec (.hxMrg rd rs1 rs2) s = execHxMrg rd rs1 rs2 s := rfl
theorem exec_ecall : exec (.ecall) s = execEcall s := rfl
theorem exec_ecallPassFault : exec (.ecallPassFault) s = execEcallPassFault s := rfl
theorem exec_ecallRaiseInterrupt : exec (.ecallRaiseInterrupt) s = execEcallRaiseInterrupt s := rfl
theorem exec_ebreak : exec (.ebreak) s = execEbreak s := rfl
theorem exec_sret : exec (.sret) s = execSret s := rfl
theorem exec_mret : exec (.mret) s = execMret s := rfl
theorem exec_wfi : exec (.wfi) s = execWfi s := rfl
theorem exec_hend : exec (.hend) s = execHend s := rfl
theorem exec_yield : exec (.yield) s = execYield s := rfl
theorem exec_upret : exec (.upret) s = execUpret s := rfl
theorem exec_qhalt : exec (.qhalt) s = execQhalt s := rfl
theorem exec_xchEnd : exec (.xchEnd) s = execXchEnd s := rfl
theorem exec_txEnd : exec (.txEnd) s = execTxEnd s := rfl
theorem exec_csrWrite (csr : BitVec 12) (v : BitVec 64) : exec (.csrWrite csr v) s = execCsrWrite csr v s := rfl
theorem exec_qrgnWrite (word : BitVec 4) (v : BitVec 64) : exec (.qrgnWrite word v) s = execQrgnWrite word v s := rfl
theorem exec_qrxcntWrite (v : BitVec 64) : exec (.qrxcntWrite v) s = execQrxcntWrite v s := rfl
theorem exec_qcontWrite (v : BitVec 64) : exec (.qcontWrite v) s = execQcontWrite v s := rfl
theorem exec_qsaveWrite (v : BitVec 64) : exec (.qsaveWrite v) s = execQsaveWrite v s := rfl
theorem exec_reply (id : Nat) : exec (.reply id) s = execReply id s := rfl
theorem exec_vectorQueueExecute (core : Nat) : exec (.vectorQueueExecute core) s = execVectorQueueExecute core s := rfl
theorem exec_nputFill (id : Nat) : exec (.nputFill id) s = execNputFill id s := rfl
theorem exec_parcelEnd (core : Nat) : exec (.parcelEnd core) s = execParcelEnd core s := rfl
theorem exec_matrixGrant (octet : Nat) : exec (.matrixGrant octet) s = execMatrixGrant octet s := rfl
theorem exec_mtxCompletion (core : Nat) : exec (.mtxCompletion core) s = execMtxCompletion core s := rfl
theorem exec_operandsConsumed (core : Nat) : exec (.operandsConsumed core) s = execOperandsConsumed core s := rfl
theorem exec_pairing (core : Nat) : exec (.pairing core) s = execPairing core s := rfl
theorem exec_pairtimeout (core : Nat) : exec (.pairtimeout core) s = execPairtimeout core s := rfl
theorem exec_copyEngineTurn (octet : Nat) : exec (.copyEngineTurn octet) s = execCopyEngineTurn octet s := rfl
theorem exec_copyCompletion (core : Nat) : exec (.copyCompletion core) s = execCopyCompletion core s := rfl
theorem exec_publishFlip (core : Nat) : exec (.publishFlip core) s = execPublishFlip core s := rfl
theorem exec_gatherEngineTurn (cluster : Nat) : exec (.gatherEngineTurn cluster) s = execGatherEngineTurn cluster s := rfl
theorem exec_barrierArrival (id : Nat) : exec (.barrierArrival id) s = execBarrierArrival id s := rfl
theorem exec_barrierCompletion (id : Nat) : exec (.barrierCompletion id) s = execBarrierCompletion id s := rfl
theorem exec_domSetCompletion (dom : Nat) : exec (.domSetCompletion dom) s = execDomSetCompletion dom s := rfl
theorem exec_exchangeSlot (dom : Nat) : exec (.exchangeSlot dom) s = execExchangeSlot dom s := rfl
theorem exec_entryLanding (id : Nat) : exec (.entryLanding id) s = execEntryLanding id s := rfl
theorem exec_ctxSaveCompletion (core : Nat) (ctx : Nat) : exec (.ctxSaveCompletion core ctx) s = execCtxSaveCompletion core ctx s := rfl
theorem exec_ctxLoadCompletion (core : Nat) (ctx : Nat) : exec (.ctxLoadCompletion core ctx) s = execCtxLoadCompletion core ctx s := rfl
theorem exec_gsigPerform (id : Nat) : exec (.gsigPerform id) s = execGsigPerform id s := rfl
theorem exec_gwaitTimeout (core : Nat) (ctx : Nat) : exec (.gwaitTimeout core ctx) s = execGwaitTimeout core ctx s := rfl
theorem exec_watchValue (pkg : Nat) (word : Nat) : exec (.watchValue pkg word) s = execWatchValue pkg word s := rfl
theorem exec_homeRead (id : Nat) (part : Nat) : exec (.homeRead id part) s = execHomeRead id part s := rfl
theorem exec_homeWrite (id : Nat) (part : Nat) : exec (.homeWrite id part) s = execHomeWrite id part s := rfl
theorem exec_homeReduce (id : Nat) (part : Nat) : exec (.homeReduce id part) s = execHomeReduce id part s := rfl
theorem exec_homeEviction (cluster : Nat) (line : Nat) : exec (.homeEviction cluster line) s = execHomeEviction cluster line s := rfl
theorem exec_reductionAtL2 (id : Nat) (part : Nat) : exec (.reductionAtL2 id part) s = execReductionAtL2 id part s := rfl
theorem exec_probe (cluster : Nat) (line : Nat) : exec (.probe cluster line) s = execProbe cluster line s := rfl
theorem exec_probeTimeout (cluster : Nat) (line : Nat) : exec (.probeTimeout cluster line) s = execProbeTimeout cluster line s := rfl
theorem exec_lockRequest (id : Nat) : exec (.lockRequest id) s = execLockRequest id s := rfl
theorem exec_successorLink (id : Nat) : exec (.successorLink id) s = execSuccessorLink id s := rfl
theorem exec_lockReleaseHome (id : Nat) : exec (.lockReleaseHome id) s = execLockReleaseHome id s := rfl
theorem exec_lockHandoff (id : Nat) : exec (.lockHandoff id) s = execLockHandoff id s := rfl
theorem exec_lockTimeout (core : Nat) (ctx : Nat) : exec (.lockTimeout core ctx) s = execLockTimeout core ctx s := rfl
theorem exec_deadlockSearch (core : Nat) (ctx : Nat) : exec (.deadlockSearch core ctx) s = execDeadlockSearch core ctx s := rfl
theorem exec_grantParkExpiry (core : Nat) (ctx : Nat) : exec (.grantParkExpiry core ctx) s = execGrantParkExpiry core ctx s := rfl
theorem exec_txAbortMessage (core : Nat) (ctx : Nat) : exec (.txAbortMessage core ctx) s = execTxAbortMessage core ctx s := rfl
theorem exec_txPrepare (core : Nat) (ctx : Nat) (home : Nat) : exec (.txPrepare core ctx home) s = execTxPrepare core ctx home s := rfl
theorem exec_txPrepareAck (core : Nat) (ctx : Nat) : exec (.txPrepareAck core ctx) s = execTxPrepareAck core ctx s := rfl
theorem exec_txRelease (core : Nat) (ctx : Nat) (home : Nat) : exec (.txRelease core ctx home) s = execTxRelease core ctx home s := rfl
theorem exec_upcallDelivery (core : Nat) : exec (.upcallDelivery core) s = execUpcallDelivery core s := rfl
theorem exec_deferredTrap (core : Nat) (ctx : Nat) : exec (.deferredTrap core ctx) s = execDeferredTrap core ctx s := rfl
theorem exec_interruptTake (core : Nat) : exec (.interruptTake core) s = execInterruptTake core s := rfl
theorem exec_watchdog (core : Nat) : exec (.watchdog core) s = execWatchdog core s := rfl
theorem exec_yieldWindowEnd (core : Nat) (ctx : Nat) : exec (.yieldWindowEnd core ctx) s = execYieldWindowEnd core ctx s := rfl
theorem exec_quarantine (core : Nat) : exec (.quarantine core) s = execQuarantine core s := rfl
theorem exec_launch (pkg : Nat) (tenant : Nat) (queue : Nat) (msg : LaunchMsg) : exec (.launch pkg tenant queue msg) s = execLaunch pkg tenant queue msg s := rfl
theorem exec_submit (pkg : Nat) : exec (.submit pkg) s = execSubmit pkg s := rfl
theorem exec_retire (pkg : Nat) : exec (.retire pkg) s = execRetire pkg s := rfl
theorem exec_saved (pkg : Nat) : exec (.saved pkg) s = execSaved pkg s := rfl
theorem exec_ctl (pkg : Nat) : exec (.ctl pkg) s = execCtl pkg s := rfl
theorem exec_part (pkg : Nat) (num : Nat) (tenant : Nat) (quads : BitVec 128) (windows : List (BitVec 64)) (l2mask : List (BitVec 24)) (llcWays : Nat) (bwHbm : Nat) (bwDdr : Nat) : exec (.part pkg num tenant quads windows l2mask llcWays bwHbm bwDdr) s = execPart pkg num tenant quads windows l2mask llcWays bwHbm bwDdr s := rfl
theorem exec_rankStart (core : Nat) : exec (.rankStart core) s = execRankStart core s := rfl
theorem exec_preempt (core : Nat) : exec (.preempt core) s = execPreempt core s := rfl
theorem exec_restore (core : Nat) : exec (.restore core) s = execRestore core s := rfl
theorem exec_coreReset (core : Nat) : exec (.coreReset core) s = execCoreReset core s := rfl
theorem exec_partitionReset (pkg : Nat) (num : Nat) : exec (.partitionReset pkg num) s = execPartitionReset pkg num s := rfl
theorem exec_bringUp (pkg : Nat) (imageOk : Bool) (found : Training) (strap : BitVec 8) : exec (.bringUp pkg imageOk found strap) s = execBringUp pkg imageOk found strap s := rfl
theorem exec_homeLost (pkg : Nat) (slice : Nat) : exec (.homeLost pkg slice) s = execHomeLost pkg slice s := rfl
theorem exec_moduleDown (pkg : Nat) (socket : Nat) : exec (.moduleDown pkg socket) s = execModuleDown pkg socket s := rfl
theorem exec_memrd (pkg : Nat) (tenant : Nat) (msgId : MsgId) (pa : Nat) (len : Nat) : exec (.memrd pkg tenant msgId pa len) s = execMemrd pkg tenant msgId pa len s := rfl
theorem exec_memwr (pkg : Nat) (tenant : Nat) (msgId : MsgId) (pa : Nat) (data : List (BitVec 8)) : exec (.memwr pkg tenant msgId pa data) s = execMemwr pkg tenant msgId pa data s := rfl
theorem exec_doorbell (pkg : Nat) (tenant : Nat) (msgId : MsgId) (core : Nat) : exec (.doorbell pkg tenant msgId core) s = execDoorbell pkg tenant msgId core s := rfl
theorem exec_evread (pkg : Nat) (tenant : Nat) (msgSeq : Nat) (index : Nat) : exec (.evread pkg tenant msgSeq index) s = execEvread pkg tenant msgSeq index s := rfl
theorem exec_keyagree (pkg : Nat) (msgId : MsgId) (pub : BitVec 256) (sig : BitVec 512) : exec (.keyagree pkg msgId pub sig) s = execKeyagree pkg msgId pub sig s := rfl
theorem exec_keyset (pkg : Nat) (msgId : MsgId) (tenant : Nat) (h2d : BitVec 256) (d2h : BitVec 256) : exec (.keyset pkg msgId tenant h2d d2h) s = execKeyset pkg msgId tenant h2d d2h s := rfl
theorem exec_evring (pkg : Nat) (msgId : MsgId) (tenant : Nat) (log2n : Nat) (window : Nat) (offset : Nat) : exec (.evring pkg msgId tenant log2n window offset) s = execEvring pkg msgId tenant log2n window offset s := rfl
theorem exec_hwin (pkg : Nat) (msgId : MsgId) (tenant : Nat) (window : Nat) (wr : Bool) (base : Nat) (size : Nat) : exec (.hwin pkg msgId tenant window wr base size) s = execHwin pkg msgId tenant window wr base size s := rfl
theorem exec_attest (pkg : Nat) (msgId : MsgId) (nonce : BitVec 256) : exec (.attest pkg msgId nonce) s = execAttest pkg msgId nonce s := rfl
theorem exec_hostReply (id : Nat) (answer : HostAnswer) : exec (.hostReply id answer) s = execHostReply id answer s := rfl
theorem exec_proxyAtomic (id : Nat) : exec (.proxyAtomic id) s = execProxyAtomic id s := rfl
theorem exec_retransmit (pkg : Nat) (tenant : Nat) (msgSeq : Nat) : exec (.retransmit pkg tenant msgSeq) s = execRetransmit pkg tenant msgSeq s := rfl
theorem exec_linkCodeword (pkg : Nat) (link : Nat) (good : Bool) (cells : List (Nat × Nat × Nat)) (credits : List Nat) (nak : Bool) (ackSeq : Nat) : exec (.linkCodeword pkg link good cells credits nak ackSeq) s = execLinkCodeword pkg link good cells credits nak ackSeq s := rfl
theorem exec_linkDown (pkg : Nat) (link : Nat) : exec (.linkDown pkg link) s = execLinkDown pkg link s := rfl
theorem exec_peerLostTimeout (pkg : Nat) (peer : Nat) : exec (.peerLostTimeout pkg peer) s = execPeerLostTimeout pkg peer s := rfl
theorem exec_remoteRequest (id : Nat) (part : Nat) : exec (.remoteRequest id part) s = execRemoteRequest id part s := rfl
theorem exec_migrationPassEnd (frame : Nat) : exec (.migrationPassEnd frame) s = execMigrationPassEnd frame s := rfl
theorem exec_install (frame : Nat) : exec (.install frame) s = execInstall frame s := rfl
theorem exec_installAck (frame : Nat) : exec (.installAck frame) s = execInstallAck frame s := rfl
theorem exec_fwd (id : Nat) (part : Nat) : exec (.fwd id part) s = execFwd id part s := rfl
theorem exec_redirect (id : Nat) : exec (.redirect id) s = execRedirect id s := rfl
theorem exec_purge (id : Nat) : exec (.purge id) s = execPurge id s := rfl
theorem exec_purgeAck (id : Nat) : exec (.purgeAck id) s = execPurgeAck id s := rfl
theorem exec_migchain (id : Nat) (part : Nat) : exec (.migchain id part) s = execMigchain id part s := rfl
theorem exec_migstale (id : Nat) (part : Nat) : exec (.migstale id part) s = execMigstale id part s := rfl
theorem exec_tailIdleTimeout (frame : Nat) : exec (.tailIdleTimeout frame) s = execTailIdleTimeout frame s := rfl
theorem exec_tailLifetimeExpiry (frame : Nat) : exec (.tailLifetimeExpiry frame) s = execTailLifetimeExpiry frame s := rfl
theorem exec_staleMarkExpiry (frame : Nat) : exec (.staleMarkExpiry frame) s = execStaleMarkExpiry frame s := rfl
theorem exec_powerCheck (pkg : Nat) (watts : Nat) (power : List Nat) (temps : List Nat) : exec (.powerCheck pkg watts power temps) s = execPowerCheck pkg watts power temps s := rfl
theorem exec_throttle (pkg : Nat) (island : Nat) : exec (.throttle pkg island) s = execThrottle pkg island s := rfl
theorem exec_thermalShutdown (pkg : Nat) (temp : Nat) : exec (.thermalShutdown pkg temp) s = execThermalShutdown pkg temp s := rfl
theorem exec_powerGate (pkg : Nat) (island : Nat) : exec (.powerGate pkg island) s = execPowerGate pkg island s := rfl
theorem exec_fResultWritten (core : Nat) (ctx : Nat) (reg : Nat) : exec (.fResultWritten core ctx reg) s = execFResultWritten core ctx reg s := rfl
theorem exec_scratchpadWindowRequest (id : Nat) (part : Nat) : exec (.scratchpadWindowRequest id part) s = execScratchpadWindowRequest id part s := rfl

end Sys2Proof.Machine
end

