-- ==== Sys2Proof/Laws/Issue.lean ====
section
/-! SUPPORT. When an instruction runs: the conditions of its needs, and what issue answers once they hold. -/
namespace Sys2Proof.Machine

variable (s : State)

/-! ### conditions -/

theorem holds_xPresent (r : BitVec 5) : condHolds s s.turn s.cur (.xPresent r.toNat) = true ↔ Present s r := Iff.rfl
theorem holds_xSettled (r : BitVec 5) : condHolds s s.turn s.cur (.xSettled r.toNat) = true ↔ Settled s r := by
  simp [condHolds, Settled, regs, me]
theorem holds_vPresent (r : BitVec 4) : condHolds s s.turn s.cur (.vPresent r.toNat) = true ↔ PresentV s r := Iff.rfl
theorem holds_vSettled (r : BitVec 4) : condHolds s s.turn s.cur (.vSettled r.toNat) = true ↔ SettledV s r := by
  simp [condHolds, SettledV, regs, me]
theorem holds_fDone (r : BitVec 5) : condHolds s s.turn s.cur (.fDone r.toNat) = true ↔ FreeF s r := by
  simp [condHolds, FreeF, regs, me]
theorem holds_vqRoom : condHolds s s.turn s.cur .vqRoom = true ↔ VqRoom s := by
  simp [condHolds, VqRoom, myCore]

theorem unmet_nil (cs : List Cond) : unmet s cs = [] ↔ ∀ c ∈ cs, condHolds s s.turn s.cur c = true := by
  simp [unmet, List.filter_eq_nil_iff]

/-- The conditions of a set of needs, register by register. -/
theorem conds_hold (d : Needs)
    (hx : ∀ r ∈ d.xr, Present s r) (hv : ∀ r ∈ d.vr, condHolds s s.turn s.cur (.vPresent r) = true)
    (hf : ∀ r ∈ d.fr, FreeF s r) (hw : ∀ r ∈ d.xw, Settled s r)
    (hvw : ∀ r ∈ d.vw, condHolds s s.turn s.cur (.vSettled r) = true)
    (he : ∀ c ∈ d.extra, condHolds s s.turn s.cur c = true) : unmet s d.conds = [] := by
  rw [unmet_nil]
  intro c hc
  simp only [Needs.conds, List.mem_append, List.mem_map] at hc
  rcases hc with ((((⟨r, hr, rfl⟩ | ⟨r, hr, rfl⟩) | ⟨r, hr, rfl⟩) | ⟨r, hr, rfl⟩) | ⟨r, hr, rfl⟩) | hc
  · exact hx r hr
  · exact hv r hr
  · exact (holds_fDone s r).2 (hf r hr)
  · exact (holds_xSettled s r).2 (hw r hr)
  · exact hvw r hr
  · exact he c hc

/-! ### issue -/

theorem whenMet_met (cs : List Cond) (body : State → Out) (h : unmet s cs = []) : whenMet cs body s = body s := by
  simp [whenMet, h]
theorem whenMet_parks (cs : List Cond) (body : State → Out) (h : unmet s cs ≠ []) :
    whenMet cs body s = .next (park s (unmet s cs)) := by simp [whenMet, h]
theorem issueTx_met (d : Needs) (body : State → Out) (h : unmet s d.conds = []) : issueTx d body s = body s :=
  whenMet_met s _ _ h
theorem inTx_false (h : NoTx s) : inTx s = false := by unfold NoTx at h; simp [inTx, h]
theorem issue_met (d : Needs) (body : State → Out) (ht : NoTx s) (h : unmet s d.conds = []) : issue d body s = body s := by
  simp [issue, inTx_false s ht, whenMet_met s _ _ h]
/-- An instruction that a transaction may not contain aborts it with UNSUPP, before its operands are looked at. -/
theorem issue_inTx (d : Needs) (body : State → Out) (h : ¬ NoTx s) :
    issue d body s = .next (abortMe s Abort.unsupp 0 0) := by
  have : inTx s = true := by
    unfold NoTx at h
    unfold inTx
    cases e : (me s).tx with
    | none => exact absurd e h
    | some t => rfl
  simp [issue, this]

end Sys2Proof.Machine
end

