-- ==== Sys2Proof/Laws/PerInstr.lean ====
section
/-! SUPPORT. Encoding and decoding, instruction by instruction: the family RoundTrip (03 R46 to R65). -/
namespace Sys2Proof.Laws

/-! ### fields of a word -/

/-- A field of a word as a number. -/
theorem fld_toNat (w : IWord) (lo n : Nat) : (fld w lo n).toNat = w.toNat / 2 ^ lo % 2 ^ n := by
  simp [fld, Nat.shiftRight_eq_div_pow]

/-- The number of two fields side by side. -/
theorem append_toNat {m n : Nat} (a : BitVec m) (b : BitVec n) : (a ++ b).toNat = a.toNat * 2 ^ n + b.toNat := by
  rw [BitVec.toNat_append, Nat.shiftLeft_eq, ← Nat.shiftLeft_eq, Nat.shiftLeft_add_eq_or_of_lt b.isLt]

/-- A field is the value that the word's number has there. -/
theorem fld_eq {n : Nat} (w : IWord) (lo : Nat) (v : BitVec n) (h : w.toNat / 2 ^ lo % 2 ^ n = v.toNat) : fld w lo n = v := by
  apply BitVec.eq_of_toNat_eq; rw [fld_toNat]; exact h

/-- Bits of a field as a number. -/
theorem extract_toNat {n : Nat} (x : BitVec n) (lo k : Nat) : (x.extractLsb' lo k).toNat = x.toNat / 2 ^ lo % 2 ^ k := by
  simp [Nat.shiftRight_eq_div_pow]

/-! ### the fields of a packed word -/

theorem pack12_5_3_5_7_toNat (a0 : BitVec 12) (a1 : BitVec 5) (a2 : BitVec 3) (a3 : BitVec 5) (a4 : BitVec 7) :
    (pack12_5_3_5_7 a0 a1 a2 a3 a4).toNat =
      ((((a0.toNat * 2 ^ 5 + a1.toNat) * 2 ^ 3 + a2.toNat) * 2 ^ 5 + a3.toNat) * 2 ^ 7 + a4.toNat) := by
  simp only [pack12_5_3_5_7, append_toNat]

@[simp] theorem pack12_5_3_5_7_at20 (a0 : BitVec 12) (a1 : BitVec 5) (a2 : BitVec 3) (a3 : BitVec 5) (a4 : BitVec 7) :
    fld (pack12_5_3_5_7 a0 a1 a2 a3 a4) 20 12 = a0 := by
  apply fld_eq; rw [pack12_5_3_5_7_toNat]; omega

@[simp] theorem pack12_5_3_5_7_at15 (a0 : BitVec 12) (a1 : BitVec 5) (a2 : BitVec 3) (a3 : BitVec 5) (a4 : BitVec 7) :
    fld (pack12_5_3_5_7 a0 a1 a2 a3 a4) 15 5 = a1 := by
  apply fld_eq; rw [pack12_5_3_5_7_toNat]; omega

@[simp] theorem pack12_5_3_5_7_at12 (a0 : BitVec 12) (a1 : BitVec 5) (a2 : BitVec 3) (a3 : BitVec 5) (a4 : BitVec 7) :
    fld (pack12_5_3_5_7 a0 a1 a2 a3 a4) 12 3 = a2 := by
  apply fld_eq; rw [pack12_5_3_5_7_toNat]; omega

@[simp] theorem pack12_5_3_5_7_at7 (a0 : BitVec 12) (a1 : BitVec 5) (a2 : BitVec 3) (a3 : BitVec 5) (a4 : BitVec 7) :
    fld (pack12_5_3_5_7 a0 a1 a2 a3 a4) 7 5 = a3 := by
  apply fld_eq; rw [pack12_5_3_5_7_toNat]; omega

@[simp] theorem pack12_5_3_5_7_at0 (a0 : BitVec 12) (a1 : BitVec 5) (a2 : BitVec 3) (a3 : BitVec 5) (a4 : BitVec 7) :
    fld (pack12_5_3_5_7 a0 a1 a2 a3 a4) 0 7 = a4 := by
  apply fld_eq; rw [pack12_5_3_5_7_toNat]; omega

theorem pack1_10_1_8_5_7_toNat (a0 : BitVec 1) (a1 : BitVec 10) (a2 : BitVec 1) (a3 : BitVec 8) (a4 : BitVec 5) (a5 : BitVec 7) :
    (pack1_10_1_8_5_7 a0 a1 a2 a3 a4 a5).toNat =
      (((((a0.toNat * 2 ^ 10 + a1.toNat) * 2 ^ 1 + a2.toNat) * 2 ^ 8 + a3.toNat) * 2 ^ 5 + a4.toNat) * 2 ^ 7 + a5.toNat) := by
  simp only [pack1_10_1_8_5_7, append_toNat]

@[simp] theorem pack1_10_1_8_5_7_at31 (a0 : BitVec 1) (a1 : BitVec 10) (a2 : BitVec 1) (a3 : BitVec 8) (a4 : BitVec 5) (a5 : BitVec 7) :
    fld (pack1_10_1_8_5_7 a0 a1 a2 a3 a4 a5) 31 1 = a0 := by
  apply fld_eq; rw [pack1_10_1_8_5_7_toNat]; omega

@[simp] theorem pack1_10_1_8_5_7_at21 (a0 : BitVec 1) (a1 : BitVec 10) (a2 : BitVec 1) (a3 : BitVec 8) (a4 : BitVec 5) (a5 : BitVec 7) :
    fld (pack1_10_1_8_5_7 a0 a1 a2 a3 a4 a5) 21 10 = a1 := by
  apply fld_eq; rw [pack1_10_1_8_5_7_toNat]; omega

@[simp] theorem pack1_10_1_8_5_7_at20 (a0 : BitVec 1) (a1 : BitVec 10) (a2 : BitVec 1) (a3 : BitVec 8) (a4 : BitVec 5) (a5 : BitVec 7) :
    fld (pack1_10_1_8_5_7 a0 a1 a2 a3 a4 a5) 20 1 = a2 := by
  apply fld_eq; rw [pack1_10_1_8_5_7_toNat]; omega

@[simp] theorem pack1_10_1_8_5_7_at12 (a0 : BitVec 1) (a1 : BitVec 10) (a2 : BitVec 1) (a3 : BitVec 8) (a4 : BitVec 5) (a5 : BitVec 7) :
    fld (pack1_10_1_8_5_7 a0 a1 a2 a3 a4 a5) 12 8 = a3 := by
  apply fld_eq; rw [pack1_10_1_8_5_7_toNat]; omega

@[simp] theorem pack1_10_1_8_5_7_at7 (a0 : BitVec 1) (a1 : BitVec 10) (a2 : BitVec 1) (a3 : BitVec 8) (a4 : BitVec 5) (a5 : BitVec 7) :
    fld (pack1_10_1_8_5_7 a0 a1 a2 a3 a4 a5) 7 5 = a4 := by
  apply fld_eq; rw [pack1_10_1_8_5_7_toNat]; omega

@[simp] theorem pack1_10_1_8_5_7_at0 (a0 : BitVec 1) (a1 : BitVec 10) (a2 : BitVec 1) (a3 : BitVec 8) (a4 : BitVec 5) (a5 : BitVec 7) :
    fld (pack1_10_1_8_5_7 a0 a1 a2 a3 a4 a5) 0 7 = a5 := by
  apply fld_eq; rw [pack1_10_1_8_5_7_toNat]; omega

theorem pack1_2_2_2_5_5_3_5_7_toNat (a0 : BitVec 1) (a1 : BitVec 2) (a2 : BitVec 2) (a3 : BitVec 2) (a4 : BitVec 5) (a5 : BitVec 5) (a6 : BitVec 3) (a7 : BitVec 5) (a8 : BitVec 7) :
    (pack1_2_2_2_5_5_3_5_7 a0 a1 a2 a3 a4 a5 a6 a7 a8).toNat =
      ((((((((a0.toNat * 2 ^ 2 + a1.toNat) * 2 ^ 2 + a2.toNat) * 2 ^ 2 + a3.toNat) * 2 ^ 5 + a4.toNat) * 2 ^ 5 + a5.toNat) * 2 ^ 3 + a6.toNat) * 2 ^ 5 + a7.toNat) * 2 ^ 7 + a8.toNat) := by
  simp only [pack1_2_2_2_5_5_3_5_7, append_toNat]

@[simp] theorem pack1_2_2_2_5_5_3_5_7_at31 (a0 : BitVec 1) (a1 : BitVec 2) (a2 : BitVec 2) (a3 : BitVec 2) (a4 : BitVec 5) (a5 : BitVec 5) (a6 : BitVec 3) (a7 : BitVec 5) (a8 : BitVec 7) :
    fld (pack1_2_2_2_5_5_3_5_7 a0 a1 a2 a3 a4 a5 a6 a7 a8) 31 1 = a0 := by
  apply fld_eq; rw [pack1_2_2_2_5_5_3_5_7_toNat]; omega

@[simp] theorem pack1_2_2_2_5_5_3_5_7_at29 (a0 : BitVec 1) (a1 : BitVec 2) (a2 : BitVec 2) (a3 : BitVec 2) (a4 : BitVec 5) (a5 : BitVec 5) (a6 : BitVec 3) (a7 : BitVec 5) (a8 : BitVec 7) :
    fld (pack1_2_2_2_5_5_3_5_7 a0 a1 a2 a3 a4 a5 a6 a7 a8) 29 2 = a1 := by
  apply fld_eq; rw [pack1_2_2_2_5_5_3_5_7_toNat]; omega

@[simp] theorem pack1_2_2_2_5_5_3_5_7_at27 (a0 : BitVec 1) (a1 : BitVec 2) (a2 : BitVec 2) (a3 : BitVec 2) (a4 : BitVec 5) (a5 : BitVec 5) (a6 : BitVec 3) (a7 : BitVec 5) (a8 : BitVec 7) :
    fld (pack1_2_2_2_5_5_3_5_7 a0 a1 a2 a3 a4 a5 a6 a7 a8) 27 2 = a2 := by
  apply fld_eq; rw [pack1_2_2_2_5_5_3_5_7_toNat]; omega

@[simp] theorem pack1_2_2_2_5_5_3_5_7_at25 (a0 : BitVec 1) (a1 : BitVec 2) (a2 : BitVec 2) (a3 : BitVec 2) (a4 : BitVec 5) (a5 : BitVec 5) (a6 : BitVec 3) (a7 : BitVec 5) (a8 : BitVec 7) :
    fld (pack1_2_2_2_5_5_3_5_7 a0 a1 a2 a3 a4 a5 a6 a7 a8) 25 2 = a3 := by
  apply fld_eq; rw [pack1_2_2_2_5_5_3_5_7_toNat]; omega

@[simp] theorem pack1_2_2_2_5_5_3_5_7_at20 (a0 : BitVec 1) (a1 : BitVec 2) (a2 : BitVec 2) (a3 : BitVec 2) (a4 : BitVec 5) (a5 : BitVec 5) (a6 : BitVec 3) (a7 : BitVec 5) (a8 : BitVec 7) :
    fld (pack1_2_2_2_5_5_3_5_7 a0 a1 a2 a3 a4 a5 a6 a7 a8) 20 5 = a4 := by
  apply fld_eq; rw [pack1_2_2_2_5_5_3_5_7_toNat]; omega

@[simp] theorem pack1_2_2_2_5_5_3_5_7_at15 (a0 : BitVec 1) (a1 : BitVec 2) (a2 : BitVec 2) (a3 : BitVec 2) (a4 : BitVec 5) (a5 : BitVec 5) (a6 : BitVec 3) (a7 : BitVec 5) (a8 : BitVec 7) :
    fld (pack1_2_2_2_5_5_3_5_7 a0 a1 a2 a3 a4 a5 a6 a7 a8) 15 5 = a5 := by
  apply fld_eq; rw [pack1_2_2_2_5_5_3_5_7_toNat]; omega

@[simp] theorem pack1_2_2_2_5_5_3_5_7_at12 (a0 : BitVec 1) (a1 : BitVec 2) (a2 : BitVec 2) (a3 : BitVec 2) (a4 : BitVec 5) (a5 : BitVec 5) (a6 : BitVec 3) (a7 : BitVec 5) (a8 : BitVec 7) :
    fld (pack1_2_2_2_5_5_3_5_7 a0 a1 a2 a3 a4 a5 a6 a7 a8) 12 3 = a6 := by
  apply fld_eq; rw [pack1_2_2_2_5_5_3_5_7_toNat]; omega

@[simp] theorem pack1_2_2_2_5_5_3_5_7_at7 (a0 : BitVec 1) (a1 : BitVec 2) (a2 : BitVec 2) (a3 : BitVec 2) (a4 : BitVec 5) (a5 : BitVec 5) (a6 : BitVec 3) (a7 : BitVec 5) (a8 : BitVec 7) :
    fld (pack1_2_2_2_5_5_3_5_7 a0 a1 a2 a3 a4 a5 a6 a7 a8) 7 5 = a7 := by
  apply fld_eq; rw [pack1_2_2_2_5_5_3_5_7_toNat]; omega

@[simp] theorem pack1_2_2_2_5_5_3_5_7_at0 (a0 : BitVec 1) (a1 : BitVec 2) (a2 : BitVec 2) (a3 : BitVec 2) (a4 : BitVec 5) (a5 : BitVec 5) (a6 : BitVec 3) (a7 : BitVec 5) (a8 : BitVec 7) :
    fld (pack1_2_2_2_5_5_3_5_7 a0 a1 a2 a3 a4 a5 a6 a7 a8) 0 7 = a8 := by
  apply fld_eq; rw [pack1_2_2_2_5_5_3_5_7_toNat]; omega

theorem pack1_4_1_2_4_4_2_3_4_7_toNat (a0 : BitVec 1) (a1 : BitVec 4) (a2 : BitVec 1) (a3 : BitVec 2) (a4 : BitVec 4) (a5 : BitVec 4) (a6 : BitVec 2) (a7 : BitVec 3) (a8 : BitVec 4) (a9 : BitVec 7) :
    (pack1_4_1_2_4_4_2_3_4_7 a0 a1 a2 a3 a4 a5 a6 a7 a8 a9).toNat =
      (((((((((a0.toNat * 2 ^ 4 + a1.toNat) * 2 ^ 1 + a2.toNat) * 2 ^ 2 + a3.toNat) * 2 ^ 4 + a4.toNat) * 2 ^ 4 + a5.toNat) * 2 ^ 2 + a6.toNat) * 2 ^ 3 + a7.toNat) * 2 ^ 4 + a8.toNat) * 2 ^ 7 + a9.toNat) := by
  simp only [pack1_4_1_2_4_4_2_3_4_7, append_toNat]

@[simp] theorem pack1_4_1_2_4_4_2_3_4_7_at31 (a0 : BitVec 1) (a1 : BitVec 4) (a2 : BitVec 1) (a3 : BitVec 2) (a4 : BitVec 4) (a5 : BitVec 4) (a6 : BitVec 2) (a7 : BitVec 3) (a8 : BitVec 4) (a9 : BitVec 7) :
    fld (pack1_4_1_2_4_4_2_3_4_7 a0 a1 a2 a3 a4 a5 a6 a7 a8 a9) 31 1 = a0 := by
  apply fld_eq; rw [pack1_4_1_2_4_4_2_3_4_7_toNat]; omega

@[simp] theorem pack1_4_1_2_4_4_2_3_4_7_at27 (a0 : BitVec 1) (a1 : BitVec 4) (a2 : BitVec 1) (a3 : BitVec 2) (a4 : BitVec 4) (a5 : BitVec 4) (a6 : BitVec 2) (a7 : BitVec 3) (a8 : BitVec 4) (a9 : BitVec 7) :
    fld (pack1_4_1_2_4_4_2_3_4_7 a0 a1 a2 a3 a4 a5 a6 a7 a8 a9) 27 4 = a1 := by
  apply fld_eq; rw [pack1_4_1_2_4_4_2_3_4_7_toNat]; omega

@[simp] theorem pack1_4_1_2_4_4_2_3_4_7_at26 (a0 : BitVec 1) (a1 : BitVec 4) (a2 : BitVec 1) (a3 : BitVec 2) (a4 : BitVec 4) (a5 : BitVec 4) (a6 : BitVec 2) (a7 : BitVec 3) (a8 : BitVec 4) (a9 : BitVec 7) :
    fld (pack1_4_1_2_4_4_2_3_4_7 a0 a1 a2 a3 a4 a5 a6 a7 a8 a9) 26 1 = a2 := by
  apply fld_eq; rw [pack1_4_1_2_4_4_2_3_4_7_toNat]; omega

@[simp] theorem pack1_4_1_2_4_4_2_3_4_7_at24 (a0 : BitVec 1) (a1 : BitVec 4) (a2 : BitVec 1) (a3 : BitVec 2) (a4 : BitVec 4) (a5 : BitVec 4) (a6 : BitVec 2) (a7 : BitVec 3) (a8 : BitVec 4) (a9 : BitVec 7) :
    fld (pack1_4_1_2_4_4_2_3_4_7 a0 a1 a2 a3 a4 a5 a6 a7 a8 a9) 24 2 = a3 := by
  apply fld_eq; rw [pack1_4_1_2_4_4_2_3_4_7_toNat]; omega

@[simp] theorem pack1_4_1_2_4_4_2_3_4_7_at20 (a0 : BitVec 1) (a1 : BitVec 4) (a2 : BitVec 1) (a3 : BitVec 2) (a4 : BitVec 4) (a5 : BitVec 4) (a6 : BitVec 2) (a7 : BitVec 3) (a8 : BitVec 4) (a9 : BitVec 7) :
    fld (pack1_4_1_2_4_4_2_3_4_7 a0 a1 a2 a3 a4 a5 a6 a7 a8 a9) 20 4 = a4 := by
  apply fld_eq; rw [pack1_4_1_2_4_4_2_3_4_7_toNat]; omega

@[simp] theorem pack1_4_1_2_4_4_2_3_4_7_at16 (a0 : BitVec 1) (a1 : BitVec 4) (a2 : BitVec 1) (a3 : BitVec 2) (a4 : BitVec 4) (a5 : BitVec 4) (a6 : BitVec 2) (a7 : BitVec 3) (a8 : BitVec 4) (a9 : BitVec 7) :
    fld (pack1_4_1_2_4_4_2_3_4_7 a0 a1 a2 a3 a4 a5 a6 a7 a8 a9) 16 4 = a5 := by
  apply fld_eq; rw [pack1_4_1_2_4_4_2_3_4_7_toNat]; omega

@[simp] theorem pack1_4_1_2_4_4_2_3_4_7_at14 (a0 : BitVec 1) (a1 : BitVec 4) (a2 : BitVec 1) (a3 : BitVec 2) (a4 : BitVec 4) (a5 : BitVec 4) (a6 : BitVec 2) (a7 : BitVec 3) (a8 : BitVec 4) (a9 : BitVec 7) :
    fld (pack1_4_1_2_4_4_2_3_4_7 a0 a1 a2 a3 a4 a5 a6 a7 a8 a9) 14 2 = a6 := by
  apply fld_eq; rw [pack1_4_1_2_4_4_2_3_4_7_toNat]; omega

@[simp] theorem pack1_4_1_2_4_4_2_3_4_7_at11 (a0 : BitVec 1) (a1 : BitVec 4) (a2 : BitVec 1) (a3 : BitVec 2) (a4 : BitVec 4) (a5 : BitVec 4) (a6 : BitVec 2) (a7 : BitVec 3) (a8 : BitVec 4) (a9 : BitVec 7) :
    fld (pack1_4_1_2_4_4_2_3_4_7 a0 a1 a2 a3 a4 a5 a6 a7 a8 a9) 11 3 = a7 := by
  apply fld_eq; rw [pack1_4_1_2_4_4_2_3_4_7_toNat]; omega

@[simp] theorem pack1_4_1_2_4_4_2_3_4_7_at7 (a0 : BitVec 1) (a1 : BitVec 4) (a2 : BitVec 1) (a3 : BitVec 2) (a4 : BitVec 4) (a5 : BitVec 4) (a6 : BitVec 2) (a7 : BitVec 3) (a8 : BitVec 4) (a9 : BitVec 7) :
    fld (pack1_4_1_2_4_4_2_3_4_7 a0 a1 a2 a3 a4 a5 a6 a7 a8 a9) 7 4 = a8 := by
  apply fld_eq; rw [pack1_4_1_2_4_4_2_3_4_7_toNat]; omega

@[simp] theorem pack1_4_1_2_4_4_2_3_4_7_at0 (a0 : BitVec 1) (a1 : BitVec 4) (a2 : BitVec 1) (a3 : BitVec 2) (a4 : BitVec 4) (a5 : BitVec 4) (a6 : BitVec 2) (a7 : BitVec 3) (a8 : BitVec 4) (a9 : BitVec 7) :
    fld (pack1_4_1_2_4_4_2_3_4_7 a0 a1 a2 a3 a4 a5 a6 a7 a8 a9) 0 7 = a9 := by
  apply fld_eq; rw [pack1_4_1_2_4_4_2_3_4_7_toNat]; omega

theorem pack1_4_2_1_4_5_3_5_7_toNat (a0 : BitVec 1) (a1 : BitVec 4) (a2 : BitVec 2) (a3 : BitVec 1) (a4 : BitVec 4) (a5 : BitVec 5) (a6 : BitVec 3) (a7 : BitVec 5) (a8 : BitVec 7) :
    (pack1_4_2_1_4_5_3_5_7 a0 a1 a2 a3 a4 a5 a6 a7 a8).toNat =
      ((((((((a0.toNat * 2 ^ 4 + a1.toNat) * 2 ^ 2 + a2.toNat) * 2 ^ 1 + a3.toNat) * 2 ^ 4 + a4.toNat) * 2 ^ 5 + a5.toNat) * 2 ^ 3 + a6.toNat) * 2 ^ 5 + a7.toNat) * 2 ^ 7 + a8.toNat) := by
  simp only [pack1_4_2_1_4_5_3_5_7, append_toNat]

@[simp] theorem pack1_4_2_1_4_5_3_5_7_at31 (a0 : BitVec 1) (a1 : BitVec 4) (a2 : BitVec 2) (a3 : BitVec 1) (a4 : BitVec 4) (a5 : BitVec 5) (a6 : BitVec 3) (a7 : BitVec 5) (a8 : BitVec 7) :
    fld (pack1_4_2_1_4_5_3_5_7 a0 a1 a2 a3 a4 a5 a6 a7 a8) 31 1 = a0 := by
  apply fld_eq; rw [pack1_4_2_1_4_5_3_5_7_toNat]; omega

@[simp] theorem pack1_4_2_1_4_5_3_5_7_at27 (a0 : BitVec 1) (a1 : BitVec 4) (a2 : BitVec 2) (a3 : BitVec 1) (a4 : BitVec 4) (a5 : BitVec 5) (a6 : BitVec 3) (a7 : BitVec 5) (a8 : BitVec 7) :
    fld (pack1_4_2_1_4_5_3_5_7 a0 a1 a2 a3 a4 a5 a6 a7 a8) 27 4 = a1 := by
  apply fld_eq; rw [pack1_4_2_1_4_5_3_5_7_toNat]; omega

@[simp] theorem pack1_4_2_1_4_5_3_5_7_at25 (a0 : BitVec 1) (a1 : BitVec 4) (a2 : BitVec 2) (a3 : BitVec 1) (a4 : BitVec 4) (a5 : BitVec 5) (a6 : BitVec 3) (a7 : BitVec 5) (a8 : BitVec 7) :
    fld (pack1_4_2_1_4_5_3_5_7 a0 a1 a2 a3 a4 a5 a6 a7 a8) 25 2 = a2 := by
  apply fld_eq; rw [pack1_4_2_1_4_5_3_5_7_toNat]; omega

@[simp] theorem pack1_4_2_1_4_5_3_5_7_at24 (a0 : BitVec 1) (a1 : BitVec 4) (a2 : BitVec 2) (a3 : BitVec 1) (a4 : BitVec 4) (a5 : BitVec 5) (a6 : BitVec 3) (a7 : BitVec 5) (a8 : BitVec 7) :
    fld (pack1_4_2_1_4_5_3_5_7 a0 a1 a2 a3 a4 a5 a6 a7 a8) 24 1 = a3 := by
  apply fld_eq; rw [pack1_4_2_1_4_5_3_5_7_toNat]; omega

@[simp] theorem pack1_4_2_1_4_5_3_5_7_at20 (a0 : BitVec 1) (a1 : BitVec 4) (a2 : BitVec 2) (a3 : BitVec 1) (a4 : BitVec 4) (a5 : BitVec 5) (a6 : BitVec 3) (a7 : BitVec 5) (a8 : BitVec 7) :
    fld (pack1_4_2_1_4_5_3_5_7 a0 a1 a2 a3 a4 a5 a6 a7 a8) 20 4 = a4 := by
  apply fld_eq; rw [pack1_4_2_1_4_5_3_5_7_toNat]; omega

@[simp] theorem pack1_4_2_1_4_5_3_5_7_at15 (a0 : BitVec 1) (a1 : BitVec 4) (a2 : BitVec 2) (a3 : BitVec 1) (a4 : BitVec 4) (a5 : BitVec 5) (a6 : BitVec 3) (a7 : BitVec 5) (a8 : BitVec 7) :
    fld (pack1_4_2_1_4_5_3_5_7 a0 a1 a2 a3 a4 a5 a6 a7 a8) 15 5 = a5 := by
  apply fld_eq; rw [pack1_4_2_1_4_5_3_5_7_toNat]; omega

@[simp] theorem pack1_4_2_1_4_5_3_5_7_at12 (a0 : BitVec 1) (a1 : BitVec 4) (a2 : BitVec 2) (a3 : BitVec 1) (a4 : BitVec 4) (a5 : BitVec 5) (a6 : BitVec 3) (a7 : BitVec 5) (a8 : BitVec 7) :
    fld (pack1_4_2_1_4_5_3_5_7 a0 a1 a2 a3 a4 a5 a6 a7 a8) 12 3 = a6 := by
  apply fld_eq; rw [pack1_4_2_1_4_5_3_5_7_toNat]; omega

@[simp] theorem pack1_4_2_1_4_5_3_5_7_at7 (a0 : BitVec 1) (a1 : BitVec 4) (a2 : BitVec 2) (a3 : BitVec 1) (a4 : BitVec 4) (a5 : BitVec 5) (a6 : BitVec 3) (a7 : BitVec 5) (a8 : BitVec 7) :
    fld (pack1_4_2_1_4_5_3_5_7 a0 a1 a2 a3 a4 a5 a6 a7 a8) 7 5 = a7 := by
  apply fld_eq; rw [pack1_4_2_1_4_5_3_5_7_toNat]; omega

@[simp] theorem pack1_4_2_1_4_5_3_5_7_at0 (a0 : BitVec 1) (a1 : BitVec 4) (a2 : BitVec 2) (a3 : BitVec 1) (a4 : BitVec 4) (a5 : BitVec 5) (a6 : BitVec 3) (a7 : BitVec 5) (a8 : BitVec 7) :
    fld (pack1_4_2_1_4_5_3_5_7 a0 a1 a2 a3 a4 a5 a6 a7 a8) 0 7 = a8 := by
  apply fld_eq; rw [pack1_4_2_1_4_5_3_5_7_toNat]; omega

theorem pack1_5_3_1_3_1_3_3_1_1_3_7_toNat (a0 : BitVec 1) (a1 : BitVec 5) (a2 : BitVec 3) (a3 : BitVec 1) (a4 : BitVec 3) (a5 : BitVec 1) (a6 : BitVec 3) (a7 : BitVec 3) (a8 : BitVec 1) (a9 : BitVec 1) (a10 : BitVec 3) (a11 : BitVec 7) :
    (pack1_5_3_1_3_1_3_3_1_1_3_7 a0 a1 a2 a3 a4 a5 a6 a7 a8 a9 a10 a11).toNat =
      (((((((((((a0.toNat * 2 ^ 5 + a1.toNat) * 2 ^ 3 + a2.toNat) * 2 ^ 1 + a3.toNat) * 2 ^ 3 + a4.toNat) * 2 ^ 1 + a5.toNat) * 2 ^ 3 + a6.toNat) * 2 ^ 3 + a7.toNat) * 2 ^ 1 + a8.toNat) * 2 ^ 1 + a9.toNat) * 2 ^ 3 + a10.toNat) * 2 ^ 7 + a11.toNat) := by
  simp only [pack1_5_3_1_3_1_3_3_1_1_3_7, append_toNat]

@[simp] theorem pack1_5_3_1_3_1_3_3_1_1_3_7_at31 (a0 : BitVec 1) (a1 : BitVec 5) (a2 : BitVec 3) (a3 : BitVec 1) (a4 : BitVec 3) (a5 : BitVec 1) (a6 : BitVec 3) (a7 : BitVec 3) (a8 : BitVec 1) (a9 : BitVec 1) (a10 : BitVec 3) (a11 : BitVec 7) :
    fld (pack1_5_3_1_3_1_3_3_1_1_3_7 a0 a1 a2 a3 a4 a5 a6 a7 a8 a9 a10 a11) 31 1 = a0 := by
  apply fld_eq; rw [pack1_5_3_1_3_1_3_3_1_1_3_7_toNat]; omega

@[simp] theorem pack1_5_3_1_3_1_3_3_1_1_3_7_at26 (a0 : BitVec 1) (a1 : BitVec 5) (a2 : BitVec 3) (a3 : BitVec 1) (a4 : BitVec 3) (a5 : BitVec 1) (a6 : BitVec 3) (a7 : BitVec 3) (a8 : BitVec 1) (a9 : BitVec 1) (a10 : BitVec 3) (a11 : BitVec 7) :
    fld (pack1_5_3_1_3_1_3_3_1_1_3_7 a0 a1 a2 a3 a4 a5 a6 a7 a8 a9 a10 a11) 26 5 = a1 := by
  apply fld_eq; rw [pack1_5_3_1_3_1_3_3_1_1_3_7_toNat]; omega

@[simp] theorem pack1_5_3_1_3_1_3_3_1_1_3_7_at23 (a0 : BitVec 1) (a1 : BitVec 5) (a2 : BitVec 3) (a3 : BitVec 1) (a4 : BitVec 3) (a5 : BitVec 1) (a6 : BitVec 3) (a7 : BitVec 3) (a8 : BitVec 1) (a9 : BitVec 1) (a10 : BitVec 3) (a11 : BitVec 7) :
    fld (pack1_5_3_1_3_1_3_3_1_1_3_7 a0 a1 a2 a3 a4 a5 a6 a7 a8 a9 a10 a11) 23 3 = a2 := by
  apply fld_eq; rw [pack1_5_3_1_3_1_3_3_1_1_3_7_toNat]; omega

@[simp] theorem pack1_5_3_1_3_1_3_3_1_1_3_7_at22 (a0 : BitVec 1) (a1 : BitVec 5) (a2 : BitVec 3) (a3 : BitVec 1) (a4 : BitVec 3) (a5 : BitVec 1) (a6 : BitVec 3) (a7 : BitVec 3) (a8 : BitVec 1) (a9 : BitVec 1) (a10 : BitVec 3) (a11 : BitVec 7) :
    fld (pack1_5_3_1_3_1_3_3_1_1_3_7 a0 a1 a2 a3 a4 a5 a6 a7 a8 a9 a10 a11) 22 1 = a3 := by
  apply fld_eq; rw [pack1_5_3_1_3_1_3_3_1_1_3_7_toNat]; omega

@[simp] theorem pack1_5_3_1_3_1_3_3_1_1_3_7_at19 (a0 : BitVec 1) (a1 : BitVec 5) (a2 : BitVec 3) (a3 : BitVec 1) (a4 : BitVec 3) (a5 : BitVec 1) (a6 : BitVec 3) (a7 : BitVec 3) (a8 : BitVec 1) (a9 : BitVec 1) (a10 : BitVec 3) (a11 : BitVec 7) :
    fld (pack1_5_3_1_3_1_3_3_1_1_3_7 a0 a1 a2 a3 a4 a5 a6 a7 a8 a9 a10 a11) 19 3 = a4 := by
  apply fld_eq; rw [pack1_5_3_1_3_1_3_3_1_1_3_7_toNat]; omega

@[simp] theorem pack1_5_3_1_3_1_3_3_1_1_3_7_at18 (a0 : BitVec 1) (a1 : BitVec 5) (a2 : BitVec 3) (a3 : BitVec 1) (a4 : BitVec 3) (a5 : BitVec 1) (a6 : BitVec 3) (a7 : BitVec 3) (a8 : BitVec 1) (a9 : BitVec 1) (a10 : BitVec 3) (a11 : BitVec 7) :
    fld (pack1_5_3_1_3_1_3_3_1_1_3_7 a0 a1 a2 a3 a4 a5 a6 a7 a8 a9 a10 a11) 18 1 = a5 := by
  apply fld_eq; rw [pack1_5_3_1_3_1_3_3_1_1_3_7_toNat]; omega

@[simp] theorem pack1_5_3_1_3_1_3_3_1_1_3_7_at15 (a0 : BitVec 1) (a1 : BitVec 5) (a2 : BitVec 3) (a3 : BitVec 1) (a4 : BitVec 3) (a5 : BitVec 1) (a6 : BitVec 3) (a7 : BitVec 3) (a8 : BitVec 1) (a9 : BitVec 1) (a10 : BitVec 3) (a11 : BitVec 7) :
    fld (pack1_5_3_1_3_1_3_3_1_1_3_7 a0 a1 a2 a3 a4 a5 a6 a7 a8 a9 a10 a11) 15 3 = a6 := by
  apply fld_eq; rw [pack1_5_3_1_3_1_3_3_1_1_3_7_toNat]; omega

@[simp] theorem pack1_5_3_1_3_1_3_3_1_1_3_7_at12 (a0 : BitVec 1) (a1 : BitVec 5) (a2 : BitVec 3) (a3 : BitVec 1) (a4 : BitVec 3) (a5 : BitVec 1) (a6 : BitVec 3) (a7 : BitVec 3) (a8 : BitVec 1) (a9 : BitVec 1) (a10 : BitVec 3) (a11 : BitVec 7) :
    fld (pack1_5_3_1_3_1_3_3_1_1_3_7 a0 a1 a2 a3 a4 a5 a6 a7 a8 a9 a10 a11) 12 3 = a7 := by
  apply fld_eq; rw [pack1_5_3_1_3_1_3_3_1_1_3_7_toNat]; omega

@[simp] theorem pack1_5_3_1_3_1_3_3_1_1_3_7_at11 (a0 : BitVec 1) (a1 : BitVec 5) (a2 : BitVec 3) (a3 : BitVec 1) (a4 : BitVec 3) (a5 : BitVec 1) (a6 : BitVec 3) (a7 : BitVec 3) (a8 : BitVec 1) (a9 : BitVec 1) (a10 : BitVec 3) (a11 : BitVec 7) :
    fld (pack1_5_3_1_3_1_3_3_1_1_3_7 a0 a1 a2 a3 a4 a5 a6 a7 a8 a9 a10 a11) 11 1 = a8 := by
  apply fld_eq; rw [pack1_5_3_1_3_1_3_3_1_1_3_7_toNat]; omega

@[simp] theorem pack1_5_3_1_3_1_3_3_1_1_3_7_at10 (a0 : BitVec 1) (a1 : BitVec 5) (a2 : BitVec 3) (a3 : BitVec 1) (a4 : BitVec 3) (a5 : BitVec 1) (a6 : BitVec 3) (a7 : BitVec 3) (a8 : BitVec 1) (a9 : BitVec 1) (a10 : BitVec 3) (a11 : BitVec 7) :
    fld (pack1_5_3_1_3_1_3_3_1_1_3_7 a0 a1 a2 a3 a4 a5 a6 a7 a8 a9 a10 a11) 10 1 = a9 := by
  apply fld_eq; rw [pack1_5_3_1_3_1_3_3_1_1_3_7_toNat]; omega

@[simp] theorem pack1_5_3_1_3_1_3_3_1_1_3_7_at7 (a0 : BitVec 1) (a1 : BitVec 5) (a2 : BitVec 3) (a3 : BitVec 1) (a4 : BitVec 3) (a5 : BitVec 1) (a6 : BitVec 3) (a7 : BitVec 3) (a8 : BitVec 1) (a9 : BitVec 1) (a10 : BitVec 3) (a11 : BitVec 7) :
    fld (pack1_5_3_1_3_1_3_3_1_1_3_7 a0 a1 a2 a3 a4 a5 a6 a7 a8 a9 a10 a11) 7 3 = a10 := by
  apply fld_eq; rw [pack1_5_3_1_3_1_3_3_1_1_3_7_toNat]; omega

@[simp] theorem pack1_5_3_1_3_1_3_3_1_1_3_7_at0 (a0 : BitVec 1) (a1 : BitVec 5) (a2 : BitVec 3) (a3 : BitVec 1) (a4 : BitVec 3) (a5 : BitVec 1) (a6 : BitVec 3) (a7 : BitVec 3) (a8 : BitVec 1) (a9 : BitVec 1) (a10 : BitVec 3) (a11 : BitVec 7) :
    fld (pack1_5_3_1_3_1_3_3_1_1_3_7 a0 a1 a2 a3 a4 a5 a6 a7 a8 a9 a10 a11) 0 7 = a11 := by
  apply fld_eq; rw [pack1_5_3_1_3_1_3_3_1_1_3_7_toNat]; omega

theorem pack1_5_3_4_1_3_3_5_7_toNat (a0 : BitVec 1) (a1 : BitVec 5) (a2 : BitVec 3) (a3 : BitVec 4) (a4 : BitVec 1) (a5 : BitVec 3) (a6 : BitVec 3) (a7 : BitVec 5) (a8 : BitVec 7) :
    (pack1_5_3_4_1_3_3_5_7 a0 a1 a2 a3 a4 a5 a6 a7 a8).toNat =
      ((((((((a0.toNat * 2 ^ 5 + a1.toNat) * 2 ^ 3 + a2.toNat) * 2 ^ 4 + a3.toNat) * 2 ^ 1 + a4.toNat) * 2 ^ 3 + a5.toNat) * 2 ^ 3 + a6.toNat) * 2 ^ 5 + a7.toNat) * 2 ^ 7 + a8.toNat) := by
  simp only [pack1_5_3_4_1_3_3_5_7, append_toNat]

@[simp] theorem pack1_5_3_4_1_3_3_5_7_at31 (a0 : BitVec 1) (a1 : BitVec 5) (a2 : BitVec 3) (a3 : BitVec 4) (a4 : BitVec 1) (a5 : BitVec 3) (a6 : BitVec 3) (a7 : BitVec 5) (a8 : BitVec 7) :
    fld (pack1_5_3_4_1_3_3_5_7 a0 a1 a2 a3 a4 a5 a6 a7 a8) 31 1 = a0 := by
  apply fld_eq; rw [pack1_5_3_4_1_3_3_5_7_toNat]; omega

@[simp] theorem pack1_5_3_4_1_3_3_5_7_at26 (a0 : BitVec 1) (a1 : BitVec 5) (a2 : BitVec 3) (a3 : BitVec 4) (a4 : BitVec 1) (a5 : BitVec 3) (a6 : BitVec 3) (a7 : BitVec 5) (a8 : BitVec 7) :
    fld (pack1_5_3_4_1_3_3_5_7 a0 a1 a2 a3 a4 a5 a6 a7 a8) 26 5 = a1 := by
  apply fld_eq; rw [pack1_5_3_4_1_3_3_5_7_toNat]; omega

@[simp] theorem pack1_5_3_4_1_3_3_5_7_at23 (a0 : BitVec 1) (a1 : BitVec 5) (a2 : BitVec 3) (a3 : BitVec 4) (a4 : BitVec 1) (a5 : BitVec 3) (a6 : BitVec 3) (a7 : BitVec 5) (a8 : BitVec 7) :
    fld (pack1_5_3_4_1_3_3_5_7 a0 a1 a2 a3 a4 a5 a6 a7 a8) 23 3 = a2 := by
  apply fld_eq; rw [pack1_5_3_4_1_3_3_5_7_toNat]; omega

@[simp] theorem pack1_5_3_4_1_3_3_5_7_at19 (a0 : BitVec 1) (a1 : BitVec 5) (a2 : BitVec 3) (a3 : BitVec 4) (a4 : BitVec 1) (a5 : BitVec 3) (a6 : BitVec 3) (a7 : BitVec 5) (a8 : BitVec 7) :
    fld (pack1_5_3_4_1_3_3_5_7 a0 a1 a2 a3 a4 a5 a6 a7 a8) 19 4 = a3 := by
  apply fld_eq; rw [pack1_5_3_4_1_3_3_5_7_toNat]; omega

@[simp] theorem pack1_5_3_4_1_3_3_5_7_at18 (a0 : BitVec 1) (a1 : BitVec 5) (a2 : BitVec 3) (a3 : BitVec 4) (a4 : BitVec 1) (a5 : BitVec 3) (a6 : BitVec 3) (a7 : BitVec 5) (a8 : BitVec 7) :
    fld (pack1_5_3_4_1_3_3_5_7 a0 a1 a2 a3 a4 a5 a6 a7 a8) 18 1 = a4 := by
  apply fld_eq; rw [pack1_5_3_4_1_3_3_5_7_toNat]; omega

@[simp] theorem pack1_5_3_4_1_3_3_5_7_at15 (a0 : BitVec 1) (a1 : BitVec 5) (a2 : BitVec 3) (a3 : BitVec 4) (a4 : BitVec 1) (a5 : BitVec 3) (a6 : BitVec 3) (a7 : BitVec 5) (a8 : BitVec 7) :
    fld (pack1_5_3_4_1_3_3_5_7 a0 a1 a2 a3 a4 a5 a6 a7 a8) 15 3 = a5 := by
  apply fld_eq; rw [pack1_5_3_4_1_3_3_5_7_toNat]; omega

@[simp] theorem pack1_5_3_4_1_3_3_5_7_at12 (a0 : BitVec 1) (a1 : BitVec 5) (a2 : BitVec 3) (a3 : BitVec 4) (a4 : BitVec 1) (a5 : BitVec 3) (a6 : BitVec 3) (a7 : BitVec 5) (a8 : BitVec 7) :
    fld (pack1_5_3_4_1_3_3_5_7 a0 a1 a2 a3 a4 a5 a6 a7 a8) 12 3 = a6 := by
  apply fld_eq; rw [pack1_5_3_4_1_3_3_5_7_toNat]; omega

@[simp] theorem pack1_5_3_4_1_3_3_5_7_at7 (a0 : BitVec 1) (a1 : BitVec 5) (a2 : BitVec 3) (a3 : BitVec 4) (a4 : BitVec 1) (a5 : BitVec 3) (a6 : BitVec 3) (a7 : BitVec 5) (a8 : BitVec 7) :
    fld (pack1_5_3_4_1_3_3_5_7 a0 a1 a2 a3 a4 a5 a6 a7 a8) 7 5 = a7 := by
  apply fld_eq; rw [pack1_5_3_4_1_3_3_5_7_toNat]; omega

@[simp] theorem pack1_5_3_4_1_3_3_5_7_at0 (a0 : BitVec 1) (a1 : BitVec 5) (a2 : BitVec 3) (a3 : BitVec 4) (a4 : BitVec 1) (a5 : BitVec 3) (a6 : BitVec 3) (a7 : BitVec 5) (a8 : BitVec 7) :
    fld (pack1_5_3_4_1_3_3_5_7 a0 a1 a2 a3 a4 a5 a6 a7 a8) 0 7 = a8 := by
  apply fld_eq; rw [pack1_5_3_4_1_3_3_5_7_toNat]; omega

theorem pack1_5_3_4_4_3_1_1_3_7_toNat (a0 : BitVec 1) (a1 : BitVec 5) (a2 : BitVec 3) (a3 : BitVec 4) (a4 : BitVec 4) (a5 : BitVec 3) (a6 : BitVec 1) (a7 : BitVec 1) (a8 : BitVec 3) (a9 : BitVec 7) :
    (pack1_5_3_4_4_3_1_1_3_7 a0 a1 a2 a3 a4 a5 a6 a7 a8 a9).toNat =
      (((((((((a0.toNat * 2 ^ 5 + a1.toNat) * 2 ^ 3 + a2.toNat) * 2 ^ 4 + a3.toNat) * 2 ^ 4 + a4.toNat) * 2 ^ 3 + a5.toNat) * 2 ^ 1 + a6.toNat) * 2 ^ 1 + a7.toNat) * 2 ^ 3 + a8.toNat) * 2 ^ 7 + a9.toNat) := by
  simp only [pack1_5_3_4_4_3_1_1_3_7, append_toNat]

@[simp] theorem pack1_5_3_4_4_3_1_1_3_7_at31 (a0 : BitVec 1) (a1 : BitVec 5) (a2 : BitVec 3) (a3 : BitVec 4) (a4 : BitVec 4) (a5 : BitVec 3) (a6 : BitVec 1) (a7 : BitVec 1) (a8 : BitVec 3) (a9 : BitVec 7) :
    fld (pack1_5_3_4_4_3_1_1_3_7 a0 a1 a2 a3 a4 a5 a6 a7 a8 a9) 31 1 = a0 := by
  apply fld_eq; rw [pack1_5_3_4_4_3_1_1_3_7_toNat]; omega

@[simp] theorem pack1_5_3_4_4_3_1_1_3_7_at26 (a0 : BitVec 1) (a1 : BitVec 5) (a2 : BitVec 3) (a3 : BitVec 4) (a4 : BitVec 4) (a5 : BitVec 3) (a6 : BitVec 1) (a7 : BitVec 1) (a8 : BitVec 3) (a9 : BitVec 7) :
    fld (pack1_5_3_4_4_3_1_1_3_7 a0 a1 a2 a3 a4 a5 a6 a7 a8 a9) 26 5 = a1 := by
  apply fld_eq; rw [pack1_5_3_4_4_3_1_1_3_7_toNat]; omega

@[simp] theorem pack1_5_3_4_4_3_1_1_3_7_at23 (a0 : BitVec 1) (a1 : BitVec 5) (a2 : BitVec 3) (a3 : BitVec 4) (a4 : BitVec 4) (a5 : BitVec 3) (a6 : BitVec 1) (a7 : BitVec 1) (a8 : BitVec 3) (a9 : BitVec 7) :
    fld (pack1_5_3_4_4_3_1_1_3_7 a0 a1 a2 a3 a4 a5 a6 a7 a8 a9) 23 3 = a2 := by
  apply fld_eq; rw [pack1_5_3_4_4_3_1_1_3_7_toNat]; omega

@[simp] theorem pack1_5_3_4_4_3_1_1_3_7_at19 (a0 : BitVec 1) (a1 : BitVec 5) (a2 : BitVec 3) (a3 : BitVec 4) (a4 : BitVec 4) (a5 : BitVec 3) (a6 : BitVec 1) (a7 : BitVec 1) (a8 : BitVec 3) (a9 : BitVec 7) :
    fld (pack1_5_3_4_4_3_1_1_3_7 a0 a1 a2 a3 a4 a5 a6 a7 a8 a9) 19 4 = a3 := by
  apply fld_eq; rw [pack1_5_3_4_4_3_1_1_3_7_toNat]; omega

@[simp] theorem pack1_5_3_4_4_3_1_1_3_7_at15 (a0 : BitVec 1) (a1 : BitVec 5) (a2 : BitVec 3) (a3 : BitVec 4) (a4 : BitVec 4) (a5 : BitVec 3) (a6 : BitVec 1) (a7 : BitVec 1) (a8 : BitVec 3) (a9 : BitVec 7) :
    fld (pack1_5_3_4_4_3_1_1_3_7 a0 a1 a2 a3 a4 a5 a6 a7 a8 a9) 15 4 = a4 := by
  apply fld_eq; rw [pack1_5_3_4_4_3_1_1_3_7_toNat]; omega

@[simp] theorem pack1_5_3_4_4_3_1_1_3_7_at12 (a0 : BitVec 1) (a1 : BitVec 5) (a2 : BitVec 3) (a3 : BitVec 4) (a4 : BitVec 4) (a5 : BitVec 3) (a6 : BitVec 1) (a7 : BitVec 1) (a8 : BitVec 3) (a9 : BitVec 7) :
    fld (pack1_5_3_4_4_3_1_1_3_7 a0 a1 a2 a3 a4 a5 a6 a7 a8 a9) 12 3 = a5 := by
  apply fld_eq; rw [pack1_5_3_4_4_3_1_1_3_7_toNat]; omega

@[simp] theorem pack1_5_3_4_4_3_1_1_3_7_at11 (a0 : BitVec 1) (a1 : BitVec 5) (a2 : BitVec 3) (a3 : BitVec 4) (a4 : BitVec 4) (a5 : BitVec 3) (a6 : BitVec 1) (a7 : BitVec 1) (a8 : BitVec 3) (a9 : BitVec 7) :
    fld (pack1_5_3_4_4_3_1_1_3_7 a0 a1 a2 a3 a4 a5 a6 a7 a8 a9) 11 1 = a6 := by
  apply fld_eq; rw [pack1_5_3_4_4_3_1_1_3_7_toNat]; omega

@[simp] theorem pack1_5_3_4_4_3_1_1_3_7_at10 (a0 : BitVec 1) (a1 : BitVec 5) (a2 : BitVec 3) (a3 : BitVec 4) (a4 : BitVec 4) (a5 : BitVec 3) (a6 : BitVec 1) (a7 : BitVec 1) (a8 : BitVec 3) (a9 : BitVec 7) :
    fld (pack1_5_3_4_4_3_1_1_3_7 a0 a1 a2 a3 a4 a5 a6 a7 a8 a9) 10 1 = a7 := by
  apply fld_eq; rw [pack1_5_3_4_4_3_1_1_3_7_toNat]; omega

@[simp] theorem pack1_5_3_4_4_3_1_1_3_7_at7 (a0 : BitVec 1) (a1 : BitVec 5) (a2 : BitVec 3) (a3 : BitVec 4) (a4 : BitVec 4) (a5 : BitVec 3) (a6 : BitVec 1) (a7 : BitVec 1) (a8 : BitVec 3) (a9 : BitVec 7) :
    fld (pack1_5_3_4_4_3_1_1_3_7 a0 a1 a2 a3 a4 a5 a6 a7 a8 a9) 7 3 = a8 := by
  apply fld_eq; rw [pack1_5_3_4_4_3_1_1_3_7_toNat]; omega

@[simp] theorem pack1_5_3_4_4_3_1_1_3_7_at0 (a0 : BitVec 1) (a1 : BitVec 5) (a2 : BitVec 3) (a3 : BitVec 4) (a4 : BitVec 4) (a5 : BitVec 3) (a6 : BitVec 1) (a7 : BitVec 1) (a8 : BitVec 3) (a9 : BitVec 7) :
    fld (pack1_5_3_4_4_3_1_1_3_7 a0 a1 a2 a3 a4 a5 a6 a7 a8 a9) 0 7 = a9 := by
  apply fld_eq; rw [pack1_5_3_4_4_3_1_1_3_7_toNat]; omega

theorem pack1_5_3_4_4_3_1_4_7_toNat (a0 : BitVec 1) (a1 : BitVec 5) (a2 : BitVec 3) (a3 : BitVec 4) (a4 : BitVec 4) (a5 : BitVec 3) (a6 : BitVec 1) (a7 : BitVec 4) (a8 : BitVec 7) :
    (pack1_5_3_4_4_3_1_4_7 a0 a1 a2 a3 a4 a5 a6 a7 a8).toNat =
      ((((((((a0.toNat * 2 ^ 5 + a1.toNat) * 2 ^ 3 + a2.toNat) * 2 ^ 4 + a3.toNat) * 2 ^ 4 + a4.toNat) * 2 ^ 3 + a5.toNat) * 2 ^ 1 + a6.toNat) * 2 ^ 4 + a7.toNat) * 2 ^ 7 + a8.toNat) := by
  simp only [pack1_5_3_4_4_3_1_4_7, append_toNat]

@[simp] theorem pack1_5_3_4_4_3_1_4_7_at31 (a0 : BitVec 1) (a1 : BitVec 5) (a2 : BitVec 3) (a3 : BitVec 4) (a4 : BitVec 4) (a5 : BitVec 3) (a6 : BitVec 1) (a7 : BitVec 4) (a8 : BitVec 7) :
    fld (pack1_5_3_4_4_3_1_4_7 a0 a1 a2 a3 a4 a5 a6 a7 a8) 31 1 = a0 := by
  apply fld_eq; rw [pack1_5_3_4_4_3_1_4_7_toNat]; omega

@[simp] theorem pack1_5_3_4_4_3_1_4_7_at26 (a0 : BitVec 1) (a1 : BitVec 5) (a2 : BitVec 3) (a3 : BitVec 4) (a4 : BitVec 4) (a5 : BitVec 3) (a6 : BitVec 1) (a7 : BitVec 4) (a8 : BitVec 7) :
    fld (pack1_5_3_4_4_3_1_4_7 a0 a1 a2 a3 a4 a5 a6 a7 a8) 26 5 = a1 := by
  apply fld_eq; rw [pack1_5_3_4_4_3_1_4_7_toNat]; omega

@[simp] theorem pack1_5_3_4_4_3_1_4_7_at23 (a0 : BitVec 1) (a1 : BitVec 5) (a2 : BitVec 3) (a3 : BitVec 4) (a4 : BitVec 4) (a5 : BitVec 3) (a6 : BitVec 1) (a7 : BitVec 4) (a8 : BitVec 7) :
    fld (pack1_5_3_4_4_3_1_4_7 a0 a1 a2 a3 a4 a5 a6 a7 a8) 23 3 = a2 := by
  apply fld_eq; rw [pack1_5_3_4_4_3_1_4_7_toNat]; omega

@[simp] theorem pack1_5_3_4_4_3_1_4_7_at19 (a0 : BitVec 1) (a1 : BitVec 5) (a2 : BitVec 3) (a3 : BitVec 4) (a4 : BitVec 4) (a5 : BitVec 3) (a6 : BitVec 1) (a7 : BitVec 4) (a8 : BitVec 7) :
    fld (pack1_5_3_4_4_3_1_4_7 a0 a1 a2 a3 a4 a5 a6 a7 a8) 19 4 = a3 := by
  apply fld_eq; rw [pack1_5_3_4_4_3_1_4_7_toNat]; omega

@[simp] theorem pack1_5_3_4_4_3_1_4_7_at15 (a0 : BitVec 1) (a1 : BitVec 5) (a2 : BitVec 3) (a3 : BitVec 4) (a4 : BitVec 4) (a5 : BitVec 3) (a6 : BitVec 1) (a7 : BitVec 4) (a8 : BitVec 7) :
    fld (pack1_5_3_4_4_3_1_4_7 a0 a1 a2 a3 a4 a5 a6 a7 a8) 15 4 = a4 := by
  apply fld_eq; rw [pack1_5_3_4_4_3_1_4_7_toNat]; omega

@[simp] theorem pack1_5_3_4_4_3_1_4_7_at12 (a0 : BitVec 1) (a1 : BitVec 5) (a2 : BitVec 3) (a3 : BitVec 4) (a4 : BitVec 4) (a5 : BitVec 3) (a6 : BitVec 1) (a7 : BitVec 4) (a8 : BitVec 7) :
    fld (pack1_5_3_4_4_3_1_4_7 a0 a1 a2 a3 a4 a5 a6 a7 a8) 12 3 = a5 := by
  apply fld_eq; rw [pack1_5_3_4_4_3_1_4_7_toNat]; omega

@[simp] theorem pack1_5_3_4_4_3_1_4_7_at11 (a0 : BitVec 1) (a1 : BitVec 5) (a2 : BitVec 3) (a3 : BitVec 4) (a4 : BitVec 4) (a5 : BitVec 3) (a6 : BitVec 1) (a7 : BitVec 4) (a8 : BitVec 7) :
    fld (pack1_5_3_4_4_3_1_4_7 a0 a1 a2 a3 a4 a5 a6 a7 a8) 11 1 = a6 := by
  apply fld_eq; rw [pack1_5_3_4_4_3_1_4_7_toNat]; omega

@[simp] theorem pack1_5_3_4_4_3_1_4_7_at7 (a0 : BitVec 1) (a1 : BitVec 5) (a2 : BitVec 3) (a3 : BitVec 4) (a4 : BitVec 4) (a5 : BitVec 3) (a6 : BitVec 1) (a7 : BitVec 4) (a8 : BitVec 7) :
    fld (pack1_5_3_4_4_3_1_4_7 a0 a1 a2 a3 a4 a5 a6 a7 a8) 7 4 = a7 := by
  apply fld_eq; rw [pack1_5_3_4_4_3_1_4_7_toNat]; omega

@[simp] theorem pack1_5_3_4_4_3_1_4_7_at0 (a0 : BitVec 1) (a1 : BitVec 5) (a2 : BitVec 3) (a3 : BitVec 4) (a4 : BitVec 4) (a5 : BitVec 3) (a6 : BitVec 1) (a7 : BitVec 4) (a8 : BitVec 7) :
    fld (pack1_5_3_4_4_3_1_4_7 a0 a1 a2 a3 a4 a5 a6 a7 a8) 0 7 = a8 := by
  apply fld_eq; rw [pack1_5_3_4_4_3_1_4_7_toNat]; omega

theorem pack1_5_3_4_4_3_5_7_toNat (a0 : BitVec 1) (a1 : BitVec 5) (a2 : BitVec 3) (a3 : BitVec 4) (a4 : BitVec 4) (a5 : BitVec 3) (a6 : BitVec 5) (a7 : BitVec 7) :
    (pack1_5_3_4_4_3_5_7 a0 a1 a2 a3 a4 a5 a6 a7).toNat =
      (((((((a0.toNat * 2 ^ 5 + a1.toNat) * 2 ^ 3 + a2.toNat) * 2 ^ 4 + a3.toNat) * 2 ^ 4 + a4.toNat) * 2 ^ 3 + a5.toNat) * 2 ^ 5 + a6.toNat) * 2 ^ 7 + a7.toNat) := by
  simp only [pack1_5_3_4_4_3_5_7, append_toNat]

@[simp] theorem pack1_5_3_4_4_3_5_7_at31 (a0 : BitVec 1) (a1 : BitVec 5) (a2 : BitVec 3) (a3 : BitVec 4) (a4 : BitVec 4) (a5 : BitVec 3) (a6 : BitVec 5) (a7 : BitVec 7) :
    fld (pack1_5_3_4_4_3_5_7 a0 a1 a2 a3 a4 a5 a6 a7) 31 1 = a0 := by
  apply fld_eq; rw [pack1_5_3_4_4_3_5_7_toNat]; omega

@[simp] theorem pack1_5_3_4_4_3_5_7_at26 (a0 : BitVec 1) (a1 : BitVec 5) (a2 : BitVec 3) (a3 : BitVec 4) (a4 : BitVec 4) (a5 : BitVec 3) (a6 : BitVec 5) (a7 : BitVec 7) :
    fld (pack1_5_3_4_4_3_5_7 a0 a1 a2 a3 a4 a5 a6 a7) 26 5 = a1 := by
  apply fld_eq; rw [pack1_5_3_4_4_3_5_7_toNat]; omega

@[simp] theorem pack1_5_3_4_4_3_5_7_at23 (a0 : BitVec 1) (a1 : BitVec 5) (a2 : BitVec 3) (a3 : BitVec 4) (a4 : BitVec 4) (a5 : BitVec 3) (a6 : BitVec 5) (a7 : BitVec 7) :
    fld (pack1_5_3_4_4_3_5_7 a0 a1 a2 a3 a4 a5 a6 a7) 23 3 = a2 := by
  apply fld_eq; rw [pack1_5_3_4_4_3_5_7_toNat]; omega

@[simp] theorem pack1_5_3_4_4_3_5_7_at19 (a0 : BitVec 1) (a1 : BitVec 5) (a2 : BitVec 3) (a3 : BitVec 4) (a4 : BitVec 4) (a5 : BitVec 3) (a6 : BitVec 5) (a7 : BitVec 7) :
    fld (pack1_5_3_4_4_3_5_7 a0 a1 a2 a3 a4 a5 a6 a7) 19 4 = a3 := by
  apply fld_eq; rw [pack1_5_3_4_4_3_5_7_toNat]; omega

@[simp] theorem pack1_5_3_4_4_3_5_7_at15 (a0 : BitVec 1) (a1 : BitVec 5) (a2 : BitVec 3) (a3 : BitVec 4) (a4 : BitVec 4) (a5 : BitVec 3) (a6 : BitVec 5) (a7 : BitVec 7) :
    fld (pack1_5_3_4_4_3_5_7 a0 a1 a2 a3 a4 a5 a6 a7) 15 4 = a4 := by
  apply fld_eq; rw [pack1_5_3_4_4_3_5_7_toNat]; omega

@[simp] theorem pack1_5_3_4_4_3_5_7_at12 (a0 : BitVec 1) (a1 : BitVec 5) (a2 : BitVec 3) (a3 : BitVec 4) (a4 : BitVec 4) (a5 : BitVec 3) (a6 : BitVec 5) (a7 : BitVec 7) :
    fld (pack1_5_3_4_4_3_5_7 a0 a1 a2 a3 a4 a5 a6 a7) 12 3 = a5 := by
  apply fld_eq; rw [pack1_5_3_4_4_3_5_7_toNat]; omega

@[simp] theorem pack1_5_3_4_4_3_5_7_at7 (a0 : BitVec 1) (a1 : BitVec 5) (a2 : BitVec 3) (a3 : BitVec 4) (a4 : BitVec 4) (a5 : BitVec 3) (a6 : BitVec 5) (a7 : BitVec 7) :
    fld (pack1_5_3_4_4_3_5_7 a0 a1 a2 a3 a4 a5 a6 a7) 7 5 = a6 := by
  apply fld_eq; rw [pack1_5_3_4_4_3_5_7_toNat]; omega

@[simp] theorem pack1_5_3_4_4_3_5_7_at0 (a0 : BitVec 1) (a1 : BitVec 5) (a2 : BitVec 3) (a3 : BitVec 4) (a4 : BitVec 4) (a5 : BitVec 3) (a6 : BitVec 5) (a7 : BitVec 7) :
    fld (pack1_5_3_4_4_3_5_7 a0 a1 a2 a3 a4 a5 a6 a7) 0 7 = a7 := by
  apply fld_eq; rw [pack1_5_3_4_4_3_5_7_toNat]; omega

theorem pack1_6_5_5_3_4_1_7_toNat (a0 : BitVec 1) (a1 : BitVec 6) (a2 : BitVec 5) (a3 : BitVec 5) (a4 : BitVec 3) (a5 : BitVec 4) (a6 : BitVec 1) (a7 : BitVec 7) :
    (pack1_6_5_5_3_4_1_7 a0 a1 a2 a3 a4 a5 a6 a7).toNat =
      (((((((a0.toNat * 2 ^ 6 + a1.toNat) * 2 ^ 5 + a2.toNat) * 2 ^ 5 + a3.toNat) * 2 ^ 3 + a4.toNat) * 2 ^ 4 + a5.toNat) * 2 ^ 1 + a6.toNat) * 2 ^ 7 + a7.toNat) := by
  simp only [pack1_6_5_5_3_4_1_7, append_toNat]

@[simp] theorem pack1_6_5_5_3_4_1_7_at31 (a0 : BitVec 1) (a1 : BitVec 6) (a2 : BitVec 5) (a3 : BitVec 5) (a4 : BitVec 3) (a5 : BitVec 4) (a6 : BitVec 1) (a7 : BitVec 7) :
    fld (pack1_6_5_5_3_4_1_7 a0 a1 a2 a3 a4 a5 a6 a7) 31 1 = a0 := by
  apply fld_eq; rw [pack1_6_5_5_3_4_1_7_toNat]; omega

@[simp] theorem pack1_6_5_5_3_4_1_7_at25 (a0 : BitVec 1) (a1 : BitVec 6) (a2 : BitVec 5) (a3 : BitVec 5) (a4 : BitVec 3) (a5 : BitVec 4) (a6 : BitVec 1) (a7 : BitVec 7) :
    fld (pack1_6_5_5_3_4_1_7 a0 a1 a2 a3 a4 a5 a6 a7) 25 6 = a1 := by
  apply fld_eq; rw [pack1_6_5_5_3_4_1_7_toNat]; omega

@[simp] theorem pack1_6_5_5_3_4_1_7_at20 (a0 : BitVec 1) (a1 : BitVec 6) (a2 : BitVec 5) (a3 : BitVec 5) (a4 : BitVec 3) (a5 : BitVec 4) (a6 : BitVec 1) (a7 : BitVec 7) :
    fld (pack1_6_5_5_3_4_1_7 a0 a1 a2 a3 a4 a5 a6 a7) 20 5 = a2 := by
  apply fld_eq; rw [pack1_6_5_5_3_4_1_7_toNat]; omega

@[simp] theorem pack1_6_5_5_3_4_1_7_at15 (a0 : BitVec 1) (a1 : BitVec 6) (a2 : BitVec 5) (a3 : BitVec 5) (a4 : BitVec 3) (a5 : BitVec 4) (a6 : BitVec 1) (a7 : BitVec 7) :
    fld (pack1_6_5_5_3_4_1_7 a0 a1 a2 a3 a4 a5 a6 a7) 15 5 = a3 := by
  apply fld_eq; rw [pack1_6_5_5_3_4_1_7_toNat]; omega

@[simp] theorem pack1_6_5_5_3_4_1_7_at12 (a0 : BitVec 1) (a1 : BitVec 6) (a2 : BitVec 5) (a3 : BitVec 5) (a4 : BitVec 3) (a5 : BitVec 4) (a6 : BitVec 1) (a7 : BitVec 7) :
    fld (pack1_6_5_5_3_4_1_7 a0 a1 a2 a3 a4 a5 a6 a7) 12 3 = a4 := by
  apply fld_eq; rw [pack1_6_5_5_3_4_1_7_toNat]; omega

@[simp] theorem pack1_6_5_5_3_4_1_7_at8 (a0 : BitVec 1) (a1 : BitVec 6) (a2 : BitVec 5) (a3 : BitVec 5) (a4 : BitVec 3) (a5 : BitVec 4) (a6 : BitVec 1) (a7 : BitVec 7) :
    fld (pack1_6_5_5_3_4_1_7 a0 a1 a2 a3 a4 a5 a6 a7) 8 4 = a5 := by
  apply fld_eq; rw [pack1_6_5_5_3_4_1_7_toNat]; omega

@[simp] theorem pack1_6_5_5_3_4_1_7_at7 (a0 : BitVec 1) (a1 : BitVec 6) (a2 : BitVec 5) (a3 : BitVec 5) (a4 : BitVec 3) (a5 : BitVec 4) (a6 : BitVec 1) (a7 : BitVec 7) :
    fld (pack1_6_5_5_3_4_1_7 a0 a1 a2 a3 a4 a5 a6 a7) 7 1 = a6 := by
  apply fld_eq; rw [pack1_6_5_5_3_4_1_7_toNat]; omega

@[simp] theorem pack1_6_5_5_3_4_1_7_at0 (a0 : BitVec 1) (a1 : BitVec 6) (a2 : BitVec 5) (a3 : BitVec 5) (a4 : BitVec 3) (a5 : BitVec 4) (a6 : BitVec 1) (a7 : BitVec 7) :
    fld (pack1_6_5_5_3_4_1_7 a0 a1 a2 a3 a4 a5 a6 a7) 0 7 = a7 := by
  apply fld_eq; rw [pack1_6_5_5_3_4_1_7_toNat]; omega

theorem pack20_5_7_toNat (a0 : BitVec 20) (a1 : BitVec 5) (a2 : BitVec 7) :
    (pack20_5_7 a0 a1 a2).toNat =
      ((a0.toNat * 2 ^ 5 + a1.toNat) * 2 ^ 7 + a2.toNat) := by
  simp only [pack20_5_7, append_toNat]

@[simp] theorem pack20_5_7_at12 (a0 : BitVec 20) (a1 : BitVec 5) (a2 : BitVec 7) :
    fld (pack20_5_7 a0 a1 a2) 12 20 = a0 := by
  apply fld_eq; rw [pack20_5_7_toNat]; omega

@[simp] theorem pack20_5_7_at7 (a0 : BitVec 20) (a1 : BitVec 5) (a2 : BitVec 7) :
    fld (pack20_5_7 a0 a1 a2) 7 5 = a1 := by
  apply fld_eq; rw [pack20_5_7_toNat]; omega

@[simp] theorem pack20_5_7_at0 (a0 : BitVec 20) (a1 : BitVec 5) (a2 : BitVec 7) :
    fld (pack20_5_7 a0 a1 a2) 0 7 = a2 := by
  apply fld_eq; rw [pack20_5_7_toNat]; omega

theorem pack2_2_3_1_4_5_3_1_4_7_toNat (a0 : BitVec 2) (a1 : BitVec 2) (a2 : BitVec 3) (a3 : BitVec 1) (a4 : BitVec 4) (a5 : BitVec 5) (a6 : BitVec 3) (a7 : BitVec 1) (a8 : BitVec 4) (a9 : BitVec 7) :
    (pack2_2_3_1_4_5_3_1_4_7 a0 a1 a2 a3 a4 a5 a6 a7 a8 a9).toNat =
      (((((((((a0.toNat * 2 ^ 2 + a1.toNat) * 2 ^ 3 + a2.toNat) * 2 ^ 1 + a3.toNat) * 2 ^ 4 + a4.toNat) * 2 ^ 5 + a5.toNat) * 2 ^ 3 + a6.toNat) * 2 ^ 1 + a7.toNat) * 2 ^ 4 + a8.toNat) * 2 ^ 7 + a9.toNat) := by
  simp only [pack2_2_3_1_4_5_3_1_4_7, append_toNat]

@[simp] theorem pack2_2_3_1_4_5_3_1_4_7_at30 (a0 : BitVec 2) (a1 : BitVec 2) (a2 : BitVec 3) (a3 : BitVec 1) (a4 : BitVec 4) (a5 : BitVec 5) (a6 : BitVec 3) (a7 : BitVec 1) (a8 : BitVec 4) (a9 : BitVec 7) :
    fld (pack2_2_3_1_4_5_3_1_4_7 a0 a1 a2 a3 a4 a5 a6 a7 a8 a9) 30 2 = a0 := by
  apply fld_eq; rw [pack2_2_3_1_4_5_3_1_4_7_toNat]; omega

@[simp] theorem pack2_2_3_1_4_5_3_1_4_7_at28 (a0 : BitVec 2) (a1 : BitVec 2) (a2 : BitVec 3) (a3 : BitVec 1) (a4 : BitVec 4) (a5 : BitVec 5) (a6 : BitVec 3) (a7 : BitVec 1) (a8 : BitVec 4) (a9 : BitVec 7) :
    fld (pack2_2_3_1_4_5_3_1_4_7 a0 a1 a2 a3 a4 a5 a6 a7 a8 a9) 28 2 = a1 := by
  apply fld_eq; rw [pack2_2_3_1_4_5_3_1_4_7_toNat]; omega

@[simp] theorem pack2_2_3_1_4_5_3_1_4_7_at25 (a0 : BitVec 2) (a1 : BitVec 2) (a2 : BitVec 3) (a3 : BitVec 1) (a4 : BitVec 4) (a5 : BitVec 5) (a6 : BitVec 3) (a7 : BitVec 1) (a8 : BitVec 4) (a9 : BitVec 7) :
    fld (pack2_2_3_1_4_5_3_1_4_7 a0 a1 a2 a3 a4 a5 a6 a7 a8 a9) 25 3 = a2 := by
  apply fld_eq; rw [pack2_2_3_1_4_5_3_1_4_7_toNat]; omega

@[simp] theorem pack2_2_3_1_4_5_3_1_4_7_at24 (a0 : BitVec 2) (a1 : BitVec 2) (a2 : BitVec 3) (a3 : BitVec 1) (a4 : BitVec 4) (a5 : BitVec 5) (a6 : BitVec 3) (a7 : BitVec 1) (a8 : BitVec 4) (a9 : BitVec 7) :
    fld (pack2_2_3_1_4_5_3_1_4_7 a0 a1 a2 a3 a4 a5 a6 a7 a8 a9) 24 1 = a3 := by
  apply fld_eq; rw [pack2_2_3_1_4_5_3_1_4_7_toNat]; omega

@[simp] theorem pack2_2_3_1_4_5_3_1_4_7_at20 (a0 : BitVec 2) (a1 : BitVec 2) (a2 : BitVec 3) (a3 : BitVec 1) (a4 : BitVec 4) (a5 : BitVec 5) (a6 : BitVec 3) (a7 : BitVec 1) (a8 : BitVec 4) (a9 : BitVec 7) :
    fld (pack2_2_3_1_4_5_3_1_4_7 a0 a1 a2 a3 a4 a5 a6 a7 a8 a9) 20 4 = a4 := by
  apply fld_eq; rw [pack2_2_3_1_4_5_3_1_4_7_toNat]; omega

@[simp] theorem pack2_2_3_1_4_5_3_1_4_7_at15 (a0 : BitVec 2) (a1 : BitVec 2) (a2 : BitVec 3) (a3 : BitVec 1) (a4 : BitVec 4) (a5 : BitVec 5) (a6 : BitVec 3) (a7 : BitVec 1) (a8 : BitVec 4) (a9 : BitVec 7) :
    fld (pack2_2_3_1_4_5_3_1_4_7 a0 a1 a2 a3 a4 a5 a6 a7 a8 a9) 15 5 = a5 := by
  apply fld_eq; rw [pack2_2_3_1_4_5_3_1_4_7_toNat]; omega

@[simp] theorem pack2_2_3_1_4_5_3_1_4_7_at12 (a0 : BitVec 2) (a1 : BitVec 2) (a2 : BitVec 3) (a3 : BitVec 1) (a4 : BitVec 4) (a5 : BitVec 5) (a6 : BitVec 3) (a7 : BitVec 1) (a8 : BitVec 4) (a9 : BitVec 7) :
    fld (pack2_2_3_1_4_5_3_1_4_7 a0 a1 a2 a3 a4 a5 a6 a7 a8 a9) 12 3 = a6 := by
  apply fld_eq; rw [pack2_2_3_1_4_5_3_1_4_7_toNat]; omega

@[simp] theorem pack2_2_3_1_4_5_3_1_4_7_at11 (a0 : BitVec 2) (a1 : BitVec 2) (a2 : BitVec 3) (a3 : BitVec 1) (a4 : BitVec 4) (a5 : BitVec 5) (a6 : BitVec 3) (a7 : BitVec 1) (a8 : BitVec 4) (a9 : BitVec 7) :
    fld (pack2_2_3_1_4_5_3_1_4_7 a0 a1 a2 a3 a4 a5 a6 a7 a8 a9) 11 1 = a7 := by
  apply fld_eq; rw [pack2_2_3_1_4_5_3_1_4_7_toNat]; omega

@[simp] theorem pack2_2_3_1_4_5_3_1_4_7_at7 (a0 : BitVec 2) (a1 : BitVec 2) (a2 : BitVec 3) (a3 : BitVec 1) (a4 : BitVec 4) (a5 : BitVec 5) (a6 : BitVec 3) (a7 : BitVec 1) (a8 : BitVec 4) (a9 : BitVec 7) :
    fld (pack2_2_3_1_4_5_3_1_4_7 a0 a1 a2 a3 a4 a5 a6 a7 a8 a9) 7 4 = a8 := by
  apply fld_eq; rw [pack2_2_3_1_4_5_3_1_4_7_toNat]; omega

@[simp] theorem pack2_2_3_1_4_5_3_1_4_7_at0 (a0 : BitVec 2) (a1 : BitVec 2) (a2 : BitVec 3) (a3 : BitVec 1) (a4 : BitVec 4) (a5 : BitVec 5) (a6 : BitVec 3) (a7 : BitVec 1) (a8 : BitVec 4) (a9 : BitVec 7) :
    fld (pack2_2_3_1_4_5_3_1_4_7 a0 a1 a2 a3 a4 a5 a6 a7 a8 a9) 0 7 = a9 := by
  apply fld_eq; rw [pack2_2_3_1_4_5_3_1_4_7_toNat]; omega

theorem pack2_2_3_5_5_3_1_4_7_toNat (a0 : BitVec 2) (a1 : BitVec 2) (a2 : BitVec 3) (a3 : BitVec 5) (a4 : BitVec 5) (a5 : BitVec 3) (a6 : BitVec 1) (a7 : BitVec 4) (a8 : BitVec 7) :
    (pack2_2_3_5_5_3_1_4_7 a0 a1 a2 a3 a4 a5 a6 a7 a8).toNat =
      ((((((((a0.toNat * 2 ^ 2 + a1.toNat) * 2 ^ 3 + a2.toNat) * 2 ^ 5 + a3.toNat) * 2 ^ 5 + a4.toNat) * 2 ^ 3 + a5.toNat) * 2 ^ 1 + a6.toNat) * 2 ^ 4 + a7.toNat) * 2 ^ 7 + a8.toNat) := by
  simp only [pack2_2_3_5_5_3_1_4_7, append_toNat]

@[simp] theorem pack2_2_3_5_5_3_1_4_7_at30 (a0 : BitVec 2) (a1 : BitVec 2) (a2 : BitVec 3) (a3 : BitVec 5) (a4 : BitVec 5) (a5 : BitVec 3) (a6 : BitVec 1) (a7 : BitVec 4) (a8 : BitVec 7) :
    fld (pack2_2_3_5_5_3_1_4_7 a0 a1 a2 a3 a4 a5 a6 a7 a8) 30 2 = a0 := by
  apply fld_eq; rw [pack2_2_3_5_5_3_1_4_7_toNat]; omega

@[simp] theorem pack2_2_3_5_5_3_1_4_7_at28 (a0 : BitVec 2) (a1 : BitVec 2) (a2 : BitVec 3) (a3 : BitVec 5) (a4 : BitVec 5) (a5 : BitVec 3) (a6 : BitVec 1) (a7 : BitVec 4) (a8 : BitVec 7) :
    fld (pack2_2_3_5_5_3_1_4_7 a0 a1 a2 a3 a4 a5 a6 a7 a8) 28 2 = a1 := by
  apply fld_eq; rw [pack2_2_3_5_5_3_1_4_7_toNat]; omega

@[simp] theorem pack2_2_3_5_5_3_1_4_7_at25 (a0 : BitVec 2) (a1 : BitVec 2) (a2 : BitVec 3) (a3 : BitVec 5) (a4 : BitVec 5) (a5 : BitVec 3) (a6 : BitVec 1) (a7 : BitVec 4) (a8 : BitVec 7) :
    fld (pack2_2_3_5_5_3_1_4_7 a0 a1 a2 a3 a4 a5 a6 a7 a8) 25 3 = a2 := by
  apply fld_eq; rw [pack2_2_3_5_5_3_1_4_7_toNat]; omega

@[simp] theorem pack2_2_3_5_5_3_1_4_7_at20 (a0 : BitVec 2) (a1 : BitVec 2) (a2 : BitVec 3) (a3 : BitVec 5) (a4 : BitVec 5) (a5 : BitVec 3) (a6 : BitVec 1) (a7 : BitVec 4) (a8 : BitVec 7) :
    fld (pack2_2_3_5_5_3_1_4_7 a0 a1 a2 a3 a4 a5 a6 a7 a8) 20 5 = a3 := by
  apply fld_eq; rw [pack2_2_3_5_5_3_1_4_7_toNat]; omega

@[simp] theorem pack2_2_3_5_5_3_1_4_7_at15 (a0 : BitVec 2) (a1 : BitVec 2) (a2 : BitVec 3) (a3 : BitVec 5) (a4 : BitVec 5) (a5 : BitVec 3) (a6 : BitVec 1) (a7 : BitVec 4) (a8 : BitVec 7) :
    fld (pack2_2_3_5_5_3_1_4_7 a0 a1 a2 a3 a4 a5 a6 a7 a8) 15 5 = a4 := by
  apply fld_eq; rw [pack2_2_3_5_5_3_1_4_7_toNat]; omega

@[simp] theorem pack2_2_3_5_5_3_1_4_7_at12 (a0 : BitVec 2) (a1 : BitVec 2) (a2 : BitVec 3) (a3 : BitVec 5) (a4 : BitVec 5) (a5 : BitVec 3) (a6 : BitVec 1) (a7 : BitVec 4) (a8 : BitVec 7) :
    fld (pack2_2_3_5_5_3_1_4_7 a0 a1 a2 a3 a4 a5 a6 a7 a8) 12 3 = a5 := by
  apply fld_eq; rw [pack2_2_3_5_5_3_1_4_7_toNat]; omega

@[simp] theorem pack2_2_3_5_5_3_1_4_7_at11 (a0 : BitVec 2) (a1 : BitVec 2) (a2 : BitVec 3) (a3 : BitVec 5) (a4 : BitVec 5) (a5 : BitVec 3) (a6 : BitVec 1) (a7 : BitVec 4) (a8 : BitVec 7) :
    fld (pack2_2_3_5_5_3_1_4_7 a0 a1 a2 a3 a4 a5 a6 a7 a8) 11 1 = a6 := by
  apply fld_eq; rw [pack2_2_3_5_5_3_1_4_7_toNat]; omega

@[simp] theorem pack2_2_3_5_5_3_1_4_7_at7 (a0 : BitVec 2) (a1 : BitVec 2) (a2 : BitVec 3) (a3 : BitVec 5) (a4 : BitVec 5) (a5 : BitVec 3) (a6 : BitVec 1) (a7 : BitVec 4) (a8 : BitVec 7) :
    fld (pack2_2_3_5_5_3_1_4_7 a0 a1 a2 a3 a4 a5 a6 a7 a8) 7 4 = a7 := by
  apply fld_eq; rw [pack2_2_3_5_5_3_1_4_7_toNat]; omega

@[simp] theorem pack2_2_3_5_5_3_1_4_7_at0 (a0 : BitVec 2) (a1 : BitVec 2) (a2 : BitVec 3) (a3 : BitVec 5) (a4 : BitVec 5) (a5 : BitVec 3) (a6 : BitVec 1) (a7 : BitVec 4) (a8 : BitVec 7) :
    fld (pack2_2_3_5_5_3_1_4_7 a0 a1 a2 a3 a4 a5 a6 a7 a8) 0 7 = a8 := by
  apply fld_eq; rw [pack2_2_3_5_5_3_1_4_7_toNat]; omega

theorem pack2_3_2_5_5_3_5_7_toNat (a0 : BitVec 2) (a1 : BitVec 3) (a2 : BitVec 2) (a3 : BitVec 5) (a4 : BitVec 5) (a5 : BitVec 3) (a6 : BitVec 5) (a7 : BitVec 7) :
    (pack2_3_2_5_5_3_5_7 a0 a1 a2 a3 a4 a5 a6 a7).toNat =
      (((((((a0.toNat * 2 ^ 3 + a1.toNat) * 2 ^ 2 + a2.toNat) * 2 ^ 5 + a3.toNat) * 2 ^ 5 + a4.toNat) * 2 ^ 3 + a5.toNat) * 2 ^ 5 + a6.toNat) * 2 ^ 7 + a7.toNat) := by
  simp only [pack2_3_2_5_5_3_5_7, append_toNat]

@[simp] theorem pack2_3_2_5_5_3_5_7_at30 (a0 : BitVec 2) (a1 : BitVec 3) (a2 : BitVec 2) (a3 : BitVec 5) (a4 : BitVec 5) (a5 : BitVec 3) (a6 : BitVec 5) (a7 : BitVec 7) :
    fld (pack2_3_2_5_5_3_5_7 a0 a1 a2 a3 a4 a5 a6 a7) 30 2 = a0 := by
  apply fld_eq; rw [pack2_3_2_5_5_3_5_7_toNat]; omega

@[simp] theorem pack2_3_2_5_5_3_5_7_at27 (a0 : BitVec 2) (a1 : BitVec 3) (a2 : BitVec 2) (a3 : BitVec 5) (a4 : BitVec 5) (a5 : BitVec 3) (a6 : BitVec 5) (a7 : BitVec 7) :
    fld (pack2_3_2_5_5_3_5_7 a0 a1 a2 a3 a4 a5 a6 a7) 27 3 = a1 := by
  apply fld_eq; rw [pack2_3_2_5_5_3_5_7_toNat]; omega

@[simp] theorem pack2_3_2_5_5_3_5_7_at25 (a0 : BitVec 2) (a1 : BitVec 3) (a2 : BitVec 2) (a3 : BitVec 5) (a4 : BitVec 5) (a5 : BitVec 3) (a6 : BitVec 5) (a7 : BitVec 7) :
    fld (pack2_3_2_5_5_3_5_7 a0 a1 a2 a3 a4 a5 a6 a7) 25 2 = a2 := by
  apply fld_eq; rw [pack2_3_2_5_5_3_5_7_toNat]; omega

@[simp] theorem pack2_3_2_5_5_3_5_7_at20 (a0 : BitVec 2) (a1 : BitVec 3) (a2 : BitVec 2) (a3 : BitVec 5) (a4 : BitVec 5) (a5 : BitVec 3) (a6 : BitVec 5) (a7 : BitVec 7) :
    fld (pack2_3_2_5_5_3_5_7 a0 a1 a2 a3 a4 a5 a6 a7) 20 5 = a3 := by
  apply fld_eq; rw [pack2_3_2_5_5_3_5_7_toNat]; omega

@[simp] theorem pack2_3_2_5_5_3_5_7_at15 (a0 : BitVec 2) (a1 : BitVec 3) (a2 : BitVec 2) (a3 : BitVec 5) (a4 : BitVec 5) (a5 : BitVec 3) (a6 : BitVec 5) (a7 : BitVec 7) :
    fld (pack2_3_2_5_5_3_5_7 a0 a1 a2 a3 a4 a5 a6 a7) 15 5 = a4 := by
  apply fld_eq; rw [pack2_3_2_5_5_3_5_7_toNat]; omega

@[simp] theorem pack2_3_2_5_5_3_5_7_at12 (a0 : BitVec 2) (a1 : BitVec 3) (a2 : BitVec 2) (a3 : BitVec 5) (a4 : BitVec 5) (a5 : BitVec 3) (a6 : BitVec 5) (a7 : BitVec 7) :
    fld (pack2_3_2_5_5_3_5_7 a0 a1 a2 a3 a4 a5 a6 a7) 12 3 = a5 := by
  apply fld_eq; rw [pack2_3_2_5_5_3_5_7_toNat]; omega

@[simp] theorem pack2_3_2_5_5_3_5_7_at7 (a0 : BitVec 2) (a1 : BitVec 3) (a2 : BitVec 2) (a3 : BitVec 5) (a4 : BitVec 5) (a5 : BitVec 3) (a6 : BitVec 5) (a7 : BitVec 7) :
    fld (pack2_3_2_5_5_3_5_7 a0 a1 a2 a3 a4 a5 a6 a7) 7 5 = a6 := by
  apply fld_eq; rw [pack2_3_2_5_5_3_5_7_toNat]; omega

@[simp] theorem pack2_3_2_5_5_3_5_7_at0 (a0 : BitVec 2) (a1 : BitVec 3) (a2 : BitVec 2) (a3 : BitVec 5) (a4 : BitVec 5) (a5 : BitVec 3) (a6 : BitVec 5) (a7 : BitVec 7) :
    fld (pack2_3_2_5_5_3_5_7 a0 a1 a2 a3 a4 a5 a6 a7) 0 7 = a7 := by
  apply fld_eq; rw [pack2_3_2_5_5_3_5_7_toNat]; omega

theorem pack3_2_2_1_4_5_3_5_7_toNat (a0 : BitVec 3) (a1 : BitVec 2) (a2 : BitVec 2) (a3 : BitVec 1) (a4 : BitVec 4) (a5 : BitVec 5) (a6 : BitVec 3) (a7 : BitVec 5) (a8 : BitVec 7) :
    (pack3_2_2_1_4_5_3_5_7 a0 a1 a2 a3 a4 a5 a6 a7 a8).toNat =
      ((((((((a0.toNat * 2 ^ 2 + a1.toNat) * 2 ^ 2 + a2.toNat) * 2 ^ 1 + a3.toNat) * 2 ^ 4 + a4.toNat) * 2 ^ 5 + a5.toNat) * 2 ^ 3 + a6.toNat) * 2 ^ 5 + a7.toNat) * 2 ^ 7 + a8.toNat) := by
  simp only [pack3_2_2_1_4_5_3_5_7, append_toNat]

@[simp] theorem pack3_2_2_1_4_5_3_5_7_at29 (a0 : BitVec 3) (a1 : BitVec 2) (a2 : BitVec 2) (a3 : BitVec 1) (a4 : BitVec 4) (a5 : BitVec 5) (a6 : BitVec 3) (a7 : BitVec 5) (a8 : BitVec 7) :
    fld (pack3_2_2_1_4_5_3_5_7 a0 a1 a2 a3 a4 a5 a6 a7 a8) 29 3 = a0 := by
  apply fld_eq; rw [pack3_2_2_1_4_5_3_5_7_toNat]; omega

@[simp] theorem pack3_2_2_1_4_5_3_5_7_at27 (a0 : BitVec 3) (a1 : BitVec 2) (a2 : BitVec 2) (a3 : BitVec 1) (a4 : BitVec 4) (a5 : BitVec 5) (a6 : BitVec 3) (a7 : BitVec 5) (a8 : BitVec 7) :
    fld (pack3_2_2_1_4_5_3_5_7 a0 a1 a2 a3 a4 a5 a6 a7 a8) 27 2 = a1 := by
  apply fld_eq; rw [pack3_2_2_1_4_5_3_5_7_toNat]; omega

@[simp] theorem pack3_2_2_1_4_5_3_5_7_at25 (a0 : BitVec 3) (a1 : BitVec 2) (a2 : BitVec 2) (a3 : BitVec 1) (a4 : BitVec 4) (a5 : BitVec 5) (a6 : BitVec 3) (a7 : BitVec 5) (a8 : BitVec 7) :
    fld (pack3_2_2_1_4_5_3_5_7 a0 a1 a2 a3 a4 a5 a6 a7 a8) 25 2 = a2 := by
  apply fld_eq; rw [pack3_2_2_1_4_5_3_5_7_toNat]; omega

@[simp] theorem pack3_2_2_1_4_5_3_5_7_at24 (a0 : BitVec 3) (a1 : BitVec 2) (a2 : BitVec 2) (a3 : BitVec 1) (a4 : BitVec 4) (a5 : BitVec 5) (a6 : BitVec 3) (a7 : BitVec 5) (a8 : BitVec 7) :
    fld (pack3_2_2_1_4_5_3_5_7 a0 a1 a2 a3 a4 a5 a6 a7 a8) 24 1 = a3 := by
  apply fld_eq; rw [pack3_2_2_1_4_5_3_5_7_toNat]; omega

@[simp] theorem pack3_2_2_1_4_5_3_5_7_at20 (a0 : BitVec 3) (a1 : BitVec 2) (a2 : BitVec 2) (a3 : BitVec 1) (a4 : BitVec 4) (a5 : BitVec 5) (a6 : BitVec 3) (a7 : BitVec 5) (a8 : BitVec 7) :
    fld (pack3_2_2_1_4_5_3_5_7 a0 a1 a2 a3 a4 a5 a6 a7 a8) 20 4 = a4 := by
  apply fld_eq; rw [pack3_2_2_1_4_5_3_5_7_toNat]; omega

@[simp] theorem pack3_2_2_1_4_5_3_5_7_at15 (a0 : BitVec 3) (a1 : BitVec 2) (a2 : BitVec 2) (a3 : BitVec 1) (a4 : BitVec 4) (a5 : BitVec 5) (a6 : BitVec 3) (a7 : BitVec 5) (a8 : BitVec 7) :
    fld (pack3_2_2_1_4_5_3_5_7 a0 a1 a2 a3 a4 a5 a6 a7 a8) 15 5 = a5 := by
  apply fld_eq; rw [pack3_2_2_1_4_5_3_5_7_toNat]; omega

@[simp] theorem pack3_2_2_1_4_5_3_5_7_at12 (a0 : BitVec 3) (a1 : BitVec 2) (a2 : BitVec 2) (a3 : BitVec 1) (a4 : BitVec 4) (a5 : BitVec 5) (a6 : BitVec 3) (a7 : BitVec 5) (a8 : BitVec 7) :
    fld (pack3_2_2_1_4_5_3_5_7 a0 a1 a2 a3 a4 a5 a6 a7 a8) 12 3 = a6 := by
  apply fld_eq; rw [pack3_2_2_1_4_5_3_5_7_toNat]; omega

@[simp] theorem pack3_2_2_1_4_5_3_5_7_at7 (a0 : BitVec 3) (a1 : BitVec 2) (a2 : BitVec 2) (a3 : BitVec 1) (a4 : BitVec 4) (a5 : BitVec 5) (a6 : BitVec 3) (a7 : BitVec 5) (a8 : BitVec 7) :
    fld (pack3_2_2_1_4_5_3_5_7 a0 a1 a2 a3 a4 a5 a6 a7 a8) 7 5 = a7 := by
  apply fld_eq; rw [pack3_2_2_1_4_5_3_5_7_toNat]; omega

@[simp] theorem pack3_2_2_1_4_5_3_5_7_at0 (a0 : BitVec 3) (a1 : BitVec 2) (a2 : BitVec 2) (a3 : BitVec 1) (a4 : BitVec 4) (a5 : BitVec 5) (a6 : BitVec 3) (a7 : BitVec 5) (a8 : BitVec 7) :
    fld (pack3_2_2_1_4_5_3_5_7 a0 a1 a2 a3 a4 a5 a6 a7 a8) 0 7 = a8 := by
  apply fld_eq; rw [pack3_2_2_1_4_5_3_5_7_toNat]; omega

theorem pack3_2_2_5_5_3_5_7_toNat (a0 : BitVec 3) (a1 : BitVec 2) (a2 : BitVec 2) (a3 : BitVec 5) (a4 : BitVec 5) (a5 : BitVec 3) (a6 : BitVec 5) (a7 : BitVec 7) :
    (pack3_2_2_5_5_3_5_7 a0 a1 a2 a3 a4 a5 a6 a7).toNat =
      (((((((a0.toNat * 2 ^ 2 + a1.toNat) * 2 ^ 2 + a2.toNat) * 2 ^ 5 + a3.toNat) * 2 ^ 5 + a4.toNat) * 2 ^ 3 + a5.toNat) * 2 ^ 5 + a6.toNat) * 2 ^ 7 + a7.toNat) := by
  simp only [pack3_2_2_5_5_3_5_7, append_toNat]

@[simp] theorem pack3_2_2_5_5_3_5_7_at29 (a0 : BitVec 3) (a1 : BitVec 2) (a2 : BitVec 2) (a3 : BitVec 5) (a4 : BitVec 5) (a5 : BitVec 3) (a6 : BitVec 5) (a7 : BitVec 7) :
    fld (pack3_2_2_5_5_3_5_7 a0 a1 a2 a3 a4 a5 a6 a7) 29 3 = a0 := by
  apply fld_eq; rw [pack3_2_2_5_5_3_5_7_toNat]; omega

@[simp] theorem pack3_2_2_5_5_3_5_7_at27 (a0 : BitVec 3) (a1 : BitVec 2) (a2 : BitVec 2) (a3 : BitVec 5) (a4 : BitVec 5) (a5 : BitVec 3) (a6 : BitVec 5) (a7 : BitVec 7) :
    fld (pack3_2_2_5_5_3_5_7 a0 a1 a2 a3 a4 a5 a6 a7) 27 2 = a1 := by
  apply fld_eq; rw [pack3_2_2_5_5_3_5_7_toNat]; omega

@[simp] theorem pack3_2_2_5_5_3_5_7_at25 (a0 : BitVec 3) (a1 : BitVec 2) (a2 : BitVec 2) (a3 : BitVec 5) (a4 : BitVec 5) (a5 : BitVec 3) (a6 : BitVec 5) (a7 : BitVec 7) :
    fld (pack3_2_2_5_5_3_5_7 a0 a1 a2 a3 a4 a5 a6 a7) 25 2 = a2 := by
  apply fld_eq; rw [pack3_2_2_5_5_3_5_7_toNat]; omega

@[simp] theorem pack3_2_2_5_5_3_5_7_at20 (a0 : BitVec 3) (a1 : BitVec 2) (a2 : BitVec 2) (a3 : BitVec 5) (a4 : BitVec 5) (a5 : BitVec 3) (a6 : BitVec 5) (a7 : BitVec 7) :
    fld (pack3_2_2_5_5_3_5_7 a0 a1 a2 a3 a4 a5 a6 a7) 20 5 = a3 := by
  apply fld_eq; rw [pack3_2_2_5_5_3_5_7_toNat]; omega

@[simp] theorem pack3_2_2_5_5_3_5_7_at15 (a0 : BitVec 3) (a1 : BitVec 2) (a2 : BitVec 2) (a3 : BitVec 5) (a4 : BitVec 5) (a5 : BitVec 3) (a6 : BitVec 5) (a7 : BitVec 7) :
    fld (pack3_2_2_5_5_3_5_7 a0 a1 a2 a3 a4 a5 a6 a7) 15 5 = a4 := by
  apply fld_eq; rw [pack3_2_2_5_5_3_5_7_toNat]; omega

@[simp] theorem pack3_2_2_5_5_3_5_7_at12 (a0 : BitVec 3) (a1 : BitVec 2) (a2 : BitVec 2) (a3 : BitVec 5) (a4 : BitVec 5) (a5 : BitVec 3) (a6 : BitVec 5) (a7 : BitVec 7) :
    fld (pack3_2_2_5_5_3_5_7 a0 a1 a2 a3 a4 a5 a6 a7) 12 3 = a5 := by
  apply fld_eq; rw [pack3_2_2_5_5_3_5_7_toNat]; omega

@[simp] theorem pack3_2_2_5_5_3_5_7_at7 (a0 : BitVec 3) (a1 : BitVec 2) (a2 : BitVec 2) (a3 : BitVec 5) (a4 : BitVec 5) (a5 : BitVec 3) (a6 : BitVec 5) (a7 : BitVec 7) :
    fld (pack3_2_2_5_5_3_5_7 a0 a1 a2 a3 a4 a5 a6 a7) 7 5 = a6 := by
  apply fld_eq; rw [pack3_2_2_5_5_3_5_7_toNat]; omega

@[simp] theorem pack3_2_2_5_5_3_5_7_at0 (a0 : BitVec 3) (a1 : BitVec 2) (a2 : BitVec 2) (a3 : BitVec 5) (a4 : BitVec 5) (a5 : BitVec 3) (a6 : BitVec 5) (a7 : BitVec 7) :
    fld (pack3_2_2_5_5_3_5_7 a0 a1 a2 a3 a4 a5 a6 a7) 0 7 = a7 := by
  apply fld_eq; rw [pack3_2_2_5_5_3_5_7_toNat]; omega

theorem pack4_1_2_5_5_3_5_7_toNat (a0 : BitVec 4) (a1 : BitVec 1) (a2 : BitVec 2) (a3 : BitVec 5) (a4 : BitVec 5) (a5 : BitVec 3) (a6 : BitVec 5) (a7 : BitVec 7) :
    (pack4_1_2_5_5_3_5_7 a0 a1 a2 a3 a4 a5 a6 a7).toNat =
      (((((((a0.toNat * 2 ^ 1 + a1.toNat) * 2 ^ 2 + a2.toNat) * 2 ^ 5 + a3.toNat) * 2 ^ 5 + a4.toNat) * 2 ^ 3 + a5.toNat) * 2 ^ 5 + a6.toNat) * 2 ^ 7 + a7.toNat) := by
  simp only [pack4_1_2_5_5_3_5_7, append_toNat]

@[simp] theorem pack4_1_2_5_5_3_5_7_at28 (a0 : BitVec 4) (a1 : BitVec 1) (a2 : BitVec 2) (a3 : BitVec 5) (a4 : BitVec 5) (a5 : BitVec 3) (a6 : BitVec 5) (a7 : BitVec 7) :
    fld (pack4_1_2_5_5_3_5_7 a0 a1 a2 a3 a4 a5 a6 a7) 28 4 = a0 := by
  apply fld_eq; rw [pack4_1_2_5_5_3_5_7_toNat]; omega

@[simp] theorem pack4_1_2_5_5_3_5_7_at27 (a0 : BitVec 4) (a1 : BitVec 1) (a2 : BitVec 2) (a3 : BitVec 5) (a4 : BitVec 5) (a5 : BitVec 3) (a6 : BitVec 5) (a7 : BitVec 7) :
    fld (pack4_1_2_5_5_3_5_7 a0 a1 a2 a3 a4 a5 a6 a7) 27 1 = a1 := by
  apply fld_eq; rw [pack4_1_2_5_5_3_5_7_toNat]; omega

@[simp] theorem pack4_1_2_5_5_3_5_7_at25 (a0 : BitVec 4) (a1 : BitVec 1) (a2 : BitVec 2) (a3 : BitVec 5) (a4 : BitVec 5) (a5 : BitVec 3) (a6 : BitVec 5) (a7 : BitVec 7) :
    fld (pack4_1_2_5_5_3_5_7 a0 a1 a2 a3 a4 a5 a6 a7) 25 2 = a2 := by
  apply fld_eq; rw [pack4_1_2_5_5_3_5_7_toNat]; omega

@[simp] theorem pack4_1_2_5_5_3_5_7_at20 (a0 : BitVec 4) (a1 : BitVec 1) (a2 : BitVec 2) (a3 : BitVec 5) (a4 : BitVec 5) (a5 : BitVec 3) (a6 : BitVec 5) (a7 : BitVec 7) :
    fld (pack4_1_2_5_5_3_5_7 a0 a1 a2 a3 a4 a5 a6 a7) 20 5 = a3 := by
  apply fld_eq; rw [pack4_1_2_5_5_3_5_7_toNat]; omega

@[simp] theorem pack4_1_2_5_5_3_5_7_at15 (a0 : BitVec 4) (a1 : BitVec 1) (a2 : BitVec 2) (a3 : BitVec 5) (a4 : BitVec 5) (a5 : BitVec 3) (a6 : BitVec 5) (a7 : BitVec 7) :
    fld (pack4_1_2_5_5_3_5_7 a0 a1 a2 a3 a4 a5 a6 a7) 15 5 = a4 := by
  apply fld_eq; rw [pack4_1_2_5_5_3_5_7_toNat]; omega

@[simp] theorem pack4_1_2_5_5_3_5_7_at12 (a0 : BitVec 4) (a1 : BitVec 1) (a2 : BitVec 2) (a3 : BitVec 5) (a4 : BitVec 5) (a5 : BitVec 3) (a6 : BitVec 5) (a7 : BitVec 7) :
    fld (pack4_1_2_5_5_3_5_7 a0 a1 a2 a3 a4 a5 a6 a7) 12 3 = a5 := by
  apply fld_eq; rw [pack4_1_2_5_5_3_5_7_toNat]; omega

@[simp] theorem pack4_1_2_5_5_3_5_7_at7 (a0 : BitVec 4) (a1 : BitVec 1) (a2 : BitVec 2) (a3 : BitVec 5) (a4 : BitVec 5) (a5 : BitVec 3) (a6 : BitVec 5) (a7 : BitVec 7) :
    fld (pack4_1_2_5_5_3_5_7 a0 a1 a2 a3 a4 a5 a6 a7) 7 5 = a6 := by
  apply fld_eq; rw [pack4_1_2_5_5_3_5_7_toNat]; omega

@[simp] theorem pack4_1_2_5_5_3_5_7_at0 (a0 : BitVec 4) (a1 : BitVec 1) (a2 : BitVec 2) (a3 : BitVec 5) (a4 : BitVec 5) (a5 : BitVec 3) (a6 : BitVec 5) (a7 : BitVec 7) :
    fld (pack4_1_2_5_5_3_5_7 a0 a1 a2 a3 a4 a5 a6 a7) 0 7 = a7 := by
  apply fld_eq; rw [pack4_1_2_5_5_3_5_7_toNat]; omega

theorem pack5_2_5_5_3_5_7_toNat (a0 : BitVec 5) (a1 : BitVec 2) (a2 : BitVec 5) (a3 : BitVec 5) (a4 : BitVec 3) (a5 : BitVec 5) (a6 : BitVec 7) :
    (pack5_2_5_5_3_5_7 a0 a1 a2 a3 a4 a5 a6).toNat =
      ((((((a0.toNat * 2 ^ 2 + a1.toNat) * 2 ^ 5 + a2.toNat) * 2 ^ 5 + a3.toNat) * 2 ^ 3 + a4.toNat) * 2 ^ 5 + a5.toNat) * 2 ^ 7 + a6.toNat) := by
  simp only [pack5_2_5_5_3_5_7, append_toNat]

@[simp] theorem pack5_2_5_5_3_5_7_at27 (a0 : BitVec 5) (a1 : BitVec 2) (a2 : BitVec 5) (a3 : BitVec 5) (a4 : BitVec 3) (a5 : BitVec 5) (a6 : BitVec 7) :
    fld (pack5_2_5_5_3_5_7 a0 a1 a2 a3 a4 a5 a6) 27 5 = a0 := by
  apply fld_eq; rw [pack5_2_5_5_3_5_7_toNat]; omega

@[simp] theorem pack5_2_5_5_3_5_7_at25 (a0 : BitVec 5) (a1 : BitVec 2) (a2 : BitVec 5) (a3 : BitVec 5) (a4 : BitVec 3) (a5 : BitVec 5) (a6 : BitVec 7) :
    fld (pack5_2_5_5_3_5_7 a0 a1 a2 a3 a4 a5 a6) 25 2 = a1 := by
  apply fld_eq; rw [pack5_2_5_5_3_5_7_toNat]; omega

@[simp] theorem pack5_2_5_5_3_5_7_at20 (a0 : BitVec 5) (a1 : BitVec 2) (a2 : BitVec 5) (a3 : BitVec 5) (a4 : BitVec 3) (a5 : BitVec 5) (a6 : BitVec 7) :
    fld (pack5_2_5_5_3_5_7 a0 a1 a2 a3 a4 a5 a6) 20 5 = a2 := by
  apply fld_eq; rw [pack5_2_5_5_3_5_7_toNat]; omega

@[simp] theorem pack5_2_5_5_3_5_7_at15 (a0 : BitVec 5) (a1 : BitVec 2) (a2 : BitVec 5) (a3 : BitVec 5) (a4 : BitVec 3) (a5 : BitVec 5) (a6 : BitVec 7) :
    fld (pack5_2_5_5_3_5_7 a0 a1 a2 a3 a4 a5 a6) 15 5 = a3 := by
  apply fld_eq; rw [pack5_2_5_5_3_5_7_toNat]; omega

@[simp] theorem pack5_2_5_5_3_5_7_at12 (a0 : BitVec 5) (a1 : BitVec 2) (a2 : BitVec 5) (a3 : BitVec 5) (a4 : BitVec 3) (a5 : BitVec 5) (a6 : BitVec 7) :
    fld (pack5_2_5_5_3_5_7 a0 a1 a2 a3 a4 a5 a6) 12 3 = a4 := by
  apply fld_eq; rw [pack5_2_5_5_3_5_7_toNat]; omega

@[simp] theorem pack5_2_5_5_3_5_7_at7 (a0 : BitVec 5) (a1 : BitVec 2) (a2 : BitVec 5) (a3 : BitVec 5) (a4 : BitVec 3) (a5 : BitVec 5) (a6 : BitVec 7) :
    fld (pack5_2_5_5_3_5_7 a0 a1 a2 a3 a4 a5 a6) 7 5 = a5 := by
  apply fld_eq; rw [pack5_2_5_5_3_5_7_toNat]; omega

@[simp] theorem pack5_2_5_5_3_5_7_at0 (a0 : BitVec 5) (a1 : BitVec 2) (a2 : BitVec 5) (a3 : BitVec 5) (a4 : BitVec 3) (a5 : BitVec 5) (a6 : BitVec 7) :
    fld (pack5_2_5_5_3_5_7 a0 a1 a2 a3 a4 a5 a6) 0 7 = a6 := by
  apply fld_eq; rw [pack5_2_5_5_3_5_7_toNat]; omega

theorem pack6_6_5_3_5_7_toNat (a0 : BitVec 6) (a1 : BitVec 6) (a2 : BitVec 5) (a3 : BitVec 3) (a4 : BitVec 5) (a5 : BitVec 7) :
    (pack6_6_5_3_5_7 a0 a1 a2 a3 a4 a5).toNat =
      (((((a0.toNat * 2 ^ 6 + a1.toNat) * 2 ^ 5 + a2.toNat) * 2 ^ 3 + a3.toNat) * 2 ^ 5 + a4.toNat) * 2 ^ 7 + a5.toNat) := by
  simp only [pack6_6_5_3_5_7, append_toNat]

@[simp] theorem pack6_6_5_3_5_7_at26 (a0 : BitVec 6) (a1 : BitVec 6) (a2 : BitVec 5) (a3 : BitVec 3) (a4 : BitVec 5) (a5 : BitVec 7) :
    fld (pack6_6_5_3_5_7 a0 a1 a2 a3 a4 a5) 26 6 = a0 := by
  apply fld_eq; rw [pack6_6_5_3_5_7_toNat]; omega

@[simp] theorem pack6_6_5_3_5_7_at20 (a0 : BitVec 6) (a1 : BitVec 6) (a2 : BitVec 5) (a3 : BitVec 3) (a4 : BitVec 5) (a5 : BitVec 7) :
    fld (pack6_6_5_3_5_7 a0 a1 a2 a3 a4 a5) 20 6 = a1 := by
  apply fld_eq; rw [pack6_6_5_3_5_7_toNat]; omega

@[simp] theorem pack6_6_5_3_5_7_at15 (a0 : BitVec 6) (a1 : BitVec 6) (a2 : BitVec 5) (a3 : BitVec 3) (a4 : BitVec 5) (a5 : BitVec 7) :
    fld (pack6_6_5_3_5_7 a0 a1 a2 a3 a4 a5) 15 5 = a2 := by
  apply fld_eq; rw [pack6_6_5_3_5_7_toNat]; omega

@[simp] theorem pack6_6_5_3_5_7_at12 (a0 : BitVec 6) (a1 : BitVec 6) (a2 : BitVec 5) (a3 : BitVec 3) (a4 : BitVec 5) (a5 : BitVec 7) :
    fld (pack6_6_5_3_5_7 a0 a1 a2 a3 a4 a5) 12 3 = a3 := by
  apply fld_eq; rw [pack6_6_5_3_5_7_toNat]; omega

@[simp] theorem pack6_6_5_3_5_7_at7 (a0 : BitVec 6) (a1 : BitVec 6) (a2 : BitVec 5) (a3 : BitVec 3) (a4 : BitVec 5) (a5 : BitVec 7) :
    fld (pack6_6_5_3_5_7 a0 a1 a2 a3 a4 a5) 7 5 = a4 := by
  apply fld_eq; rw [pack6_6_5_3_5_7_toNat]; omega

@[simp] theorem pack6_6_5_3_5_7_at0 (a0 : BitVec 6) (a1 : BitVec 6) (a2 : BitVec 5) (a3 : BitVec 3) (a4 : BitVec 5) (a5 : BitVec 7) :
    fld (pack6_6_5_3_5_7 a0 a1 a2 a3 a4 a5) 0 7 = a5 := by
  apply fld_eq; rw [pack6_6_5_3_5_7_toNat]; omega

theorem pack7_1_4_5_3_5_7_toNat (a0 : BitVec 7) (a1 : BitVec 1) (a2 : BitVec 4) (a3 : BitVec 5) (a4 : BitVec 3) (a5 : BitVec 5) (a6 : BitVec 7) :
    (pack7_1_4_5_3_5_7 a0 a1 a2 a3 a4 a5 a6).toNat =
      ((((((a0.toNat * 2 ^ 1 + a1.toNat) * 2 ^ 4 + a2.toNat) * 2 ^ 5 + a3.toNat) * 2 ^ 3 + a4.toNat) * 2 ^ 5 + a5.toNat) * 2 ^ 7 + a6.toNat) := by
  simp only [pack7_1_4_5_3_5_7, append_toNat]

@[simp] theorem pack7_1_4_5_3_5_7_at25 (a0 : BitVec 7) (a1 : BitVec 1) (a2 : BitVec 4) (a3 : BitVec 5) (a4 : BitVec 3) (a5 : BitVec 5) (a6 : BitVec 7) :
    fld (pack7_1_4_5_3_5_7 a0 a1 a2 a3 a4 a5 a6) 25 7 = a0 := by
  apply fld_eq; rw [pack7_1_4_5_3_5_7_toNat]; omega

@[simp] theorem pack7_1_4_5_3_5_7_at24 (a0 : BitVec 7) (a1 : BitVec 1) (a2 : BitVec 4) (a3 : BitVec 5) (a4 : BitVec 3) (a5 : BitVec 5) (a6 : BitVec 7) :
    fld (pack7_1_4_5_3_5_7 a0 a1 a2 a3 a4 a5 a6) 24 1 = a1 := by
  apply fld_eq; rw [pack7_1_4_5_3_5_7_toNat]; omega

@[simp] theorem pack7_1_4_5_3_5_7_at20 (a0 : BitVec 7) (a1 : BitVec 1) (a2 : BitVec 4) (a3 : BitVec 5) (a4 : BitVec 3) (a5 : BitVec 5) (a6 : BitVec 7) :
    fld (pack7_1_4_5_3_5_7 a0 a1 a2 a3 a4 a5 a6) 20 4 = a2 := by
  apply fld_eq; rw [pack7_1_4_5_3_5_7_toNat]; omega

@[simp] theorem pack7_1_4_5_3_5_7_at15 (a0 : BitVec 7) (a1 : BitVec 1) (a2 : BitVec 4) (a3 : BitVec 5) (a4 : BitVec 3) (a5 : BitVec 5) (a6 : BitVec 7) :
    fld (pack7_1_4_5_3_5_7 a0 a1 a2 a3 a4 a5 a6) 15 5 = a3 := by
  apply fld_eq; rw [pack7_1_4_5_3_5_7_toNat]; omega

@[simp] theorem pack7_1_4_5_3_5_7_at12 (a0 : BitVec 7) (a1 : BitVec 1) (a2 : BitVec 4) (a3 : BitVec 5) (a4 : BitVec 3) (a5 : BitVec 5) (a6 : BitVec 7) :
    fld (pack7_1_4_5_3_5_7 a0 a1 a2 a3 a4 a5 a6) 12 3 = a4 := by
  apply fld_eq; rw [pack7_1_4_5_3_5_7_toNat]; omega

@[simp] theorem pack7_1_4_5_3_5_7_at7 (a0 : BitVec 7) (a1 : BitVec 1) (a2 : BitVec 4) (a3 : BitVec 5) (a4 : BitVec 3) (a5 : BitVec 5) (a6 : BitVec 7) :
    fld (pack7_1_4_5_3_5_7 a0 a1 a2 a3 a4 a5 a6) 7 5 = a5 := by
  apply fld_eq; rw [pack7_1_4_5_3_5_7_toNat]; omega

@[simp] theorem pack7_1_4_5_3_5_7_at0 (a0 : BitVec 7) (a1 : BitVec 1) (a2 : BitVec 4) (a3 : BitVec 5) (a4 : BitVec 3) (a5 : BitVec 5) (a6 : BitVec 7) :
    fld (pack7_1_4_5_3_5_7 a0 a1 a2 a3 a4 a5 a6) 0 7 = a6 := by
  apply fld_eq; rw [pack7_1_4_5_3_5_7_toNat]; omega

theorem pack7_5_5_3_5_7_toNat (a0 : BitVec 7) (a1 : BitVec 5) (a2 : BitVec 5) (a3 : BitVec 3) (a4 : BitVec 5) (a5 : BitVec 7) :
    (pack7_5_5_3_5_7 a0 a1 a2 a3 a4 a5).toNat =
      (((((a0.toNat * 2 ^ 5 + a1.toNat) * 2 ^ 5 + a2.toNat) * 2 ^ 3 + a3.toNat) * 2 ^ 5 + a4.toNat) * 2 ^ 7 + a5.toNat) := by
  simp only [pack7_5_5_3_5_7, append_toNat]

@[simp] theorem pack7_5_5_3_5_7_at25 (a0 : BitVec 7) (a1 : BitVec 5) (a2 : BitVec 5) (a3 : BitVec 3) (a4 : BitVec 5) (a5 : BitVec 7) :
    fld (pack7_5_5_3_5_7 a0 a1 a2 a3 a4 a5) 25 7 = a0 := by
  apply fld_eq; rw [pack7_5_5_3_5_7_toNat]; omega

@[simp] theorem pack7_5_5_3_5_7_at20 (a0 : BitVec 7) (a1 : BitVec 5) (a2 : BitVec 5) (a3 : BitVec 3) (a4 : BitVec 5) (a5 : BitVec 7) :
    fld (pack7_5_5_3_5_7 a0 a1 a2 a3 a4 a5) 20 5 = a1 := by
  apply fld_eq; rw [pack7_5_5_3_5_7_toNat]; omega

@[simp] theorem pack7_5_5_3_5_7_at15 (a0 : BitVec 7) (a1 : BitVec 5) (a2 : BitVec 5) (a3 : BitVec 3) (a4 : BitVec 5) (a5 : BitVec 7) :
    fld (pack7_5_5_3_5_7 a0 a1 a2 a3 a4 a5) 15 5 = a2 := by
  apply fld_eq; rw [pack7_5_5_3_5_7_toNat]; omega

@[simp] theorem pack7_5_5_3_5_7_at12 (a0 : BitVec 7) (a1 : BitVec 5) (a2 : BitVec 5) (a3 : BitVec 3) (a4 : BitVec 5) (a5 : BitVec 7) :
    fld (pack7_5_5_3_5_7 a0 a1 a2 a3 a4 a5) 12 3 = a3 := by
  apply fld_eq; rw [pack7_5_5_3_5_7_toNat]; omega

@[simp] theorem pack7_5_5_3_5_7_at7 (a0 : BitVec 7) (a1 : BitVec 5) (a2 : BitVec 5) (a3 : BitVec 3) (a4 : BitVec 5) (a5 : BitVec 7) :
    fld (pack7_5_5_3_5_7 a0 a1 a2 a3 a4 a5) 7 5 = a4 := by
  apply fld_eq; rw [pack7_5_5_3_5_7_toNat]; omega

@[simp] theorem pack7_5_5_3_5_7_at0 (a0 : BitVec 7) (a1 : BitVec 5) (a2 : BitVec 5) (a3 : BitVec 3) (a4 : BitVec 5) (a5 : BitVec 7) :
    fld (pack7_5_5_3_5_7 a0 a1 a2 a3 a4 a5) 0 7 = a5 := by
  apply fld_eq; rw [pack7_5_5_3_5_7_toNat]; omega

@[simp] theorem pack1_4_2_1_4_5_3_5_7_at27_2 (a0 : BitVec 1) (a1 : BitVec 4) (a2 : BitVec 2) (a3 : BitVec 1) (a4 : BitVec 4) (a5 : BitVec 5) (a6 : BitVec 3) (a7 : BitVec 5) (a8 : BitVec 7) :
    fld (pack1_4_2_1_4_5_3_5_7 a0 a1 a2 a3 a4 a5 a6 a7 a8) 27 2 = a1.extractLsb' 0 2 := by
  apply fld_eq; rw [pack1_4_2_1_4_5_3_5_7_toNat, extract_toNat]; omega

@[simp] theorem pack1_4_2_1_4_5_3_5_7_at29_2 (a0 : BitVec 1) (a1 : BitVec 4) (a2 : BitVec 2) (a3 : BitVec 1) (a4 : BitVec 4) (a5 : BitVec 5) (a6 : BitVec 3) (a7 : BitVec 5) (a8 : BitVec 7) :
    fld (pack1_4_2_1_4_5_3_5_7 a0 a1 a2 a3 a4 a5 a6 a7 a8) 29 2 = a1.extractLsb' 2 2 := by
  apply fld_eq; rw [pack1_4_2_1_4_5_3_5_7_toNat, extract_toNat]; omega

@[simp] theorem pack1_5_3_1_3_1_3_3_1_1_3_7_at24_2 (a0 : BitVec 1) (a1 : BitVec 5) (a2 : BitVec 3) (a3 : BitVec 1) (a4 : BitVec 3) (a5 : BitVec 1) (a6 : BitVec 3) (a7 : BitVec 3) (a8 : BitVec 1) (a9 : BitVec 1) (a10 : BitVec 3) (a11 : BitVec 7) :
    fld (pack1_5_3_1_3_1_3_3_1_1_3_7 a0 a1 a2 a3 a4 a5 a6 a7 a8 a9 a10 a11) 24 2 = a2.extractLsb' 1 2 := by
  apply fld_eq; rw [pack1_5_3_1_3_1_3_3_1_1_3_7_toNat, extract_toNat]; omega

@[simp] theorem pack1_5_3_1_3_1_3_3_1_1_3_7_at26_1 (a0 : BitVec 1) (a1 : BitVec 5) (a2 : BitVec 3) (a3 : BitVec 1) (a4 : BitVec 3) (a5 : BitVec 1) (a6 : BitVec 3) (a7 : BitVec 3) (a8 : BitVec 1) (a9 : BitVec 1) (a10 : BitVec 3) (a11 : BitVec 7) :
    fld (pack1_5_3_1_3_1_3_3_1_1_3_7 a0 a1 a2 a3 a4 a5 a6 a7 a8 a9 a10 a11) 26 1 = a1.extractLsb' 0 1 := by
  apply fld_eq; rw [pack1_5_3_1_3_1_3_3_1_1_3_7_toNat, extract_toNat]; omega

@[simp] theorem pack1_5_3_1_3_1_3_3_1_1_3_7_at27_4 (a0 : BitVec 1) (a1 : BitVec 5) (a2 : BitVec 3) (a3 : BitVec 1) (a4 : BitVec 3) (a5 : BitVec 1) (a6 : BitVec 3) (a7 : BitVec 3) (a8 : BitVec 1) (a9 : BitVec 1) (a10 : BitVec 3) (a11 : BitVec 7) :
    fld (pack1_5_3_1_3_1_3_3_1_1_3_7 a0 a1 a2 a3 a4 a5 a6 a7 a8 a9 a10 a11) 27 4 = a1.extractLsb' 1 4 := by
  apply fld_eq; rw [pack1_5_3_1_3_1_3_3_1_1_3_7_toNat, extract_toNat]; omega

@[simp] theorem pack1_5_3_4_1_3_3_5_7_at19_3 (a0 : BitVec 1) (a1 : BitVec 5) (a2 : BitVec 3) (a3 : BitVec 4) (a4 : BitVec 1) (a5 : BitVec 3) (a6 : BitVec 3) (a7 : BitVec 5) (a8 : BitVec 7) :
    fld (pack1_5_3_4_1_3_3_5_7 a0 a1 a2 a3 a4 a5 a6 a7 a8) 19 3 = a3.extractLsb' 0 3 := by
  apply fld_eq; rw [pack1_5_3_4_1_3_3_5_7_toNat, extract_toNat]; omega

@[simp] theorem pack1_5_3_4_1_3_3_5_7_at22_1 (a0 : BitVec 1) (a1 : BitVec 5) (a2 : BitVec 3) (a3 : BitVec 4) (a4 : BitVec 1) (a5 : BitVec 3) (a6 : BitVec 3) (a7 : BitVec 5) (a8 : BitVec 7) :
    fld (pack1_5_3_4_1_3_3_5_7 a0 a1 a2 a3 a4 a5 a6 a7 a8) 22 1 = a3.extractLsb' 3 1 := by
  apply fld_eq; rw [pack1_5_3_4_1_3_3_5_7_toNat, extract_toNat]; omega

@[simp] theorem pack1_5_3_4_1_3_3_5_7_at24_2 (a0 : BitVec 1) (a1 : BitVec 5) (a2 : BitVec 3) (a3 : BitVec 4) (a4 : BitVec 1) (a5 : BitVec 3) (a6 : BitVec 3) (a7 : BitVec 5) (a8 : BitVec 7) :
    fld (pack1_5_3_4_1_3_3_5_7 a0 a1 a2 a3 a4 a5 a6 a7 a8) 24 2 = a2.extractLsb' 1 2 := by
  apply fld_eq; rw [pack1_5_3_4_1_3_3_5_7_toNat, extract_toNat]; omega

@[simp] theorem pack1_5_3_4_1_3_3_5_7_at26_1 (a0 : BitVec 1) (a1 : BitVec 5) (a2 : BitVec 3) (a3 : BitVec 4) (a4 : BitVec 1) (a5 : BitVec 3) (a6 : BitVec 3) (a7 : BitVec 5) (a8 : BitVec 7) :
    fld (pack1_5_3_4_1_3_3_5_7 a0 a1 a2 a3 a4 a5 a6 a7 a8) 26 1 = a1.extractLsb' 0 1 := by
  apply fld_eq; rw [pack1_5_3_4_1_3_3_5_7_toNat, extract_toNat]; omega

@[simp] theorem pack1_5_3_4_1_3_3_5_7_at27_4 (a0 : BitVec 1) (a1 : BitVec 5) (a2 : BitVec 3) (a3 : BitVec 4) (a4 : BitVec 1) (a5 : BitVec 3) (a6 : BitVec 3) (a7 : BitVec 5) (a8 : BitVec 7) :
    fld (pack1_5_3_4_1_3_3_5_7 a0 a1 a2 a3 a4 a5 a6 a7 a8) 27 4 = a1.extractLsb' 1 4 := by
  apply fld_eq; rw [pack1_5_3_4_1_3_3_5_7_toNat, extract_toNat]; omega

@[simp] theorem pack1_5_3_4_4_3_1_1_3_7_at26_1 (a0 : BitVec 1) (a1 : BitVec 5) (a2 : BitVec 3) (a3 : BitVec 4) (a4 : BitVec 4) (a5 : BitVec 3) (a6 : BitVec 1) (a7 : BitVec 1) (a8 : BitVec 3) (a9 : BitVec 7) :
    fld (pack1_5_3_4_4_3_1_1_3_7 a0 a1 a2 a3 a4 a5 a6 a7 a8 a9) 26 1 = a1.extractLsb' 0 1 := by
  apply fld_eq; rw [pack1_5_3_4_4_3_1_1_3_7_toNat, extract_toNat]; omega

@[simp] theorem pack1_5_3_4_4_3_1_1_3_7_at27_4 (a0 : BitVec 1) (a1 : BitVec 5) (a2 : BitVec 3) (a3 : BitVec 4) (a4 : BitVec 4) (a5 : BitVec 3) (a6 : BitVec 1) (a7 : BitVec 1) (a8 : BitVec 3) (a9 : BitVec 7) :
    fld (pack1_5_3_4_4_3_1_1_3_7 a0 a1 a2 a3 a4 a5 a6 a7 a8 a9) 27 4 = a1.extractLsb' 1 4 := by
  apply fld_eq; rw [pack1_5_3_4_4_3_1_1_3_7_toNat, extract_toNat]; omega

@[simp] theorem pack1_5_3_4_4_3_1_4_7_at24_2 (a0 : BitVec 1) (a1 : BitVec 5) (a2 : BitVec 3) (a3 : BitVec 4) (a4 : BitVec 4) (a5 : BitVec 3) (a6 : BitVec 1) (a7 : BitVec 4) (a8 : BitVec 7) :
    fld (pack1_5_3_4_4_3_1_4_7 a0 a1 a2 a3 a4 a5 a6 a7 a8) 24 2 = a2.extractLsb' 1 2 := by
  apply fld_eq; rw [pack1_5_3_4_4_3_1_4_7_toNat, extract_toNat]; omega

@[simp] theorem pack1_5_3_4_4_3_1_4_7_at26_1 (a0 : BitVec 1) (a1 : BitVec 5) (a2 : BitVec 3) (a3 : BitVec 4) (a4 : BitVec 4) (a5 : BitVec 3) (a6 : BitVec 1) (a7 : BitVec 4) (a8 : BitVec 7) :
    fld (pack1_5_3_4_4_3_1_4_7 a0 a1 a2 a3 a4 a5 a6 a7 a8) 26 1 = a1.extractLsb' 0 1 := by
  apply fld_eq; rw [pack1_5_3_4_4_3_1_4_7_toNat, extract_toNat]; omega

@[simp] theorem pack1_5_3_4_4_3_1_4_7_at27_4 (a0 : BitVec 1) (a1 : BitVec 5) (a2 : BitVec 3) (a3 : BitVec 4) (a4 : BitVec 4) (a5 : BitVec 3) (a6 : BitVec 1) (a7 : BitVec 4) (a8 : BitVec 7) :
    fld (pack1_5_3_4_4_3_1_4_7 a0 a1 a2 a3 a4 a5 a6 a7 a8) 27 4 = a1.extractLsb' 1 4 := by
  apply fld_eq; rw [pack1_5_3_4_4_3_1_4_7_toNat, extract_toNat]; omega

@[simp] theorem pack1_5_3_4_4_3_5_7_at24_2 (a0 : BitVec 1) (a1 : BitVec 5) (a2 : BitVec 3) (a3 : BitVec 4) (a4 : BitVec 4) (a5 : BitVec 3) (a6 : BitVec 5) (a7 : BitVec 7) :
    fld (pack1_5_3_4_4_3_5_7 a0 a1 a2 a3 a4 a5 a6 a7) 24 2 = a2.extractLsb' 1 2 := by
  apply fld_eq; rw [pack1_5_3_4_4_3_5_7_toNat, extract_toNat]; omega

@[simp] theorem pack1_5_3_4_4_3_5_7_at26_1 (a0 : BitVec 1) (a1 : BitVec 5) (a2 : BitVec 3) (a3 : BitVec 4) (a4 : BitVec 4) (a5 : BitVec 3) (a6 : BitVec 5) (a7 : BitVec 7) :
    fld (pack1_5_3_4_4_3_5_7 a0 a1 a2 a3 a4 a5 a6 a7) 26 1 = a1.extractLsb' 0 1 := by
  apply fld_eq; rw [pack1_5_3_4_4_3_5_7_toNat, extract_toNat]; omega

@[simp] theorem pack1_5_3_4_4_3_5_7_at27_4 (a0 : BitVec 1) (a1 : BitVec 5) (a2 : BitVec 3) (a3 : BitVec 4) (a4 : BitVec 4) (a5 : BitVec 3) (a6 : BitVec 5) (a7 : BitVec 7) :
    fld (pack1_5_3_4_4_3_5_7 a0 a1 a2 a3 a4 a5 a6 a7) 27 4 = a1.extractLsb' 1 4 := by
  apply fld_eq; rw [pack1_5_3_4_4_3_5_7_toNat, extract_toNat]; omega

@[simp] theorem pack2_2_3_5_5_3_1_4_7_at20_4 (a0 : BitVec 2) (a1 : BitVec 2) (a2 : BitVec 3) (a3 : BitVec 5) (a4 : BitVec 5) (a5 : BitVec 3) (a6 : BitVec 1) (a7 : BitVec 4) (a8 : BitVec 7) :
    fld (pack2_2_3_5_5_3_1_4_7 a0 a1 a2 a3 a4 a5 a6 a7 a8) 20 4 = a3.extractLsb' 0 4 := by
  apply fld_eq; rw [pack2_2_3_5_5_3_1_4_7_toNat, extract_toNat]; omega

@[simp] theorem pack2_2_3_5_5_3_1_4_7_at24_1 (a0 : BitVec 2) (a1 : BitVec 2) (a2 : BitVec 3) (a3 : BitVec 5) (a4 : BitVec 5) (a5 : BitVec 3) (a6 : BitVec 1) (a7 : BitVec 4) (a8 : BitVec 7) :
    fld (pack2_2_3_5_5_3_1_4_7 a0 a1 a2 a3 a4 a5 a6 a7 a8) 24 1 = a3.extractLsb' 4 1 := by
  apply fld_eq; rw [pack2_2_3_5_5_3_1_4_7_toNat, extract_toNat]; omega

@[simp] theorem pack2_3_2_5_5_3_5_7_at20_4 (a0 : BitVec 2) (a1 : BitVec 3) (a2 : BitVec 2) (a3 : BitVec 5) (a4 : BitVec 5) (a5 : BitVec 3) (a6 : BitVec 5) (a7 : BitVec 7) :
    fld (pack2_3_2_5_5_3_5_7 a0 a1 a2 a3 a4 a5 a6 a7) 20 4 = a3.extractLsb' 0 4 := by
  apply fld_eq; rw [pack2_3_2_5_5_3_5_7_toNat, extract_toNat]; omega

@[simp] theorem pack2_3_2_5_5_3_5_7_at24_1 (a0 : BitVec 2) (a1 : BitVec 3) (a2 : BitVec 2) (a3 : BitVec 5) (a4 : BitVec 5) (a5 : BitVec 3) (a6 : BitVec 5) (a7 : BitVec 7) :
    fld (pack2_3_2_5_5_3_5_7 a0 a1 a2 a3 a4 a5 a6 a7) 24 1 = a3.extractLsb' 4 1 := by
  apply fld_eq; rw [pack2_3_2_5_5_3_5_7_toNat, extract_toNat]; omega

@[simp] theorem pack3_2_2_1_4_5_3_5_7_at29_2 (a0 : BitVec 3) (a1 : BitVec 2) (a2 : BitVec 2) (a3 : BitVec 1) (a4 : BitVec 4) (a5 : BitVec 5) (a6 : BitVec 3) (a7 : BitVec 5) (a8 : BitVec 7) :
    fld (pack3_2_2_1_4_5_3_5_7 a0 a1 a2 a3 a4 a5 a6 a7 a8) 29 2 = a0.extractLsb' 0 2 := by
  apply fld_eq; rw [pack3_2_2_1_4_5_3_5_7_toNat, extract_toNat]; omega

@[simp] theorem pack3_2_2_1_4_5_3_5_7_at30_2 (a0 : BitVec 3) (a1 : BitVec 2) (a2 : BitVec 2) (a3 : BitVec 1) (a4 : BitVec 4) (a5 : BitVec 5) (a6 : BitVec 3) (a7 : BitVec 5) (a8 : BitVec 7) :
    fld (pack3_2_2_1_4_5_3_5_7 a0 a1 a2 a3 a4 a5 a6 a7 a8) 30 2 = a0.extractLsb' 1 2 := by
  apply fld_eq; rw [pack3_2_2_1_4_5_3_5_7_toNat, extract_toNat]; omega

@[simp] theorem pack3_2_2_1_4_5_3_5_7_at31_1 (a0 : BitVec 3) (a1 : BitVec 2) (a2 : BitVec 2) (a3 : BitVec 1) (a4 : BitVec 4) (a5 : BitVec 5) (a6 : BitVec 3) (a7 : BitVec 5) (a8 : BitVec 7) :
    fld (pack3_2_2_1_4_5_3_5_7 a0 a1 a2 a3 a4 a5 a6 a7 a8) 31 1 = a0.extractLsb' 2 1 := by
  apply fld_eq; rw [pack3_2_2_1_4_5_3_5_7_toNat, extract_toNat]; omega

@[simp] theorem pack4_1_2_5_5_3_5_7_at7_4 (a0 : BitVec 4) (a1 : BitVec 1) (a2 : BitVec 2) (a3 : BitVec 5) (a4 : BitVec 5) (a5 : BitVec 3) (a6 : BitVec 5) (a7 : BitVec 7) :
    fld (pack4_1_2_5_5_3_5_7 a0 a1 a2 a3 a4 a5 a6 a7) 7 4 = a6.extractLsb' 0 4 := by
  apply fld_eq; rw [pack4_1_2_5_5_3_5_7_toNat, extract_toNat]; omega

@[simp] theorem pack4_1_2_5_5_3_5_7_at11_1 (a0 : BitVec 4) (a1 : BitVec 1) (a2 : BitVec 2) (a3 : BitVec 5) (a4 : BitVec 5) (a5 : BitVec 3) (a6 : BitVec 5) (a7 : BitVec 7) :
    fld (pack4_1_2_5_5_3_5_7 a0 a1 a2 a3 a4 a5 a6 a7) 11 1 = a6.extractLsb' 4 1 := by
  apply fld_eq; rw [pack4_1_2_5_5_3_5_7_toNat, extract_toNat]; omega

@[simp] theorem pack4_1_2_5_5_3_5_7_at28_2 (a0 : BitVec 4) (a1 : BitVec 1) (a2 : BitVec 2) (a3 : BitVec 5) (a4 : BitVec 5) (a5 : BitVec 3) (a6 : BitVec 5) (a7 : BitVec 7) :
    fld (pack4_1_2_5_5_3_5_7 a0 a1 a2 a3 a4 a5 a6 a7) 28 2 = a0.extractLsb' 0 2 := by
  apply fld_eq; rw [pack4_1_2_5_5_3_5_7_toNat, extract_toNat]; omega

@[simp] theorem pack4_1_2_5_5_3_5_7_at30_2 (a0 : BitVec 4) (a1 : BitVec 1) (a2 : BitVec 2) (a3 : BitVec 5) (a4 : BitVec 5) (a5 : BitVec 3) (a6 : BitVec 5) (a7 : BitVec 7) :
    fld (pack4_1_2_5_5_3_5_7 a0 a1 a2 a3 a4 a5 a6 a7) 30 2 = a0.extractLsb' 2 2 := by
  apply fld_eq; rw [pack4_1_2_5_5_3_5_7_toNat, extract_toNat]; omega

@[simp] theorem pack5_2_5_5_3_5_7_at7_4 (a0 : BitVec 5) (a1 : BitVec 2) (a2 : BitVec 5) (a3 : BitVec 5) (a4 : BitVec 3) (a5 : BitVec 5) (a6 : BitVec 7) :
    fld (pack5_2_5_5_3_5_7 a0 a1 a2 a3 a4 a5 a6) 7 4 = a5.extractLsb' 0 4 := by
  apply fld_eq; rw [pack5_2_5_5_3_5_7_toNat, extract_toNat]; omega

@[simp] theorem pack5_2_5_5_3_5_7_at11_1 (a0 : BitVec 5) (a1 : BitVec 2) (a2 : BitVec 5) (a3 : BitVec 5) (a4 : BitVec 3) (a5 : BitVec 5) (a6 : BitVec 7) :
    fld (pack5_2_5_5_3_5_7 a0 a1 a2 a3 a4 a5 a6) 11 1 = a5.extractLsb' 4 1 := by
  apply fld_eq; rw [pack5_2_5_5_3_5_7_toNat, extract_toNat]; omega

@[simp] theorem pack5_2_5_5_3_5_7_at20_4 (a0 : BitVec 5) (a1 : BitVec 2) (a2 : BitVec 5) (a3 : BitVec 5) (a4 : BitVec 3) (a5 : BitVec 5) (a6 : BitVec 7) :
    fld (pack5_2_5_5_3_5_7 a0 a1 a2 a3 a4 a5 a6) 20 4 = a2.extractLsb' 0 4 := by
  apply fld_eq; rw [pack5_2_5_5_3_5_7_toNat, extract_toNat]; omega

@[simp] theorem pack5_2_5_5_3_5_7_at24_1 (a0 : BitVec 5) (a1 : BitVec 2) (a2 : BitVec 5) (a3 : BitVec 5) (a4 : BitVec 3) (a5 : BitVec 5) (a6 : BitVec 7) :
    fld (pack5_2_5_5_3_5_7 a0 a1 a2 a3 a4 a5 a6) 24 1 = a2.extractLsb' 4 1 := by
  apply fld_eq; rw [pack5_2_5_5_3_5_7_toNat, extract_toNat]; omega

@[simp] theorem pack5_2_5_5_3_5_7_at27_1 (a0 : BitVec 5) (a1 : BitVec 2) (a2 : BitVec 5) (a3 : BitVec 5) (a4 : BitVec 3) (a5 : BitVec 5) (a6 : BitVec 7) :
    fld (pack5_2_5_5_3_5_7 a0 a1 a2 a3 a4 a5 a6) 27 1 = a0.extractLsb' 0 1 := by
  apply fld_eq; rw [pack5_2_5_5_3_5_7_toNat, extract_toNat]; omega

@[simp] theorem pack5_2_5_5_3_5_7_at27_2 (a0 : BitVec 5) (a1 : BitVec 2) (a2 : BitVec 5) (a3 : BitVec 5) (a4 : BitVec 3) (a5 : BitVec 5) (a6 : BitVec 7) :
    fld (pack5_2_5_5_3_5_7 a0 a1 a2 a3 a4 a5 a6) 27 2 = a0.extractLsb' 0 2 := by
  apply fld_eq; rw [pack5_2_5_5_3_5_7_toNat, extract_toNat]; omega

@[simp] theorem pack5_2_5_5_3_5_7_at27_3 (a0 : BitVec 5) (a1 : BitVec 2) (a2 : BitVec 5) (a3 : BitVec 5) (a4 : BitVec 3) (a5 : BitVec 5) (a6 : BitVec 7) :
    fld (pack5_2_5_5_3_5_7 a0 a1 a2 a3 a4 a5 a6) 27 3 = a0.extractLsb' 0 3 := by
  apply fld_eq; rw [pack5_2_5_5_3_5_7_toNat, extract_toNat]; omega

@[simp] theorem pack5_2_5_5_3_5_7_at27_4 (a0 : BitVec 5) (a1 : BitVec 2) (a2 : BitVec 5) (a3 : BitVec 5) (a4 : BitVec 3) (a5 : BitVec 5) (a6 : BitVec 7) :
    fld (pack5_2_5_5_3_5_7 a0 a1 a2 a3 a4 a5 a6) 27 4 = a0.extractLsb' 0 4 := by
  apply fld_eq; rw [pack5_2_5_5_3_5_7_toNat, extract_toNat]; omega

@[simp] theorem pack5_2_5_5_3_5_7_at28_2 (a0 : BitVec 5) (a1 : BitVec 2) (a2 : BitVec 5) (a3 : BitVec 5) (a4 : BitVec 3) (a5 : BitVec 5) (a6 : BitVec 7) :
    fld (pack5_2_5_5_3_5_7 a0 a1 a2 a3 a4 a5 a6) 28 2 = a0.extractLsb' 1 2 := by
  apply fld_eq; rw [pack5_2_5_5_3_5_7_toNat, extract_toNat]; omega

@[simp] theorem pack5_2_5_5_3_5_7_at28_4 (a0 : BitVec 5) (a1 : BitVec 2) (a2 : BitVec 5) (a3 : BitVec 5) (a4 : BitVec 3) (a5 : BitVec 5) (a6 : BitVec 7) :
    fld (pack5_2_5_5_3_5_7 a0 a1 a2 a3 a4 a5 a6) 28 4 = a0.extractLsb' 1 4 := by
  apply fld_eq; rw [pack5_2_5_5_3_5_7_toNat, extract_toNat]; omega

@[simp] theorem pack5_2_5_5_3_5_7_at29_2 (a0 : BitVec 5) (a1 : BitVec 2) (a2 : BitVec 5) (a3 : BitVec 5) (a4 : BitVec 3) (a5 : BitVec 5) (a6 : BitVec 7) :
    fld (pack5_2_5_5_3_5_7 a0 a1 a2 a3 a4 a5 a6) 29 2 = a0.extractLsb' 2 2 := by
  apply fld_eq; rw [pack5_2_5_5_3_5_7_toNat, extract_toNat]; omega

@[simp] theorem pack5_2_5_5_3_5_7_at29_3 (a0 : BitVec 5) (a1 : BitVec 2) (a2 : BitVec 5) (a3 : BitVec 5) (a4 : BitVec 3) (a5 : BitVec 5) (a6 : BitVec 7) :
    fld (pack5_2_5_5_3_5_7 a0 a1 a2 a3 a4 a5 a6) 29 3 = a0.extractLsb' 2 3 := by
  apply fld_eq; rw [pack5_2_5_5_3_5_7_toNat, extract_toNat]; omega

@[simp] theorem pack5_2_5_5_3_5_7_at30_2 (a0 : BitVec 5) (a1 : BitVec 2) (a2 : BitVec 5) (a3 : BitVec 5) (a4 : BitVec 3) (a5 : BitVec 5) (a6 : BitVec 7) :
    fld (pack5_2_5_5_3_5_7 a0 a1 a2 a3 a4 a5 a6) 30 2 = a0.extractLsb' 3 2 := by
  apply fld_eq; rw [pack5_2_5_5_3_5_7_toNat, extract_toNat]; omega

@[simp] theorem pack5_2_5_5_3_5_7_at31_1 (a0 : BitVec 5) (a1 : BitVec 2) (a2 : BitVec 5) (a3 : BitVec 5) (a4 : BitVec 3) (a5 : BitVec 5) (a6 : BitVec 7) :
    fld (pack5_2_5_5_3_5_7 a0 a1 a2 a3 a4 a5 a6) 31 1 = a0.extractLsb' 4 1 := by
  apply fld_eq; rw [pack5_2_5_5_3_5_7_toNat, extract_toNat]; omega

@[simp] theorem pack7_5_5_3_5_7_at20_4 (a0 : BitVec 7) (a1 : BitVec 5) (a2 : BitVec 5) (a3 : BitVec 3) (a4 : BitVec 5) (a5 : BitVec 7) :
    fld (pack7_5_5_3_5_7 a0 a1 a2 a3 a4 a5) 20 4 = a1.extractLsb' 0 4 := by
  apply fld_eq; rw [pack7_5_5_3_5_7_toNat, extract_toNat]; omega

@[simp] theorem pack7_5_5_3_5_7_at24_1 (a0 : BitVec 7) (a1 : BitVec 5) (a2 : BitVec 5) (a3 : BitVec 3) (a4 : BitVec 5) (a5 : BitVec 7) :
    fld (pack7_5_5_3_5_7 a0 a1 a2 a3 a4 a5) 24 1 = a1.extractLsb' 4 1 := by
  apply fld_eq; rw [pack7_5_5_3_5_7_toNat, extract_toNat]; omega

theorem okOrdering_cases {ord : BitVec 3} {sc : BitVec 2} (h : okOrdering ord sc = true) : ord = 0#3 ∨ ord = 1#3 ∨ ord = 2#3 ∨ ord = 5#3 := by
  simp only [okOrdering, Bool.or_eq_true, Bool.and_eq_true, beq_iff_eq] at h
  rcases h with ((h | h) | h) | h <;> simp [h]

/-! ### offsets that a word holds in pieces -/

theorem offset_jal (x : BitVec 20) :
    x.extractLsb' 19 1 ++ x.extractLsb' 11 8 ++ x.extractLsb' 10 1 ++ x.extractLsb' 0 10 = x := by
  apply BitVec.eq_of_toNat_eq; simp only [append_toNat, extract_toNat]; omega

theorem offset_branch (x : BitVec 12) :
    x.extractLsb' 11 1 ++ x.extractLsb' 10 1 ++ x.extractLsb' 4 6 ++ x.extractLsb' 0 4 = x := by
  apply BitVec.eq_of_toNat_eq; simp only [append_toNat, extract_toNat]; omega

theorem offset_store (x : BitVec 12) : x.extractLsb' 5 7 ++ x.extractLsb' 0 5 = x := by
  apply BitVec.eq_of_toNat_eq; simp only [append_toNat, extract_toNat]; omega

/-! ### the family -/

/-- The word of a well-formed instruction decodes to it, every operand as it was. ILLEGAL_INSTRUCTION carries a word that no
instruction has. -/
def RoundTrip.Statement (i : Instr) : Prop :=
  ∀ w : IWord, (∀ x, i ≠ .illegalInstruction x) → i.wf = true → encode i = some w → decode w = .ok i

theorem RoundTrip.lui (rd : BitVec 5) (imm : BitVec 20) : RoundTrip.Statement (.lui rd imm) := by
  intro u _ _ h
  obtain rfl := Option.some.inj h
  simp [decode, decodeLui]

theorem RoundTrip.auipc (rd : BitVec 5) (imm : BitVec 20) : RoundTrip.Statement (.auipc rd imm) := by
  intro u _ _ h
  obtain rfl := Option.some.inj h
  simp [decode, decodeAuipc]

theorem RoundTrip.jal (rd : BitVec 5) (off : BitVec 20) : RoundTrip.Statement (.jal rd off) := by
  intro u _ _ h
  obtain rfl := Option.some.inj h
  simp [decode, decodeJal, offset_jal]

theorem RoundTrip.jalr (rd : BitVec 5) (rs1 : BitVec 5) (imm : BitVec 12) : RoundTrip.Statement (.jalr rd rs1 imm) := by
  intro u _ _ h
  obtain rfl := Option.some.inj h
  simp [decode, decodeJalr]

theorem RoundTrip.beq (rs1 : BitVec 5) (rs2 : BitVec 5) (off : BitVec 12) : RoundTrip.Statement (.beq rs1 rs2 off) := by
  intro u _ _ h
  obtain rfl := Option.some.inj h
  simp [decode, decodeBranch, offset_branch]

theorem RoundTrip.bne (rs1 : BitVec 5) (rs2 : BitVec 5) (off : BitVec 12) : RoundTrip.Statement (.bne rs1 rs2 off) := by
  intro u _ _ h
  obtain rfl := Option.some.inj h
  simp [decode, decodeBranch, offset_branch]

theorem RoundTrip.blt (rs1 : BitVec 5) (rs2 : BitVec 5) (off : BitVec 12) : RoundTrip.Statement (.blt rs1 rs2 off) := by
  intro u _ _ h
  obtain rfl := Option.some.inj h
  simp [decode, decodeBranch, offset_branch]

theorem RoundTrip.bge (rs1 : BitVec 5) (rs2 : BitVec 5) (off : BitVec 12) : RoundTrip.Statement (.bge rs1 rs2 off) := by
  intro u _ _ h
  obtain rfl := Option.some.inj h
  simp [decode, decodeBranch, offset_branch]

theorem RoundTrip.bltu (rs1 : BitVec 5) (rs2 : BitVec 5) (off : BitVec 12) : RoundTrip.Statement (.bltu rs1 rs2 off) := by
  intro u _ _ h
  obtain rfl := Option.some.inj h
  simp [decode, decodeBranch, offset_branch]

theorem RoundTrip.bgeu (rs1 : BitVec 5) (rs2 : BitVec 5) (off : BitVec 12) : RoundTrip.Statement (.bgeu rs1 rs2 off) := by
  intro u _ _ h
  obtain rfl := Option.some.inj h
  simp [decode, decodeBranch, offset_branch]

theorem RoundTrip.lb (rd : BitVec 5) (rs1 : BitVec 5) (imm : BitVec 12) : RoundTrip.Statement (.lb rd rs1 imm) := by
  intro u _ _ h
  obtain rfl := Option.some.inj h
  simp [decode, decodeLoad]

theorem RoundTrip.lh (rd : BitVec 5) (rs1 : BitVec 5) (imm : BitVec 12) : RoundTrip.Statement (.lh rd rs1 imm) := by
  intro u _ _ h
  obtain rfl := Option.some.inj h
  simp [decode, decodeLoad]

theorem RoundTrip.lw (rd : BitVec 5) (rs1 : BitVec 5) (imm : BitVec 12) : RoundTrip.Statement (.lw rd rs1 imm) := by
  intro u _ _ h
  obtain rfl := Option.some.inj h
  simp [decode, decodeLoad]

theorem RoundTrip.ld (rd : BitVec 5) (rs1 : BitVec 5) (imm : BitVec 12) : RoundTrip.Statement (.ld rd rs1 imm) := by
  intro u _ _ h
  obtain rfl := Option.some.inj h
  simp [decode, decodeLoad]

theorem RoundTrip.lbu (rd : BitVec 5) (rs1 : BitVec 5) (imm : BitVec 12) : RoundTrip.Statement (.lbu rd rs1 imm) := by
  intro u _ _ h
  obtain rfl := Option.some.inj h
  simp [decode, decodeLoad]

theorem RoundTrip.lhu (rd : BitVec 5) (rs1 : BitVec 5) (imm : BitVec 12) : RoundTrip.Statement (.lhu rd rs1 imm) := by
  intro u _ _ h
  obtain rfl := Option.some.inj h
  simp [decode, decodeLoad]

theorem RoundTrip.lwu (rd : BitVec 5) (rs1 : BitVec 5) (imm : BitVec 12) : RoundTrip.Statement (.lwu rd rs1 imm) := by
  intro u _ _ h
  obtain rfl := Option.some.inj h
  simp [decode, decodeLoad]

theorem RoundTrip.sb (rs2 : BitVec 5) (rs1 : BitVec 5) (imm : BitVec 12) : RoundTrip.Statement (.sb rs2 rs1 imm) := by
  intro u _ _ h
  obtain rfl := Option.some.inj h
  simp [decode, decodeStore, offset_store]

theorem RoundTrip.sh (rs2 : BitVec 5) (rs1 : BitVec 5) (imm : BitVec 12) : RoundTrip.Statement (.sh rs2 rs1 imm) := by
  intro u _ _ h
  obtain rfl := Option.some.inj h
  simp [decode, decodeStore, offset_store]

theorem RoundTrip.sw (rs2 : BitVec 5) (rs1 : BitVec 5) (imm : BitVec 12) : RoundTrip.Statement (.sw rs2 rs1 imm) := by
  intro u _ _ h
  obtain rfl := Option.some.inj h
  simp [decode, decodeStore, offset_store]

theorem RoundTrip.sd (rs2 : BitVec 5) (rs1 : BitVec 5) (imm : BitVec 12) : RoundTrip.Statement (.sd rs2 rs1 imm) := by
  intro u _ _ h
  obtain rfl := Option.some.inj h
  simp [decode, decodeStore, offset_store]

theorem RoundTrip.addi (rd : BitVec 5) (rs1 : BitVec 5) (imm : BitVec 12) : RoundTrip.Statement (.addi rd rs1 imm) := by
  intro u _ _ h
  obtain rfl := Option.some.inj h
  simp [decode, decodeOpImm]

theorem RoundTrip.slti (rd : BitVec 5) (rs1 : BitVec 5) (imm : BitVec 12) : RoundTrip.Statement (.slti rd rs1 imm) := by
  intro u _ _ h
  obtain rfl := Option.some.inj h
  simp [decode, decodeOpImm]

theorem RoundTrip.sltiu (rd : BitVec 5) (rs1 : BitVec 5) (imm : BitVec 12) : RoundTrip.Statement (.sltiu rd rs1 imm) := by
  intro u _ _ h
  obtain rfl := Option.some.inj h
  simp [decode, decodeOpImm]

theorem RoundTrip.xori (rd : BitVec 5) (rs1 : BitVec 5) (imm : BitVec 12) : RoundTrip.Statement (.xori rd rs1 imm) := by
  intro u _ _ h
  obtain rfl := Option.some.inj h
  simp [decode, decodeOpImm]

theorem RoundTrip.ori (rd : BitVec 5) (rs1 : BitVec 5) (imm : BitVec 12) : RoundTrip.Statement (.ori rd rs1 imm) := by
  intro u _ _ h
  obtain rfl := Option.some.inj h
  simp [decode, decodeOpImm]

theorem RoundTrip.andi (rd : BitVec 5) (rs1 : BitVec 5) (imm : BitVec 12) : RoundTrip.Statement (.andi rd rs1 imm) := by
  intro u _ _ h
  obtain rfl := Option.some.inj h
  simp [decode, decodeOpImm]

theorem RoundTrip.slli (rd : BitVec 5) (rs1 : BitVec 5) (sh : BitVec 6) : RoundTrip.Statement (.slli rd rs1 sh) := by
  intro u _ _ h
  obtain rfl := Option.some.inj h
  simp [decode, decodeOpImm]

theorem RoundTrip.srli (rd : BitVec 5) (rs1 : BitVec 5) (sh : BitVec 6) : RoundTrip.Statement (.srli rd rs1 sh) := by
  intro u _ _ h
  obtain rfl := Option.some.inj h
  simp [decode, decodeOpImm]

theorem RoundTrip.srai (rd : BitVec 5) (rs1 : BitVec 5) (sh : BitVec 6) : RoundTrip.Statement (.srai rd rs1 sh) := by
  intro u _ _ h
  obtain rfl := Option.some.inj h
  simp [decode, decodeOpImm]

theorem RoundTrip.addiw (rd : BitVec 5) (rs1 : BitVec 5) (imm : BitVec 12) : RoundTrip.Statement (.addiw rd rs1 imm) := by
  intro u _ _ h
  obtain rfl := Option.some.inj h
  simp [decode, decodeOpImm32]

theorem RoundTrip.slliw (rd : BitVec 5) (rs1 : BitVec 5) (sh : BitVec 5) : RoundTrip.Statement (.slliw rd rs1 sh) := by
  intro u _ _ h
  obtain rfl := Option.some.inj h
  simp [decode, decodeOpImm32]

theorem RoundTrip.srliw (rd : BitVec 5) (rs1 : BitVec 5) (sh : BitVec 5) : RoundTrip.Statement (.srliw rd rs1 sh) := by
  intro u _ _ h
  obtain rfl := Option.some.inj h
  simp [decode, decodeOpImm32]

theorem RoundTrip.sraiw (rd : BitVec 5) (rs1 : BitVec 5) (sh : BitVec 5) : RoundTrip.Statement (.sraiw rd rs1 sh) := by
  intro u _ _ h
  obtain rfl := Option.some.inj h
  simp [decode, decodeOpImm32]

theorem RoundTrip.add (rd : BitVec 5) (rs1 : BitVec 5) (rs2 : BitVec 5) : RoundTrip.Statement (.add rd rs1 rs2) := by
  intro u _ _ h
  obtain rfl := Option.some.inj h
  simp [decode, decodeOp]

theorem RoundTrip.sll (rd : BitVec 5) (rs1 : BitVec 5) (rs2 : BitVec 5) : RoundTrip.Statement (.sll rd rs1 rs2) := by
  intro u _ _ h
  obtain rfl := Option.some.inj h
  simp [decode, decodeOp]

theorem RoundTrip.slt (rd : BitVec 5) (rs1 : BitVec 5) (rs2 : BitVec 5) : RoundTrip.Statement (.slt rd rs1 rs2) := by
  intro u _ _ h
  obtain rfl := Option.some.inj h
  simp [decode, decodeOp]

theorem RoundTrip.sltu (rd : BitVec 5) (rs1 : BitVec 5) (rs2 : BitVec 5) : RoundTrip.Statement (.sltu rd rs1 rs2) := by
  intro u _ _ h
  obtain rfl := Option.some.inj h
  simp [decode, decodeOp]

theorem RoundTrip.xor (rd : BitVec 5) (rs1 : BitVec 5) (rs2 : BitVec 5) : RoundTrip.Statement (.xor rd rs1 rs2) := by
  intro u _ _ h
  obtain rfl := Option.some.inj h
  simp [decode, decodeOp]

theorem RoundTrip.srl (rd : BitVec 5) (rs1 : BitVec 5) (rs2 : BitVec 5) : RoundTrip.Statement (.srl rd rs1 rs2) := by
  intro u _ _ h
  obtain rfl := Option.some.inj h
  simp [decode, decodeOp]

theorem RoundTrip.or (rd : BitVec 5) (rs1 : BitVec 5) (rs2 : BitVec 5) : RoundTrip.Statement (.or rd rs1 rs2) := by
  intro u _ _ h
  obtain rfl := Option.some.inj h
  simp [decode, decodeOp]

theorem RoundTrip.and (rd : BitVec 5) (rs1 : BitVec 5) (rs2 : BitVec 5) : RoundTrip.Statement (.and rd rs1 rs2) := by
  intro u _ _ h
  obtain rfl := Option.some.inj h
  simp [decode, decodeOp]

theorem RoundTrip.sub (rd : BitVec 5) (rs1 : BitVec 5) (rs2 : BitVec 5) : RoundTrip.Statement (.sub rd rs1 rs2) := by
  intro u _ _ h
  obtain rfl := Option.some.inj h
  simp [decode, decodeOp]

theorem RoundTrip.sra (rd : BitVec 5) (rs1 : BitVec 5) (rs2 : BitVec 5) : RoundTrip.Statement (.sra rd rs1 rs2) := by
  intro u _ _ h
  obtain rfl := Option.some.inj h
  simp [decode, decodeOp]

theorem RoundTrip.mul (rd : BitVec 5) (rs1 : BitVec 5) (rs2 : BitVec 5) : RoundTrip.Statement (.mul rd rs1 rs2) := by
  intro u _ _ h
  obtain rfl := Option.some.inj h
  simp [decode, decodeOp]

theorem RoundTrip.mulh (rd : BitVec 5) (rs1 : BitVec 5) (rs2 : BitVec 5) : RoundTrip.Statement (.mulh rd rs1 rs2) := by
  intro u _ _ h
  obtain rfl := Option.some.inj h
  simp [decode, decodeOp]

theorem RoundTrip.mulhsu (rd : BitVec 5) (rs1 : BitVec 5) (rs2 : BitVec 5) : RoundTrip.Statement (.mulhsu rd rs1 rs2) := by
  intro u _ _ h
  obtain rfl := Option.some.inj h
  simp [decode, decodeOp]

theorem RoundTrip.mulhu (rd : BitVec 5) (rs1 : BitVec 5) (rs2 : BitVec 5) : RoundTrip.Statement (.mulhu rd rs1 rs2) := by
  intro u _ _ h
  obtain rfl := Option.some.inj h
  simp [decode, decodeOp]

theorem RoundTrip.div (rd : BitVec 5) (rs1 : BitVec 5) (rs2 : BitVec 5) : RoundTrip.Statement (.div rd rs1 rs2) := by
  intro u _ _ h
  obtain rfl := Option.some.inj h
  simp [decode, decodeOp]

theorem RoundTrip.divu (rd : BitVec 5) (rs1 : BitVec 5) (rs2 : BitVec 5) : RoundTrip.Statement (.divu rd rs1 rs2) := by
  intro u _ _ h
  obtain rfl := Option.some.inj h
  simp [decode, decodeOp]

theorem RoundTrip.rem (rd : BitVec 5) (rs1 : BitVec 5) (rs2 : BitVec 5) : RoundTrip.Statement (.rem rd rs1 rs2) := by
  intro u _ _ h
  obtain rfl := Option.some.inj h
  simp [decode, decodeOp]

theorem RoundTrip.remu (rd : BitVec 5) (rs1 : BitVec 5) (rs2 : BitVec 5) : RoundTrip.Statement (.remu rd rs1 rs2) := by
  intro u _ _ h
  obtain rfl := Option.some.inj h
  simp [decode, decodeOp]

theorem RoundTrip.addw (rd : BitVec 5) (rs1 : BitVec 5) (rs2 : BitVec 5) : RoundTrip.Statement (.addw rd rs1 rs2) := by
  intro u _ _ h
  obtain rfl := Option.some.inj h
  simp [decode, decodeOp32]

theorem RoundTrip.sllw (rd : BitVec 5) (rs1 : BitVec 5) (rs2 : BitVec 5) : RoundTrip.Statement (.sllw rd rs1 rs2) := by
  intro u _ _ h
  obtain rfl := Option.some.inj h
  simp [decode, decodeOp32]

theorem RoundTrip.srlw (rd : BitVec 5) (rs1 : BitVec 5) (rs2 : BitVec 5) : RoundTrip.Statement (.srlw rd rs1 rs2) := by
  intro u _ _ h
  obtain rfl := Option.some.inj h
  simp [decode, decodeOp32]

theorem RoundTrip.subw (rd : BitVec 5) (rs1 : BitVec 5) (rs2 : BitVec 5) : RoundTrip.Statement (.subw rd rs1 rs2) := by
  intro u _ _ h
  obtain rfl := Option.some.inj h
  simp [decode, decodeOp32]

theorem RoundTrip.sraw (rd : BitVec 5) (rs1 : BitVec 5) (rs2 : BitVec 5) : RoundTrip.Statement (.sraw rd rs1 rs2) := by
  intro u _ _ h
  obtain rfl := Option.some.inj h
  simp [decode, decodeOp32]

theorem RoundTrip.mulw (rd : BitVec 5) (rs1 : BitVec 5) (rs2 : BitVec 5) : RoundTrip.Statement (.mulw rd rs1 rs2) := by
  intro u _ _ h
  obtain rfl := Option.some.inj h
  simp [decode, decodeOp32]

theorem RoundTrip.divw (rd : BitVec 5) (rs1 : BitVec 5) (rs2 : BitVec 5) : RoundTrip.Statement (.divw rd rs1 rs2) := by
  intro u _ _ h
  obtain rfl := Option.some.inj h
  simp [decode, decodeOp32]

theorem RoundTrip.divuw (rd : BitVec 5) (rs1 : BitVec 5) (rs2 : BitVec 5) : RoundTrip.Statement (.divuw rd rs1 rs2) := by
  intro u _ _ h
  obtain rfl := Option.some.inj h
  simp [decode, decodeOp32]

theorem RoundTrip.remw (rd : BitVec 5) (rs1 : BitVec 5) (rs2 : BitVec 5) : RoundTrip.Statement (.remw rd rs1 rs2) := by
  intro u _ _ h
  obtain rfl := Option.some.inj h
  simp [decode, decodeOp32]

theorem RoundTrip.remuw (rd : BitVec 5) (rs1 : BitVec 5) (rs2 : BitVec 5) : RoundTrip.Statement (.remuw rd rs1 rs2) := by
  intro u _ _ h
  obtain rfl := Option.some.inj h
  simp [decode, decodeOp32]

theorem RoundTrip.fence (rd : BitVec 5) (rs1 : BitVec 5) (imm : BitVec 12) : RoundTrip.Statement (.fence rd rs1 imm) := by
  intro u _ _ h
  obtain rfl := Option.some.inj h
  simp [decode, decodeMiscMem]

theorem RoundTrip.fenceI (rd : BitVec 5) (rs1 : BitVec 5) (imm : BitVec 12) : RoundTrip.Statement (.fenceI rd rs1 imm) := by
  intro u _ _ h
  obtain rfl := Option.some.inj h
  simp [decode, decodeMiscMem]

theorem RoundTrip.csrrw (rd : BitVec 5) (rs1 : BitVec 5) (csr : BitVec 12) : RoundTrip.Statement (.csrrw rd rs1 csr) := by
  intro u _ _ h
  obtain rfl := Option.some.inj h
  simp [decode, decodeSystem]

theorem RoundTrip.csrrs (rd : BitVec 5) (rs1 : BitVec 5) (csr : BitVec 12) : RoundTrip.Statement (.csrrs rd rs1 csr) := by
  intro u _ _ h
  obtain rfl := Option.some.inj h
  simp [decode, decodeSystem]

theorem RoundTrip.csrrc (rd : BitVec 5) (rs1 : BitVec 5) (csr : BitVec 12) : RoundTrip.Statement (.csrrc rd rs1 csr) := by
  intro u _ _ h
  obtain rfl := Option.some.inj h
  simp [decode, decodeSystem]

theorem RoundTrip.csrrwi (rd : BitVec 5) (uimm : BitVec 5) (csr : BitVec 12) : RoundTrip.Statement (.csrrwi rd uimm csr) := by
  intro u _ _ h
  obtain rfl := Option.some.inj h
  simp [decode, decodeSystem]

theorem RoundTrip.csrrsi (rd : BitVec 5) (uimm : BitVec 5) (csr : BitVec 12) : RoundTrip.Statement (.csrrsi rd uimm csr) := by
  intro u _ _ h
  obtain rfl := Option.some.inj h
  simp [decode, decodeSystem]

theorem RoundTrip.csrrci (rd : BitVec 5) (uimm : BitVec 5) (csr : BitVec 12) : RoundTrip.Statement (.csrrci rd uimm csr) := by
  intro u _ _ h
  obtain rfl := Option.some.inj h
  simp [decode, decodeSystem]

theorem RoundTrip.flw (rd : BitVec 5) (rs1 : BitVec 5) (imm : BitVec 12) : RoundTrip.Statement (.flw rd rs1 imm) := by
  intro u _ _ h
  obtain rfl := Option.some.inj h
  simp [decode, decodeLoadFp]

theorem RoundTrip.fsw (rs2 : BitVec 5) (rs1 : BitVec 5) (imm : BitVec 12) : RoundTrip.Statement (.fsw rs2 rs1 imm) := by
  intro u _ _ h
  obtain rfl := Option.some.inj h
  simp [decode, decodeStoreFp, offset_store]

theorem RoundTrip.fmaddS (rd : BitVec 5) (rs1 : BitVec 5) (rs2 : BitVec 5) (rs3 : BitVec 5) (rm : BitVec 3) : RoundTrip.Statement (.fmaddS rd rs1 rs2 rs3 rm) := by
  intro u _ hw h
  obtain rfl := Option.some.inj h
  have hw : okFRounding rm = true := hw
  simp [decode, decodeMadd, check, hw]

theorem RoundTrip.fmsubS (rd : BitVec 5) (rs1 : BitVec 5) (rs2 : BitVec 5) (rs3 : BitVec 5) (rm : BitVec 3) : RoundTrip.Statement (.fmsubS rd rs1 rs2 rs3 rm) := by
  intro u _ hw h
  obtain rfl := Option.some.inj h
  have hw : okFRounding rm = true := hw
  simp [decode, decodeMsub, check, hw]

theorem RoundTrip.fnmsubS (rd : BitVec 5) (rs1 : BitVec 5) (rs2 : BitVec 5) (rs3 : BitVec 5) (rm : BitVec 3) : RoundTrip.Statement (.fnmsubS rd rs1 rs2 rs3 rm) := by
  intro u _ hw h
  obtain rfl := Option.some.inj h
  have hw : okFRounding rm = true := hw
  simp [decode, decodeNmsub, check, hw]

theorem RoundTrip.fnmaddS (rd : BitVec 5) (rs1 : BitVec 5) (rs2 : BitVec 5) (rs3 : BitVec 5) (rm : BitVec 3) : RoundTrip.Statement (.fnmaddS rd rs1 rs2 rs3 rm) := by
  intro u _ hw h
  obtain rfl := Option.some.inj h
  have hw : okFRounding rm = true := hw
  simp [decode, decodeNmadd, check, hw]

theorem RoundTrip.faddS (rd : BitVec 5) (rs1 : BitVec 5) (rs2 : BitVec 5) (rm : BitVec 3) : RoundTrip.Statement (.faddS rd rs1 rs2 rm) := by
  intro u _ hw h
  obtain rfl := Option.some.inj h
  have hw : okFRounding rm = true := hw
  simp [decode, decodeOpFp, check, hw]

theorem RoundTrip.fsubS (rd : BitVec 5) (rs1 : BitVec 5) (rs2 : BitVec 5) (rm : BitVec 3) : RoundTrip.Statement (.fsubS rd rs1 rs2 rm) := by
  intro u _ hw h
  obtain rfl := Option.some.inj h
  have hw : okFRounding rm = true := hw
  simp [decode, decodeOpFp, check, hw]

theorem RoundTrip.fmulS (rd : BitVec 5) (rs1 : BitVec 5) (rs2 : BitVec 5) (rm : BitVec 3) : RoundTrip.Statement (.fmulS rd rs1 rs2 rm) := by
  intro u _ hw h
  obtain rfl := Option.some.inj h
  have hw : okFRounding rm = true := hw
  simp [decode, decodeOpFp, check, hw]

theorem RoundTrip.fdivS (rd : BitVec 5) (rs1 : BitVec 5) (rs2 : BitVec 5) (rm : BitVec 3) : RoundTrip.Statement (.fdivS rd rs1 rs2 rm) := by
  intro u _ hw h
  obtain rfl := Option.some.inj h
  have hw : okFRounding rm = true := hw
  simp [decode, decodeOpFp, check, hw]

theorem RoundTrip.fsqrtS (rd : BitVec 5) (rs1 : BitVec 5) (rm : BitVec 3) : RoundTrip.Statement (.fsqrtS rd rs1 rm) := by
  intro u _ hw h
  obtain rfl := Option.some.inj h
  have hw : okFRounding rm = true := hw
  simp [decode, decodeOpFp, check, hw]

theorem RoundTrip.fsgnjS (rd : BitVec 5) (rs1 : BitVec 5) (rs2 : BitVec 5) : RoundTrip.Statement (.fsgnjS rd rs1 rs2) := by
  intro u _ _ h
  obtain rfl := Option.some.inj h
  simp [decode, decodeOpFp]

theorem RoundTrip.fsgnjnS (rd : BitVec 5) (rs1 : BitVec 5) (rs2 : BitVec 5) : RoundTrip.Statement (.fsgnjnS rd rs1 rs2) := by
  intro u _ _ h
  obtain rfl := Option.some.inj h
  simp [decode, decodeOpFp]

theorem RoundTrip.fsgnjxS (rd : BitVec 5) (rs1 : BitVec 5) (rs2 : BitVec 5) : RoundTrip.Statement (.fsgnjxS rd rs1 rs2) := by
  intro u _ _ h
  obtain rfl := Option.some.inj h
  simp [decode, decodeOpFp]

theorem RoundTrip.fminS (rd : BitVec 5) (rs1 : BitVec 5) (rs2 : BitVec 5) : RoundTrip.Statement (.fminS rd rs1 rs2) := by
  intro u _ _ h
  obtain rfl := Option.some.inj h
  simp [decode, decodeOpFp]

theorem RoundTrip.fmaxS (rd : BitVec 5) (rs1 : BitVec 5) (rs2 : BitVec 5) : RoundTrip.Statement (.fmaxS rd rs1 rs2) := by
  intro u _ _ h
  obtain rfl := Option.some.inj h
  simp [decode, decodeOpFp]

theorem RoundTrip.fleS (rd : BitVec 5) (rs1 : BitVec 5) (rs2 : BitVec 5) : RoundTrip.Statement (.fleS rd rs1 rs2) := by
  intro u _ _ h
  obtain rfl := Option.some.inj h
  simp [decode, decodeOpFp]

theorem RoundTrip.fltS (rd : BitVec 5) (rs1 : BitVec 5) (rs2 : BitVec 5) : RoundTrip.Statement (.fltS rd rs1 rs2) := by
  intro u _ _ h
  obtain rfl := Option.some.inj h
  simp [decode, decodeOpFp]

theorem RoundTrip.feqS (rd : BitVec 5) (rs1 : BitVec 5) (rs2 : BitVec 5) : RoundTrip.Statement (.feqS rd rs1 rs2) := by
  intro u _ _ h
  obtain rfl := Option.some.inj h
  simp [decode, decodeOpFp]

theorem RoundTrip.fcvtWS (rd : BitVec 5) (rs1 : BitVec 5) (rm : BitVec 3) : RoundTrip.Statement (.fcvtWS rd rs1 rm) := by
  intro u _ hw h
  obtain rfl := Option.some.inj h
  have hw : okFRounding rm = true := hw
  simp [decode, decodeOpFp, check, hw]

theorem RoundTrip.fcvtWuS (rd : BitVec 5) (rs1 : BitVec 5) (rm : BitVec 3) : RoundTrip.Statement (.fcvtWuS rd rs1 rm) := by
  intro u _ hw h
  obtain rfl := Option.some.inj h
  have hw : okFRounding rm = true := hw
  simp [decode, decodeOpFp, check, hw]

theorem RoundTrip.fcvtLS (rd : BitVec 5) (rs1 : BitVec 5) (rm : BitVec 3) : RoundTrip.Statement (.fcvtLS rd rs1 rm) := by
  intro u _ hw h
  obtain rfl := Option.some.inj h
  have hw : okFRounding rm = true := hw
  simp [decode, decodeOpFp, check, hw]

theorem RoundTrip.fcvtLuS (rd : BitVec 5) (rs1 : BitVec 5) (rm : BitVec 3) : RoundTrip.Statement (.fcvtLuS rd rs1 rm) := by
  intro u _ hw h
  obtain rfl := Option.some.inj h
  have hw : okFRounding rm = true := hw
  simp [decode, decodeOpFp, check, hw]

theorem RoundTrip.fcvtSW (rd : BitVec 5) (rs1 : BitVec 5) (rm : BitVec 3) : RoundTrip.Statement (.fcvtSW rd rs1 rm) := by
  intro u _ hw h
  obtain rfl := Option.some.inj h
  have hw : okFRounding rm = true := hw
  simp [decode, decodeOpFp, check, hw]

theorem RoundTrip.fcvtSWu (rd : BitVec 5) (rs1 : BitVec 5) (rm : BitVec 3) : RoundTrip.Statement (.fcvtSWu rd rs1 rm) := by
  intro u _ hw h
  obtain rfl := Option.some.inj h
  have hw : okFRounding rm = true := hw
  simp [decode, decodeOpFp, check, hw]

theorem RoundTrip.fcvtSL (rd : BitVec 5) (rs1 : BitVec 5) (rm : BitVec 3) : RoundTrip.Statement (.fcvtSL rd rs1 rm) := by
  intro u _ hw h
  obtain rfl := Option.some.inj h
  have hw : okFRounding rm = true := hw
  simp [decode, decodeOpFp, check, hw]

theorem RoundTrip.fcvtSLu (rd : BitVec 5) (rs1 : BitVec 5) (rm : BitVec 3) : RoundTrip.Statement (.fcvtSLu rd rs1 rm) := by
  intro u _ hw h
  obtain rfl := Option.some.inj h
  have hw : okFRounding rm = true := hw
  simp [decode, decodeOpFp, check, hw]

theorem RoundTrip.fmvXW (rd : BitVec 5) (rs1 : BitVec 5) : RoundTrip.Statement (.fmvXW rd rs1) := by
  intro u _ _ h
  obtain rfl := Option.some.inj h
  simp [decode, decodeOpFp]

theorem RoundTrip.fclassS (rd : BitVec 5) (rs1 : BitVec 5) : RoundTrip.Statement (.fclassS rd rs1) := by
  intro u _ _ h
  obtain rfl := Option.some.inj h
  simp [decode, decodeOpFp]

theorem RoundTrip.fmvWX (rd : BitVec 5) (rs1 : BitVec 5) : RoundTrip.Statement (.fmvWX rd rs1) := by
  intro u _ _ h
  obtain rfl := Option.some.inj h
  simp [decode, decodeOpFp]

theorem RoundTrip.illegalInstruction (word : BitVec 32) : RoundTrip.Statement (.illegalInstruction word) := by
  intro w hn
  exact absurd rfl (hn word)

theorem RoundTrip.hstart (rd : BitVec 5) (rs1 : BitVec 5) (rs2 : BitVec 5) : RoundTrip.Statement (.hstart rd rs1 rs2) := by
  intro u _ _ h
  obtain rfl := Option.some.inj h
  simp [decode, decodeCtx]

theorem RoundTrip.hwait (rs1 : BitVec 5) : RoundTrip.Statement (.hwait rs1) := by
  intro u _ _ h
  obtain rfl := Option.some.inj h
  simp [decode, decodeCtx, check]

theorem RoundTrip.hkill (rs1 : BitVec 5) : RoundTrip.Statement (.hkill rs1) := by
  intro u _ _ h
  obtain rfl := Option.some.inj h
  simp [decode, decodeCtx, check]

theorem RoundTrip.pnext (rd : BitVec 5) : RoundTrip.Statement (.pnext rd) := by
  intro u _ _ h
  obtain rfl := Option.some.inj h
  simp [decode, decodeCtx, check]

theorem RoundTrip.pclr (kind : BitVec 5) (reg : BitVec 5) : RoundTrip.Statement (.pclr kind reg) := by
  intro u _ hw h
  obtain rfl := Option.some.inj h
  have hw : okKind kind reg = true := hw
  simp [decode, decodeCtx, check, hw]

theorem RoundTrip.ptest (rd : BitVec 5) (kind : BitVec 5) (reg : BitVec 5) : RoundTrip.Statement (.ptest rd kind reg) := by
  intro u _ hw h
  obtain rfl := Option.some.inj h
  have hw : okKind kind reg = true := hw
  simp [decode, decodeCtx, check, hw]

theorem RoundTrip.nput (rs1 : BitVec 5) (rs2 : BitVec 5) : RoundTrip.Statement (.nput rs1 rs2) := by
  intro u _ _ h
  obtain rfl := Option.some.inj h
  simp [decode, decodeCtx, check]

theorem RoundTrip.ctxSave (rd : BitVec 5) (rs1 : BitVec 5) (rs2 : BitVec 5) : RoundTrip.Statement (.ctxSave rd rs1 rs2) := by
  intro u _ _ h
  obtain rfl := Option.some.inj h
  simp [decode, decodeCtx]

theorem RoundTrip.ctxLoad (rd : BitVec 5) (rs1 : BitVec 5) (rs2 : BitVec 5) : RoundTrip.Statement (.ctxLoad rd rs1 rs2) := by
  intro u _ _ h
  obtain rfl := Option.some.inj h
  simp [decode, decodeCtx]

theorem RoundTrip.barInit (rs1 : BitVec 5) : RoundTrip.Statement (.barInit rs1) := by
  intro u _ _ h
  obtain rfl := Option.some.inj h
  simp [decode, decodeCtx, check]

theorem RoundTrip.barArr (rd : BitVec 5) : RoundTrip.Statement (.barArr rd) := by
  intro u _ _ h
  obtain rfl := Option.some.inj h
  simp [decode, decodeCtx, check]

theorem RoundTrip.barWait (rs1 : BitVec 5) : RoundTrip.Statement (.barWait rs1) := by
  intro u _ _ h
  obtain rfl := Option.some.inj h
  simp [decode, decodeCtx, check]

theorem RoundTrip.barAwt (rd : BitVec 5) : RoundTrip.Statement (.barAwt rd) := by
  intro u _ _ h
  obtain rfl := Option.some.inj h
  simp [decode, decodeCtx, check]

theorem RoundTrip.barDrop (rd : BitVec 5) : RoundTrip.Statement (.barDrop rd) := by
  intro u _ _ h
  obtain rfl := Option.some.inj h
  simp [decode, decodeCtx, check]

theorem RoundTrip.domSet (rd : BitVec 5) (rs1 : BitVec 5) (rs2 : BitVec 5) : RoundTrip.Statement (.domSet rd rs1 rs2) := by
  intro u _ _ h
  obtain rfl := Option.some.inj h
  simp [decode, decodeCtx]

theorem RoundTrip.domGet (rd : BitVec 5) (rs1 : BitVec 5) : RoundTrip.Statement (.domGet rd rs1) := by
  intro u _ _ h
  obtain rfl := Option.some.inj h
  simp [decode, decodeCtx, check]

theorem RoundTrip.xchBeg (rs1 : BitVec 5) : RoundTrip.Statement (.xchBeg rs1) := by
  intro u _ _ h
  obtain rfl := Option.some.inj h
  simp [decode, decodeCtx, check]

theorem RoundTrip.xsend (rs1 : BitVec 5) (vs : BitVec 4) : RoundTrip.Statement (.xsend rs1 vs) := by
  intro u _ _ h
  obtain rfl := Option.some.inj h
  simp [decode, decodeCtx, check]

theorem RoundTrip.xrecv (rd : BitVec 5) (rs1 : BitVec 5) : RoundTrip.Statement (.xrecv rd rs1) := by
  intro u _ _ h
  obtain rfl := Option.some.inj h
  simp [decode, decodeCtx, check]

theorem RoundTrip.qtrap (rs1 : BitVec 5) (code : BitVec 12) : RoundTrip.Statement (.qtrap rs1 code) := by
  intro u _ _ h
  obtain rfl := Option.some.inj h
  simp [decode, decodeCtx, check]

theorem RoundTrip.amAdd (rd : BitVec 5) (rs1 : BitVec 5) (rs2 : BitVec 5) (ord : BitVec 3) (w : BitVec 1) (sc : BitVec 2) : RoundTrip.Statement (.amAdd rd rs1 rs2 ord w sc) := by
  intro u _ hw h
  obtain rfl := Option.some.inj h
  have ho : okOrdering ord sc = true := hw
  simp [decode, decodeMem, decodeAtomic, check, ho, okOrdering_cases ho]

theorem RoundTrip.amAnd (rd : BitVec 5) (rs1 : BitVec 5) (rs2 : BitVec 5) (ord : BitVec 3) (w : BitVec 1) (sc : BitVec 2) : RoundTrip.Statement (.amAnd rd rs1 rs2 ord w sc) := by
  intro u _ hw h
  obtain rfl := Option.some.inj h
  have ho : okOrdering ord sc = true := hw
  simp [decode, decodeMem, decodeAtomic, check, ho, okOrdering_cases ho]

theorem RoundTrip.amOr (rd : BitVec 5) (rs1 : BitVec 5) (rs2 : BitVec 5) (ord : BitVec 3) (w : BitVec 1) (sc : BitVec 2) : RoundTrip.Statement (.amOr rd rs1 rs2 ord w sc) := by
  intro u _ hw h
  obtain rfl := Option.some.inj h
  have ho : okOrdering ord sc = true := hw
  simp [decode, decodeMem, decodeAtomic, check, ho, okOrdering_cases ho]

theorem RoundTrip.amXor (rd : BitVec 5) (rs1 : BitVec 5) (rs2 : BitVec 5) (ord : BitVec 3) (w : BitVec 1) (sc : BitVec 2) : RoundTrip.Statement (.amXor rd rs1 rs2 ord w sc) := by
  intro u _ hw h
  obtain rfl := Option.some.inj h
  have ho : okOrdering ord sc = true := hw
  simp [decode, decodeMem, decodeAtomic, check, ho, okOrdering_cases ho]

theorem RoundTrip.amMin (rd : BitVec 5) (rs1 : BitVec 5) (rs2 : BitVec 5) (ord : BitVec 3) (w : BitVec 1) (sc : BitVec 2) : RoundTrip.Statement (.amMin rd rs1 rs2 ord w sc) := by
  intro u _ hw h
  obtain rfl := Option.some.inj h
  have ho : okOrdering ord sc = true := hw
  simp [decode, decodeMem, decodeAtomic, check, ho, okOrdering_cases ho]

theorem RoundTrip.amMax (rd : BitVec 5) (rs1 : BitVec 5) (rs2 : BitVec 5) (ord : BitVec 3) (w : BitVec 1) (sc : BitVec 2) : RoundTrip.Statement (.amMax rd rs1 rs2 ord w sc) := by
  intro u _ hw h
  obtain rfl := Option.some.inj h
  have ho : okOrdering ord sc = true := hw
  simp [decode, decodeMem, decodeAtomic, check, ho, okOrdering_cases ho]

theorem RoundTrip.amMinn (rd : BitVec 5) (rs1 : BitVec 5) (rs2 : BitVec 5) (ord : BitVec 3) (w : BitVec 1) (sc : BitVec 2) : RoundTrip.Statement (.amMinn rd rs1 rs2 ord w sc) := by
  intro u _ hw h
  obtain rfl := Option.some.inj h
  have ho : okOrdering ord sc = true := hw
  simp [decode, decodeMem, decodeAtomic, check, ho, okOrdering_cases ho]

theorem RoundTrip.amMaxn (rd : BitVec 5) (rs1 : BitVec 5) (rs2 : BitVec 5) (ord : BitVec 3) (w : BitVec 1) (sc : BitVec 2) : RoundTrip.Statement (.amMaxn rd rs1 rs2 ord w sc) := by
  intro u _ hw h
  obtain rfl := Option.some.inj h
  have ho : okOrdering ord sc = true := hw
  simp [decode, decodeMem, decodeAtomic, check, ho, okOrdering_cases ho]

theorem RoundTrip.amSwp (rd : BitVec 5) (rs1 : BitVec 5) (rs2 : BitVec 5) (ord : BitVec 3) (w : BitVec 1) (sc : BitVec 2) : RoundTrip.Statement (.amSwp rd rs1 rs2 ord w sc) := by
  intro u _ hw h
  obtain rfl := Option.some.inj h
  have ho : okOrdering ord sc = true := hw
  simp [decode, decodeMem, decodeAtomic, check, ho, okOrdering_cases ho]

theorem RoundTrip.amCas (rd : BitVec 5) (rs1 : BitVec 5) (rs2 : BitVec 5) (ord : BitVec 3) (w : BitVec 1) (sc : BitVec 2) : RoundTrip.Statement (.amCas rd rs1 rs2 ord w sc) := by
  intro u _ hw h
  obtain rfl := Option.some.inj h
  have ho : okOrdering ord sc = true := hw
  simp [decode, decodeMem, decodeAtomic, check, ho, okOrdering_cases ho]

theorem RoundTrip.amFadd (rd : BitVec 5) (rs1 : BitVec 5) (rs2 : BitVec 5) (ord : BitVec 3) (w : BitVec 1) (sc : BitVec 2) : RoundTrip.Statement (.amFadd rd rs1 rs2 ord w sc) := by
  intro u _ hw h
  obtain rfl := Option.some.inj h
  have ho : okOrdering ord sc = true := hw
  simp [decode, decodeMem, decodeAtomic, check, ho, okOrdering_cases ho]

theorem RoundTrip.amCasQ (rd : BitVec 5) (rs1 : BitVec 5) (rs2 : BitVec 5) (ord : BitVec 3) (sc : BitVec 2) : RoundTrip.Statement (.amCasQ rd rs1 rs2 ord sc) := by
  intro u _ hw h
  obtain rfl := Option.some.inj h
  obtain ⟨⟨ho, h1⟩, h2⟩ : (okOrdering ord sc = true ∧ okPair rd = true) ∧ okPair rs2 = true := by
    have hw : (okOrdering ord sc && okPair rd && okPair rs2) = true := hw
    simpa only [Bool.and_eq_true] using hw
  simp [decode, decodeMem, decodeAtomic, check, ho, h1, h2, okOrdering_cases ho]

theorem RoundTrip.vld (v : BitVec 4) (rs1 : BitVec 5) (et : BitVec 3) (km : BitVec 2) (h : BitVec 1) : RoundTrip.Statement (.vld v rs1 et km h) := by
  intro u _ _ h
  obtain rfl := Option.some.inj h
  simp [decode, decodeMem, check]

theorem RoundTrip.vlds (v : BitVec 4) (rs1 : BitVec 5) (rs2 : BitVec 5) (et : BitVec 3) (km : BitVec 2) (h : BitVec 1) : RoundTrip.Statement (.vlds v rs1 rs2 et km h) := by
  intro u _ _ h
  obtain rfl := Option.some.inj h
  simp [decode, decodeMem]

theorem RoundTrip.vldx (v : BitVec 4) (rs1 : BitVec 5) (vs : BitVec 4) (et : BitVec 3) (km : BitVec 2) (h : BitVec 1) : RoundTrip.Statement (.vldx v rs1 vs et km h) := by
  intro u _ _ h
  obtain rfl := Option.some.inj h
  simp [decode, decodeMem, check]

theorem RoundTrip.vbc (v : BitVec 4) (rs1 : BitVec 5) (et : BitVec 3) (km : BitVec 2) (h : BitVec 1) : RoundTrip.Statement (.vbc v rs1 et km h) := by
  intro u _ _ h
  obtain rfl := Option.some.inj h
  simp [decode, decodeMem, check]

theorem RoundTrip.vst (v : BitVec 4) (rs1 : BitVec 5) (et : BitVec 3) (km : BitVec 2) (h : BitVec 1) : RoundTrip.Statement (.vst v rs1 et km h) := by
  intro u _ _ h
  obtain rfl := Option.some.inj h
  simp [decode, decodeMem, check]

theorem RoundTrip.vsts (v : BitVec 4) (rs1 : BitVec 5) (rs2 : BitVec 5) (et : BitVec 3) (km : BitVec 2) (h : BitVec 1) : RoundTrip.Statement (.vsts v rs1 rs2 et km h) := by
  intro u _ _ h
  obtain rfl := Option.some.inj h
  simp [decode, decodeMem]

theorem RoundTrip.vstx (v : BitVec 4) (rs1 : BitVec 5) (vs : BitVec 4) (et : BitVec 3) (km : BitVec 2) (h : BitVec 1) : RoundTrip.Statement (.vstx v rs1 vs et km h) := by
  intro u _ _ h
  obtain rfl := Option.some.inj h
  simp [decode, decodeMem, check]

theorem RoundTrip.gwait (rd : BitVec 5) (rs1 : BitVec 5) (rs2 : BitVec 5) (rs3 : BitVec 5) : RoundTrip.Statement (.gwait rd rs1 rs2 rs3) := by
  intro u _ _ h
  obtain rfl := Option.some.inj h
  simp [decode, decodeMem]

theorem RoundTrip.cpG2g (rd : BitVec 5) (rs1 : BitVec 5) (rs2 : BitVec 5) (rs3 : BitVec 5) : RoundTrip.Statement (.cpG2g rd rs1 rs2 rs3) := by
  intro u _ _ h
  obtain rfl := Option.some.inj h
  simp [decode, decodeMem]

theorem RoundTrip.cp2d (rd : BitVec 5) (rs1 : BitVec 5) (rs2 : BitVec 5) (rs3 : BitVec 5) : RoundTrip.Statement (.cp2d rd rs1 rs2 rs3) := by
  intro u _ _ h
  obtain rfl := Option.some.inj h
  simp [decode, decodeMem]

theorem RoundTrip.cpG2s (rd : BitVec 5) (rs1 : BitVec 5) (rs2 : BitVec 5) (rs3 : BitVec 5) : RoundTrip.Statement (.cpG2s rd rs1 rs2 rs3) := by
  intro u _ _ h
  obtain rfl := Option.some.inj h
  simp [decode, decodeMem]

theorem RoundTrip.cpS2g (rd : BitVec 5) (rs1 : BitVec 5) (rs2 : BitVec 5) (rs3 : BitVec 5) : RoundTrip.Statement (.cpS2g rd rs1 rs2 rs3) := by
  intro u _ _ h
  obtain rfl := Option.some.inj h
  simp [decode, decodeMem]

theorem RoundTrip.cpS2s (rd : BitVec 5) (rs1 : BitVec 5) (rs2 : BitVec 5) (rs3 : BitVec 5) : RoundTrip.Statement (.cpS2s rd rs1 rs2 rs3) := by
  intro u _ _ h
  obtain rfl := Option.some.inj h
  simp [decode, decodeMem]

theorem RoundTrip.redAdd (rs1 : BitVec 5) (rs2 : BitVec 5) (w : BitVec 1) : RoundTrip.Statement (.redAdd rs1 rs2 w) := by
  intro u _ _ h
  obtain rfl := Option.some.inj h
  simp [decode, decodeMem, check]

theorem RoundTrip.redMin (rs1 : BitVec 5) (rs2 : BitVec 5) (w : BitVec 1) : RoundTrip.Statement (.redMin rs1 rs2 w) := by
  intro u _ _ h
  obtain rfl := Option.some.inj h
  simp [decode, decodeMem, check]

theorem RoundTrip.redMax (rs1 : BitVec 5) (rs2 : BitVec 5) (w : BitVec 1) : RoundTrip.Statement (.redMax rs1 rs2 w) := by
  intro u _ _ h
  obtain rfl := Option.some.inj h
  simp [decode, decodeMem, check]

theorem RoundTrip.redFadd (rs1 : BitVec 5) (rs2 : BitVec 5) (w : BitVec 1) : RoundTrip.Statement (.redFadd rs1 rs2 w) := by
  intro u _ _ h
  obtain rfl := Option.some.inj h
  simp [decode, decodeMem, check]

theorem RoundTrip.fncAcq (scope : BitVec 5) : RoundTrip.Statement (.fncAcq scope) := by
  intro u _ hw h
  obtain rfl := Option.some.inj h
  have hw : okScope scope = true := hw
  simp [decode, decodeMem, check, hw]

theorem RoundTrip.fncRel (scope : BitVec 5) : RoundTrip.Statement (.fncRel scope) := by
  intro u _ hw h
  obtain rfl := Option.some.inj h
  have hw : okScope scope = true := hw
  simp [decode, decodeMem, check, hw]

theorem RoundTrip.fncFull (scope : BitVec 5) : RoundTrip.Statement (.fncFull scope) := by
  intro u _ hw h
  obtain rfl := Option.some.inj h
  have hw : okScope scope = true := hw
  simp [decode, decodeMem, check, hw]

theorem RoundTrip.gsig (rs1 : BitVec 5) (rs2 : BitVec 5) : RoundTrip.Statement (.gsig rs1 rs2) := by
  intro u _ _ h
  obtain rfl := Option.some.inj h
  simp [decode, decodeMem, check]

theorem RoundTrip.tkGet (rd : BitVec 5) (rs1 : BitVec 5) : RoundTrip.Statement (.tkGet rd rs1) := by
  intro u _ _ h
  obtain rfl := Option.some.inj h
  simp [decode, decodeMem, check]

theorem RoundTrip.tkWait (rs1 : BitVec 5) (rs2 : BitVec 5) : RoundTrip.Statement (.tkWait rs1 rs2) := by
  intro u _ _ h
  obtain rfl := Option.some.inj h
  simp [decode, decodeMem, check]

theorem RoundTrip.tkAdv (rs1 : BitVec 5) : RoundTrip.Statement (.tkAdv rs1) := by
  intro u _ _ h
  obtain rfl := Option.some.inj h
  simp [decode, decodeMem, check]

theorem RoundTrip.lkAcq (rd : BitVec 5) (rs1 : BitVec 5) (rs2 : BitVec 5) : RoundTrip.Statement (.lkAcq rd rs1 rs2) := by
  intro u _ _ h
  obtain rfl := Option.some.inj h
  simp [decode, decodeMem]

theorem RoundTrip.lkTry (rd : BitVec 5) (rs1 : BitVec 5) : RoundTrip.Statement (.lkTry rd rs1) := by
  intro u _ _ h
  obtain rfl := Option.some.inj h
  simp [decode, decodeMem, check]

theorem RoundTrip.lkRel (rs1 : BitVec 5) : RoundTrip.Statement (.lkRel rs1) := by
  intro u _ _ h
  obtain rfl := Option.some.inj h
  simp [decode, decodeMem, check]

theorem RoundTrip.lkStat (rd : BitVec 5) (rs1 : BitVec 5) : RoundTrip.Statement (.lkStat rd rs1) := by
  intro u _ _ h
  obtain rfl := Option.some.inj h
  simp [decode, decodeMem, check]

theorem RoundTrip.txBeg (rd : BitVec 5) : RoundTrip.Statement (.txBeg rd) := by
  intro u _ _ h
  obtain rfl := Option.some.inj h
  simp [decode, decodeMem, check]

theorem RoundTrip.txAbt (rs1 : BitVec 5) : RoundTrip.Statement (.txAbt rs1) := by
  intro u _ _ h
  obtain rfl := Option.some.inj h
  simp [decode, decodeMem, check]

theorem RoundTrip.txStat (rd : BitVec 5) : RoundTrip.Statement (.txStat rd) := by
  intro u _ _ h
  obtain rfl := Option.some.inj h
  simp [decode, decodeMem, check]

theorem RoundTrip.cpPub (rd : BitVec 5) (rs1 : BitVec 5) : RoundTrip.Statement (.cpPub rd rs1) := by
  intro u _ _ h
  obtain rfl := Option.some.inj h
  simp [decode, decodeMem, check]

theorem RoundTrip.cpCancel (rd : BitVec 5) : RoundTrip.Statement (.cpCancel rd) := by
  intro u _ _ h
  obtain rfl := Option.some.inj h
  simp [decode, decodeMem, check]

theorem RoundTrip.gth (rd : BitVec 5) (rs1 : BitVec 5) (rs2 : BitVec 5) : RoundTrip.Statement (.gth rd rs1 rs2) := by
  intro u _ _ h
  obtain rfl := Option.some.inj h
  simp [decode, decodeMem]

theorem RoundTrip.sct (rd : BitVec 5) (rs1 : BitVec 5) (rs2 : BitVec 5) : RoundTrip.Statement (.sct rd rs1 rs2) := by
  intro u _ _ h
  obtain rfl := Option.some.inj h
  simp [decode, decodeMem]

theorem RoundTrip.clWb (rs1 : BitVec 5) : RoundTrip.Statement (.clWb rs1) := by
  intro u _ _ h
  obtain rfl := Option.some.inj h
  simp [decode, decodeMem, check]

theorem RoundTrip.clInv (rs1 : BitVec 5) : RoundTrip.Statement (.clInv rs1) := by
  intro u _ _ h
  obtain rfl := Option.some.inj h
  simp [decode, decodeMem, check]

theorem RoundTrip.clFlush (rs1 : BitVec 5) : RoundTrip.Statement (.clFlush rs1) := by
  intro u _ _ h
  obtain rfl := Option.some.inj h
  simp [decode, decodeMem, check]

theorem RoundTrip.tlbInv (rs1 : BitVec 5) (rs2 : BitVec 5) : RoundTrip.Statement (.tlbInv rs1 rs2) := by
  intro u _ _ h
  obtain rfl := Option.some.inj h
  simp [decode, decodeMem, check]

theorem RoundTrip.pgMig (rd : BitVec 5) (rs1 : BitVec 5) (rs2 : BitVec 5) : RoundTrip.Statement (.pgMig rd rs1 rs2) := by
  intro u _ _ h
  obtain rfl := Option.some.inj h
  simp [decode, decodeMem]

theorem RoundTrip.pgStat (rd : BitVec 5) (rs1 : BitVec 5) : RoundTrip.Statement (.pgStat rd rs1) := by
  intro u _ _ h
  obtain rfl := Option.some.inj h
  simp [decode, decodeMem, check]

theorem RoundTrip.vadd (vd : BitVec 4) (vs1 : BitVec 4) (vs2 : BitVec 4) (ft : BitVec 2) (rm : BitVec 3) (km : BitVec 2) (h : BitVec 1) : RoundTrip.Statement (.vadd vd vs1 vs2 ft rm km h) := by
  intro u _ hw h
  obtain rfl := Option.some.inj h
  have hw : okRounding rm = true := hw
  simp [decode, decodeVec, check, hw]

theorem RoundTrip.vsub (vd : BitVec 4) (vs1 : BitVec 4) (vs2 : BitVec 4) (ft : BitVec 2) (rm : BitVec 3) (km : BitVec 2) (h : BitVec 1) : RoundTrip.Statement (.vsub vd vs1 vs2 ft rm km h) := by
  intro u _ hw h
  obtain rfl := Option.some.inj h
  have hw : okRounding rm = true := hw
  simp [decode, decodeVec, check, hw]

theorem RoundTrip.vmul (vd : BitVec 4) (vs1 : BitVec 4) (vs2 : BitVec 4) (ft : BitVec 2) (rm : BitVec 3) (km : BitVec 2) (h : BitVec 1) : RoundTrip.Statement (.vmul vd vs1 vs2 ft rm km h) := by
  intro u _ hw h
  obtain rfl := Option.some.inj h
  have hw : okRounding rm = true := hw
  simp [decode, decodeVec, check, hw]

theorem RoundTrip.vdiv (vd : BitVec 4) (vs1 : BitVec 4) (vs2 : BitVec 4) (ft : BitVec 2) (rm : BitVec 3) (km : BitVec 2) (h : BitVec 1) : RoundTrip.Statement (.vdiv vd vs1 vs2 ft rm km h) := by
  intro u _ hw h
  obtain rfl := Option.some.inj h
  have hw : okRounding rm = true := hw
  simp [decode, decodeVec, check, hw]

theorem RoundTrip.vsqrt (vd : BitVec 4) (vs1 : BitVec 4) (ft : BitVec 2) (rm : BitVec 3) (km : BitVec 2) (h : BitVec 1) : RoundTrip.Statement (.vsqrt vd vs1 ft rm km h) := by
  intro u _ hw h
  obtain rfl := Option.some.inj h
  have hw : okRounding rm = true := hw
  simp [decode, decodeVec, check, hw]

theorem RoundTrip.vfma (vd : BitVec 4) (vs1 : BitVec 4) (vs2 : BitVec 4) (ft : BitVec 2) (rm : BitVec 3) (km : BitVec 2) (h : BitVec 1) : RoundTrip.Statement (.vfma vd vs1 vs2 ft rm km h) := by
  intro u _ hw h
  obtain rfl := Option.some.inj h
  have hw : okRounding rm = true := hw
  simp [decode, decodeVec, check, hw]

theorem RoundTrip.vfms (vd : BitVec 4) (vs1 : BitVec 4) (vs2 : BitVec 4) (ft : BitVec 2) (rm : BitVec 3) (km : BitVec 2) (h : BitVec 1) : RoundTrip.Statement (.vfms vd vs1 vs2 ft rm km h) := by
  intro u _ hw h
  obtain rfl := Option.some.inj h
  have hw : okRounding rm = true := hw
  simp [decode, decodeVec, check, hw]

theorem RoundTrip.vfnma (vd : BitVec 4) (vs1 : BitVec 4) (vs2 : BitVec 4) (ft : BitVec 2) (rm : BitVec 3) (km : BitVec 2) (h : BitVec 1) : RoundTrip.Statement (.vfnma vd vs1 vs2 ft rm km h) := by
  intro u _ hw h
  obtain rfl := Option.some.inj h
  have hw : okRounding rm = true := hw
  simp [decode, decodeVec, check, hw]

theorem RoundTrip.vmin (vd : BitVec 4) (vs1 : BitVec 4) (vs2 : BitVec 4) (ft : BitVec 2) (km : BitVec 2) (h : BitVec 1) : RoundTrip.Statement (.vmin vd vs1 vs2 ft km h) := by
  intro u _ _ h
  obtain rfl := Option.some.inj h
  simp [decode, decodeVec, check]

theorem RoundTrip.vmax (vd : BitVec 4) (vs1 : BitVec 4) (vs2 : BitVec 4) (ft : BitVec 2) (km : BitVec 2) (h : BitVec 1) : RoundTrip.Statement (.vmax vd vs1 vs2 ft km h) := by
  intro u _ _ h
  obtain rfl := Option.some.inj h
  simp [decode, decodeVec, check]

theorem RoundTrip.vabs (vd : BitVec 4) (vs1 : BitVec 4) (ft : BitVec 2) (km : BitVec 2) (h : BitVec 1) : RoundTrip.Statement (.vabs vd vs1 ft km h) := by
  intro u _ _ h
  obtain rfl := Option.some.inj h
  simp [decode, decodeVec, check]

theorem RoundTrip.vneg (vd : BitVec 4) (vs1 : BitVec 4) (ft : BitVec 2) (km : BitVec 2) (h : BitVec 1) : RoundTrip.Statement (.vneg vd vs1 ft km h) := by
  intro u _ _ h
  obtain rfl := Option.some.inj h
  simp [decode, decodeVec, check]

theorem RoundTrip.vcvt (vd : BitVec 4) (vs1 : BitVec 4) (sf : BitVec 4) (ft : BitVec 2) (rm : BitVec 3) (km : BitVec 2) (h : BitVec 1) : RoundTrip.Statement (.vcvt vd vs1 sf ft rm km h) := by
  intro u _ hw h
  obtain rfl := Option.some.inj h
  have hw := (show (okRounding rm && okSource sf) = true from hw)
  simp only [Bool.and_eq_true] at hw
  simp [decode, decodeVec, check, hw]

theorem RoundTrip.vredsum (vd : BitVec 4) (vs1 : BitVec 4) (ft : BitVec 2) (rm : BitVec 3) (km : BitVec 2) (h : BitVec 1) : RoundTrip.Statement (.vredsum vd vs1 ft rm km h) := by
  intro u _ hw h
  obtain rfl := Option.some.inj h
  have hw : okRounding rm = true := hw
  simp [decode, decodeVec, check, hw]

theorem RoundTrip.vredmin (vd : BitVec 4) (vs1 : BitVec 4) (ft : BitVec 2) (km : BitVec 2) (h : BitVec 1) : RoundTrip.Statement (.vredmin vd vs1 ft km h) := by
  intro u _ _ h
  obtain rfl := Option.some.inj h
  simp [decode, decodeVec, check]

theorem RoundTrip.vredmax (vd : BitVec 4) (vs1 : BitVec 4) (ft : BitVec 2) (km : BitVec 2) (h : BitVec 1) : RoundTrip.Statement (.vredmax vd vs1 ft km h) := by
  intro u _ _ h
  obtain rfl := Option.some.inj h
  simp [decode, decodeVec, check]

theorem RoundTrip.viadd (vd : BitVec 4) (vs1 : BitVec 4) (vs2 : BitVec 4) (et : BitVec 3) (km : BitVec 3) (h : BitVec 1) : RoundTrip.Statement (.viadd vd vs1 vs2 et km h) := by
  intro u _ hw h
  obtain rfl := Option.some.inj h
  have hw : okInteger et = true := hw
  simp [decode, decodeVec, check, hw]

theorem RoundTrip.visub (vd : BitVec 4) (vs1 : BitVec 4) (vs2 : BitVec 4) (et : BitVec 3) (km : BitVec 3) (h : BitVec 1) : RoundTrip.Statement (.visub vd vs1 vs2 et km h) := by
  intro u _ hw h
  obtain rfl := Option.some.inj h
  have hw : okInteger et = true := hw
  simp [decode, decodeVec, check, hw]

theorem RoundTrip.vimul (vd : BitVec 4) (vs1 : BitVec 4) (vs2 : BitVec 4) (et : BitVec 3) (km : BitVec 3) (h : BitVec 1) : RoundTrip.Statement (.vimul vd vs1 vs2 et km h) := by
  intro u _ hw h
  obtain rfl := Option.some.inj h
  have hw : okInteger et = true := hw
  simp [decode, decodeVec, check, hw]

theorem RoundTrip.vand (vd : BitVec 4) (vs1 : BitVec 4) (vs2 : BitVec 4) (et : BitVec 3) (km : BitVec 3) (h : BitVec 1) : RoundTrip.Statement (.vand vd vs1 vs2 et km h) := by
  intro u _ _ h
  obtain rfl := Option.some.inj h
  simp [decode, decodeVec]

theorem RoundTrip.vor (vd : BitVec 4) (vs1 : BitVec 4) (vs2 : BitVec 4) (et : BitVec 3) (km : BitVec 3) (h : BitVec 1) : RoundTrip.Statement (.vor vd vs1 vs2 et km h) := by
  intro u _ _ h
  obtain rfl := Option.some.inj h
  simp [decode, decodeVec]

theorem RoundTrip.vxor (vd : BitVec 4) (vs1 : BitVec 4) (vs2 : BitVec 4) (et : BitVec 3) (km : BitVec 3) (h : BitVec 1) : RoundTrip.Statement (.vxor vd vs1 vs2 et km h) := by
  intro u _ _ h
  obtain rfl := Option.some.inj h
  simp [decode, decodeVec]

theorem RoundTrip.vsll (vd : BitVec 4) (vs1 : BitVec 4) (vs2 : BitVec 4) (et : BitVec 3) (km : BitVec 3) (h : BitVec 1) : RoundTrip.Statement (.vsll vd vs1 vs2 et km h) := by
  intro u _ hw h
  obtain rfl := Option.some.inj h
  have hw : okInteger et = true := hw
  simp [decode, decodeVec, check, hw]

theorem RoundTrip.vsrl (vd : BitVec 4) (vs1 : BitVec 4) (vs2 : BitVec 4) (et : BitVec 3) (km : BitVec 3) (h : BitVec 1) : RoundTrip.Statement (.vsrl vd vs1 vs2 et km h) := by
  intro u _ hw h
  obtain rfl := Option.some.inj h
  have hw : okInteger et = true := hw
  simp [decode, decodeVec, check, hw]

theorem RoundTrip.vsra (vd : BitVec 4) (vs1 : BitVec 4) (vs2 : BitVec 4) (et : BitVec 3) (km : BitVec 3) (h : BitVec 1) : RoundTrip.Statement (.vsra vd vs1 vs2 et km h) := by
  intro u _ hw h
  obtain rfl := Option.some.inj h
  have hw : okInteger et = true := hw
  simp [decode, decodeVec, check, hw]

theorem RoundTrip.vcmpeq (kd : BitVec 3) (vs1 : BitVec 4) (vs2 : BitVec 4) (et : BitVec 3) (km : BitVec 3) (h : BitVec 1) : RoundTrip.Statement (.vcmpeq kd vs1 vs2 et km h) := by
  intro u _ _ h
  obtain rfl := Option.some.inj h
  simp [decode, decodeVec, check]

theorem RoundTrip.vcmpne (kd : BitVec 3) (vs1 : BitVec 4) (vs2 : BitVec 4) (et : BitVec 3) (km : BitVec 3) (h : BitVec 1) : RoundTrip.Statement (.vcmpne kd vs1 vs2 et km h) := by
  intro u _ _ h
  obtain rfl := Option.some.inj h
  simp [decode, decodeVec, check]

theorem RoundTrip.vcmplt (kd : BitVec 3) (vs1 : BitVec 4) (vs2 : BitVec 4) (et : BitVec 3) (km : BitVec 3) (h : BitVec 1) : RoundTrip.Statement (.vcmplt kd vs1 vs2 et km h) := by
  intro u _ _ h
  obtain rfl := Option.some.inj h
  simp [decode, decodeVec, check]

theorem RoundTrip.vcmple (kd : BitVec 3) (vs1 : BitVec 4) (vs2 : BitVec 4) (et : BitVec 3) (km : BitVec 3) (h : BitVec 1) : RoundTrip.Statement (.vcmple kd vs1 vs2 et km h) := by
  intro u _ _ h
  obtain rfl := Option.some.inj h
  simp [decode, decodeVec, check]

theorem RoundTrip.vcmpltn (kd : BitVec 3) (vs1 : BitVec 4) (vs2 : BitVec 4) (et : BitVec 3) (km : BitVec 3) (h : BitVec 1) : RoundTrip.Statement (.vcmpltn kd vs1 vs2 et km h) := by
  intro u _ _ h
  obtain rfl := Option.some.inj h
  simp [decode, decodeVec, check]

theorem RoundTrip.vperm (vd : BitVec 4) (vs1 : BitVec 4) (vs2 : BitVec 4) (et : BitVec 3) (km : BitVec 3) (h : BitVec 1) : RoundTrip.Statement (.vperm vd vs1 vs2 et km h) := by
  intro u _ _ h
  obtain rfl := Option.some.inj h
  simp [decode, decodeVec]

theorem RoundTrip.vslide (vd : BitVec 4) (vs1 : BitVec 4) (xs : BitVec 4) (et : BitVec 3) (km : BitVec 3) (h : BitVec 1) : RoundTrip.Statement (.vslide vd vs1 xs et km h) := by
  intro u _ _ h
  obtain rfl := Option.some.inj h
  simp [decode, decodeVec]

theorem RoundTrip.vzip (vd : BitVec 4) (vs1 : BitVec 4) (vs2 : BitVec 4) (et : BitVec 3) (km : BitVec 3) (h : BitVec 1) : RoundTrip.Statement (.vzip vd vs1 vs2 et km h) := by
  intro u _ _ h
  obtain rfl := Option.some.inj h
  simp [decode, decodeVec]

theorem RoundTrip.vunzip (vd : BitVec 4) (vs1 : BitVec 4) (vs2 : BitVec 4) (et : BitVec 3) (km : BitVec 3) (h : BitVec 1) : RoundTrip.Statement (.vunzip vd vs1 vs2 et km h) := by
  intro u _ _ h
  obtain rfl := Option.some.inj h
  simp [decode, decodeVec]

theorem RoundTrip.vmerge (vd : BitVec 4) (vs1 : BitVec 4) (vs2 : BitVec 4) (et : BitVec 3) (km : BitVec 3) (h : BitVec 1) : RoundTrip.Statement (.vmerge vd vs1 vs2 et km h) := by
  intro u _ hw h
  obtain rfl := Option.some.inj h
  have hw : okChoice km = true := hw
  simp [decode, decodeVec, check, hw]

theorem RoundTrip.vmv (vd : BitVec 4) (vs1 : BitVec 4) (km : BitVec 3) (h : BitVec 1) : RoundTrip.Statement (.vmv vd vs1 km h) := by
  intro u _ _ h
  obtain rfl := Option.some.inj h
  simp [decode, decodeVec, check]

theorem RoundTrip.vins (vd : BitVec 4) (xs : BitVec 4) (xi : BitVec 4) (et : BitVec 3) (h : BitVec 1) : RoundTrip.Statement (.vins vd xs xi et h) := by
  intro u _ _ h
  obtain rfl := Option.some.inj h
  simp [decode, decodeVec, check]

theorem RoundTrip.vext (rd : BitVec 5) (vs : BitVec 4) (xi : BitVec 4) (et : BitVec 3) : RoundTrip.Statement (.vext rd vs xi et) := by
  intro u _ _ h
  obtain rfl := Option.some.inj h
  simp [decode, decodeVec, check]

theorem RoundTrip.kand (kd : BitVec 3) (ks1 : BitVec 3) (ks2 : BitVec 3) : RoundTrip.Statement (.kand kd ks1 ks2) := by
  intro u _ _ h
  obtain rfl := Option.some.inj h
  simp [decode, decodeVec, check]

theorem RoundTrip.kor (kd : BitVec 3) (ks1 : BitVec 3) (ks2 : BitVec 3) : RoundTrip.Statement (.kor kd ks1 ks2) := by
  intro u _ _ h
  obtain rfl := Option.some.inj h
  simp [decode, decodeVec, check]

theorem RoundTrip.kxor (kd : BitVec 3) (ks1 : BitVec 3) (ks2 : BitVec 3) : RoundTrip.Statement (.kxor kd ks1 ks2) := by
  intro u _ _ h
  obtain rfl := Option.some.inj h
  simp [decode, decodeVec, check]

theorem RoundTrip.knot (kd : BitVec 3) (ks1 : BitVec 3) : RoundTrip.Statement (.knot kd ks1) := by
  intro u _ _ h
  obtain rfl := Option.some.inj h
  simp [decode, decodeVec, check]

theorem RoundTrip.kpop (rd : BitVec 5) (ks1 : BitVec 3) : RoundTrip.Statement (.kpop rd ks1) := by
  intro u _ _ h
  obtain rfl := Option.some.inj h
  simp [decode, decodeVec, check]

theorem RoundTrip.kfirst (rd : BitVec 5) (ks1 : BitVec 3) : RoundTrip.Statement (.kfirst rd ks1) := by
  intro u _ _ h
  obtain rfl := Option.some.inj h
  simp [decode, decodeVec, check]

theorem RoundTrip.mmBf16 (rd : BitVec 5) (rs1 : BitVec 5) (rs2 : BitVec 5) (fs : BitVec 5) : RoundTrip.Statement (.mmBf16 rd rs1 rs2 fs) := by
  intro u _ hw h
  obtain rfl := Option.some.inj h
  have hw := (show (okPair rs1 && okPair rs2 && okPair fs) = true from hw)
  simp only [Bool.and_eq_true] at hw
  simp [decode, decodeMtx, check, hw]

theorem RoundTrip.mmFp16 (rd : BitVec 5) (rs1 : BitVec 5) (rs2 : BitVec 5) (fs : BitVec 5) : RoundTrip.Statement (.mmFp16 rd rs1 rs2 fs) := by
  intro u _ hw h
  obtain rfl := Option.some.inj h
  have hw := (show (okPair rs1 && okPair rs2 && okPair fs) = true from hw)
  simp only [Bool.and_eq_true] at hw
  simp [decode, decodeMtx, check, hw]

theorem RoundTrip.mmE4e4 (rd : BitVec 5) (rs1 : BitVec 5) (rs2 : BitVec 5) (fs : BitVec 5) : RoundTrip.Statement (.mmE4e4 rd rs1 rs2 fs) := by
  intro u _ hw h
  obtain rfl := Option.some.inj h
  have hw := (show (okPair rs1 && okPair rs2 && okPair fs) = true from hw)
  simp only [Bool.and_eq_true] at hw
  simp [decode, decodeMtx, check, hw]

theorem RoundTrip.mmE5e5 (rd : BitVec 5) (rs1 : BitVec 5) (rs2 : BitVec 5) (fs : BitVec 5) : RoundTrip.Statement (.mmE5e5 rd rs1 rs2 fs) := by
  intro u _ hw h
  obtain rfl := Option.some.inj h
  have hw := (show (okPair rs1 && okPair rs2 && okPair fs) = true from hw)
  simp only [Bool.and_eq_true] at hw
  simp [decode, decodeMtx, check, hw]

theorem RoundTrip.mmE4e5 (rd : BitVec 5) (rs1 : BitVec 5) (rs2 : BitVec 5) (fs : BitVec 5) : RoundTrip.Statement (.mmE4e5 rd rs1 rs2 fs) := by
  intro u _ hw h
  obtain rfl := Option.some.inj h
  have hw := (show (okPair rs1 && okPair rs2 && okPair fs) = true from hw)
  simp only [Bool.and_eq_true] at hw
  simp [decode, decodeMtx, check, hw]

theorem RoundTrip.mmE5e4 (rd : BitVec 5) (rs1 : BitVec 5) (rs2 : BitVec 5) (fs : BitVec 5) : RoundTrip.Statement (.mmE5e4 rd rs1 rs2 fs) := by
  intro u _ hw h
  obtain rfl := Option.some.inj h
  have hw := (show (okPair rs1 && okPair rs2 && okPair fs) = true from hw)
  simp only [Bool.and_eq_true] at hw
  simp [decode, decodeMtx, check, hw]

theorem RoundTrip.mmQe4 (rd : BitVec 5) (rs1 : BitVec 5) (rs2 : BitVec 5) (fs : BitVec 5) : RoundTrip.Statement (.mmQe4 rd rs1 rs2 fs) := by
  intro u _ hw h
  obtain rfl := Option.some.inj h
  have hw := (show (okPair rs1 && okPair rs2 && okPair fs) = true from hw)
  simp only [Bool.and_eq_true] at hw
  simp [decode, decodeMtx, check, hw]

theorem RoundTrip.mmQbf (rd : BitVec 5) (rs1 : BitVec 5) (rs2 : BitVec 5) (fs : BitVec 5) : RoundTrip.Statement (.mmQbf rd rs1 rs2 fs) := by
  intro u _ hw h
  obtain rfl := Option.some.inj h
  have hw := (show (okPair rs1 && okPair rs2 && okPair fs) = true from hw)
  simp only [Bool.and_eq_true] at hw
  simp [decode, decodeMtx, check, hw]

theorem RoundTrip.mmI8 (rd : BitVec 5) (rs1 : BitVec 5) (rs2 : BitVec 5) (fs : BitVec 5) : RoundTrip.Statement (.mmI8 rd rs1 rs2 fs) := by
  intro u _ hw h
  obtain rfl := Option.some.inj h
  have hw := (show (okPair rs1 && okPair rs2 && okPair fs) = true from hw)
  simp only [Bool.and_eq_true] at hw
  simp [decode, decodeMtx, check, hw]

theorem RoundTrip.mmFp32 (rd : BitVec 5) (rs1 : BitVec 5) (rs2 : BitVec 5) (fs : BitVec 5) : RoundTrip.Statement (.mmFp32 rd rs1 rs2 fs) := by
  intro u _ hw h
  obtain rfl := Option.some.inj h
  have hw := (show (okPair rs1 && okPair rs2 && okPair fs) = true from hw)
  simp only [Bool.and_eq_true] at hw
  simp [decode, decodeMtx, check, hw]

theorem RoundTrip.maZero (rd : BitVec 5) (acc : BitVec 2) : RoundTrip.Statement (.maZero rd acc) := by
  intro u _ _ h
  obtain rfl := Option.some.inj h
  simp [decode, decodeMtx, check]

theorem RoundTrip.maLd (rd : BitVec 5) (acc : BitVec 2) (rs1 : BitVec 5) : RoundTrip.Statement (.maLd rd acc rs1) := by
  intro u _ hw h
  obtain rfl := Option.some.inj h
  have hw : okPair rs1 = true := hw
  simp [decode, decodeMtx, check, hw]

theorem RoundTrip.maSt (rd : BitVec 5) (acc : BitVec 2) (rs1 : BitVec 5) (rm : BitVec 3) : RoundTrip.Statement (.maSt rd acc rs1 rm) := by
  intro u _ hw h
  obtain rfl := Option.some.inj h
  have hw := (show (okRounding rm && okPair rs1) = true from hw)
  simp only [Bool.and_eq_true] at hw
  simp [decode, decodeMtx, check, hw]

theorem RoundTrip.maMv (rd : BitVec 5) (accD : BitVec 2) (accS : BitVec 2) : RoundTrip.Statement (.maMv rd accD accS) := by
  intro u _ _ h
  obtain rfl := Option.some.inj h
  simp [decode, decodeMtx, check]

theorem RoundTrip.laClr (rd : BitVec 5) (rs1 : BitVec 5) : RoundTrip.Statement (.laClr rd rs1) := by
  intro u _ _ h
  obtain rfl := Option.some.inj h
  simp [decode, decodeMtx, check]

theorem RoundTrip.laFma (rd : BitVec 5) (rs1 : BitVec 5) (va : BitVec 4) (vb : BitVec 4) : RoundTrip.Statement (.laFma rd rs1 va vb) := by
  intro u _ hw h
  obtain rfl := Option.some.inj h
  have hw : okPair rs1 = true := hw
  simp [decode, decodeMtx, check, hw]

theorem RoundTrip.laAdd (rd : BitVec 5) (rs1 : BitVec 5) (va : BitVec 4) : RoundTrip.Statement (.laAdd rd rs1 va) := by
  intro u _ hw h
  obtain rfl := Option.some.inj h
  have hw : okPair rs1 = true := hw
  simp [decode, decodeMtx, check, hw]

theorem RoundTrip.laRnd (rd : BitVec 5) (rs1 : BitVec 5) (fmt : BitVec 2) (rm : BitVec 3) : RoundTrip.Statement (.laRnd rd rs1 fmt rm) := by
  intro u _ hw h
  obtain rfl := Option.some.inj h
  have hw := (show (okRounding rm && okPair rs1) = true from hw)
  simp only [Bool.and_eq_true] at hw
  simp [decode, decodeMtx, check, hw]

theorem RoundTrip.laMrg (rd : BitVec 5) (rs1 : BitVec 5) (rs2 : BitVec 5) : RoundTrip.Statement (.laMrg rd rs1 rs2) := by
  intro u _ _ h
  obtain rfl := Option.some.inj h
  simp [decode, decodeMtx, check]

theorem RoundTrip.hxBin (rd : BitVec 5) (rs1 : BitVec 5) (va : BitVec 4) (ft : BitVec 2) : RoundTrip.Statement (.hxBin rd rs1 va ft) := by
  intro u _ _ h
  obtain rfl := Option.some.inj h
  simp [decode, decodeMtx, check]

theorem RoundTrip.hxClr (rd : BitVec 5) (rs1 : BitVec 5) : RoundTrip.Statement (.hxClr rd rs1) := by
  intro u _ _ h
  obtain rfl := Option.some.inj h
  simp [decode, decodeMtx, check]

theorem RoundTrip.hxMrg (rd : BitVec 5) (rs1 : BitVec 5) (rs2 : BitVec 5) : RoundTrip.Statement (.hxMrg rd rs1 rs2) := by
  intro u _ _ h
  obtain rfl := Option.some.inj h
  simp [decode, decodeMtx, check]

theorem RoundTrip.ecall : RoundTrip.Statement .ecall := by
  intro u _ _ h
  obtain rfl := Option.some.inj h
  simp [decode, decodeSystem, check]

theorem RoundTrip.ecallPassFault : RoundTrip.Statement .ecallPassFault := fun _ _ _ h => nomatch (show (none : Option IWord) = some _ from h)

theorem RoundTrip.ecallRaiseInterrupt : RoundTrip.Statement .ecallRaiseInterrupt := fun _ _ _ h => nomatch (show (none : Option IWord) = some _ from h)

theorem RoundTrip.ebreak : RoundTrip.Statement .ebreak := by
  intro u _ _ h
  obtain rfl := Option.some.inj h
  simp [decode, decodeSystem, check]

theorem RoundTrip.sret : RoundTrip.Statement .sret := by
  intro u _ _ h
  obtain rfl := Option.some.inj h
  simp [decode, decodeSystem, check]

theorem RoundTrip.mret : RoundTrip.Statement .mret := by
  intro u _ _ h
  obtain rfl := Option.some.inj h
  simp [decode, decodeSystem, check]

theorem RoundTrip.wfi : RoundTrip.Statement .wfi := by
  intro u _ _ h
  obtain rfl := Option.some.inj h
  simp [decode, decodeSystem, check]

theorem RoundTrip.hend : RoundTrip.Statement .hend := by
  intro u _ _ h
  obtain rfl := Option.some.inj h
  simp [decode, decodeCtx, check]

theorem RoundTrip.yield : RoundTrip.Statement .yield := by
  intro u _ _ h
  obtain rfl := Option.some.inj h
  simp [decode, decodeCtx, check]

theorem RoundTrip.upret : RoundTrip.Statement .upret := by
  intro u _ _ h
  obtain rfl := Option.some.inj h
  simp [decode, decodeCtx, check]

theorem RoundTrip.qhalt : RoundTrip.Statement .qhalt := by
  intro u _ _ h
  obtain rfl := Option.some.inj h
  simp [decode, decodeCtx, check]

theorem RoundTrip.xchEnd : RoundTrip.Statement .xchEnd := by
  intro u _ _ h
  obtain rfl := Option.some.inj h
  simp [decode, decodeCtx, check]

theorem RoundTrip.txEnd : RoundTrip.Statement .txEnd := by
  intro u _ _ h
  obtain rfl := Option.some.inj h
  simp [decode, decodeMem, check]

theorem RoundTrip.csrWrite (csr : BitVec 12) (v : BitVec 64) : RoundTrip.Statement (.csrWrite csr v) := fun _ _ _ h => nomatch (show (none : Option IWord) = some _ from h)

theorem RoundTrip.qrgnWrite (word : BitVec 4) (v : BitVec 64) : RoundTrip.Statement (.qrgnWrite word v) := fun _ _ _ h => nomatch (show (none : Option IWord) = some _ from h)

theorem RoundTrip.qrxcntWrite (v : BitVec 64) : RoundTrip.Statement (.qrxcntWrite v) := fun _ _ _ h => nomatch (show (none : Option IWord) = some _ from h)

theorem RoundTrip.qcontWrite (v : BitVec 64) : RoundTrip.Statement (.qcontWrite v) := fun _ _ _ h => nomatch (show (none : Option IWord) = some _ from h)

theorem RoundTrip.qsaveWrite (v : BitVec 64) : RoundTrip.Statement (.qsaveWrite v) := fun _ _ _ h => nomatch (show (none : Option IWord) = some _ from h)

theorem RoundTrip.reply (id : Nat) : RoundTrip.Statement (.reply id) := fun _ _ _ h => nomatch (show (none : Option IWord) = some _ from h)

theorem RoundTrip.vectorQueueExecute (core : Nat) : RoundTrip.Statement (.vectorQueueExecute core) := fun _ _ _ h => nomatch (show (none : Option IWord) = some _ from h)

theorem RoundTrip.nputFill (id : Nat) : RoundTrip.Statement (.nputFill id) := fun _ _ _ h => nomatch (show (none : Option IWord) = some _ from h)

theorem RoundTrip.parcelEnd (core : Nat) : RoundTrip.Statement (.parcelEnd core) := fun _ _ _ h => nomatch (show (none : Option IWord) = some _ from h)

theorem RoundTrip.matrixGrant (octet : Nat) : RoundTrip.Statement (.matrixGrant octet) := fun _ _ _ h => nomatch (show (none : Option IWord) = some _ from h)

theorem RoundTrip.mtxCompletion (core : Nat) : RoundTrip.Statement (.mtxCompletion core) := fun _ _ _ h => nomatch (show (none : Option IWord) = some _ from h)

theorem RoundTrip.operandsConsumed (core : Nat) : RoundTrip.Statement (.operandsConsumed core) := fun _ _ _ h => nomatch (show (none : Option IWord) = some _ from h)

theorem RoundTrip.pairing (core : Nat) : RoundTrip.Statement (.pairing core) := fun _ _ _ h => nomatch (show (none : Option IWord) = some _ from h)

theorem RoundTrip.pairtimeout (core : Nat) : RoundTrip.Statement (.pairtimeout core) := fun _ _ _ h => nomatch (show (none : Option IWord) = some _ from h)

theorem RoundTrip.copyEngineTurn (octet : Nat) : RoundTrip.Statement (.copyEngineTurn octet) := fun _ _ _ h => nomatch (show (none : Option IWord) = some _ from h)

theorem RoundTrip.copyCompletion (core : Nat) : RoundTrip.Statement (.copyCompletion core) := fun _ _ _ h => nomatch (show (none : Option IWord) = some _ from h)

theorem RoundTrip.publishFlip (core : Nat) : RoundTrip.Statement (.publishFlip core) := fun _ _ _ h => nomatch (show (none : Option IWord) = some _ from h)

theorem RoundTrip.gatherEngineTurn (cluster : Nat) : RoundTrip.Statement (.gatherEngineTurn cluster) := fun _ _ _ h => nomatch (show (none : Option IWord) = some _ from h)

theorem RoundTrip.barrierArrival (id : Nat) : RoundTrip.Statement (.barrierArrival id) := fun _ _ _ h => nomatch (show (none : Option IWord) = some _ from h)

theorem RoundTrip.barrierCompletion (id : Nat) : RoundTrip.Statement (.barrierCompletion id) := fun _ _ _ h => nomatch (show (none : Option IWord) = some _ from h)

theorem RoundTrip.domSetCompletion (dom : Nat) : RoundTrip.Statement (.domSetCompletion dom) := fun _ _ _ h => nomatch (show (none : Option IWord) = some _ from h)

theorem RoundTrip.exchangeSlot (dom : Nat) : RoundTrip.Statement (.exchangeSlot dom) := fun _ _ _ h => nomatch (show (none : Option IWord) = some _ from h)

theorem RoundTrip.entryLanding (id : Nat) : RoundTrip.Statement (.entryLanding id) := fun _ _ _ h => nomatch (show (none : Option IWord) = some _ from h)

theorem RoundTrip.ctxSaveCompletion (core : Nat) (ctx : Nat) : RoundTrip.Statement (.ctxSaveCompletion core ctx) := fun _ _ _ h => nomatch (show (none : Option IWord) = some _ from h)

theorem RoundTrip.ctxLoadCompletion (core : Nat) (ctx : Nat) : RoundTrip.Statement (.ctxLoadCompletion core ctx) := fun _ _ _ h => nomatch (show (none : Option IWord) = some _ from h)

theorem RoundTrip.gsigPerform (id : Nat) : RoundTrip.Statement (.gsigPerform id) := fun _ _ _ h => nomatch (show (none : Option IWord) = some _ from h)

theorem RoundTrip.gwaitTimeout (core : Nat) (ctx : Nat) : RoundTrip.Statement (.gwaitTimeout core ctx) := fun _ _ _ h => nomatch (show (none : Option IWord) = some _ from h)

theorem RoundTrip.watchValue (pkg : Nat) (word : Nat) : RoundTrip.Statement (.watchValue pkg word) := fun _ _ _ h => nomatch (show (none : Option IWord) = some _ from h)

theorem RoundTrip.homeRead (id : Nat) (part : Nat) : RoundTrip.Statement (.homeRead id part) := fun _ _ _ h => nomatch (show (none : Option IWord) = some _ from h)

theorem RoundTrip.homeWrite (id : Nat) (part : Nat) : RoundTrip.Statement (.homeWrite id part) := fun _ _ _ h => nomatch (show (none : Option IWord) = some _ from h)

theorem RoundTrip.homeReduce (id : Nat) (part : Nat) : RoundTrip.Statement (.homeReduce id part) := fun _ _ _ h => nomatch (show (none : Option IWord) = some _ from h)

theorem RoundTrip.homeEviction (cluster : Nat) (line : Nat) : RoundTrip.Statement (.homeEviction cluster line) := fun _ _ _ h => nomatch (show (none : Option IWord) = some _ from h)

theorem RoundTrip.reductionAtL2 (id : Nat) (part : Nat) : RoundTrip.Statement (.reductionAtL2 id part) := fun _ _ _ h => nomatch (show (none : Option IWord) = some _ from h)

theorem RoundTrip.probe (cluster : Nat) (line : Nat) : RoundTrip.Statement (.probe cluster line) := fun _ _ _ h => nomatch (show (none : Option IWord) = some _ from h)

theorem RoundTrip.probeTimeout (cluster : Nat) (line : Nat) : RoundTrip.Statement (.probeTimeout cluster line) := fun _ _ _ h => nomatch (show (none : Option IWord) = some _ from h)

theorem RoundTrip.lockRequest (id : Nat) : RoundTrip.Statement (.lockRequest id) := fun _ _ _ h => nomatch (show (none : Option IWord) = some _ from h)

theorem RoundTrip.successorLink (id : Nat) : RoundTrip.Statement (.successorLink id) := fun _ _ _ h => nomatch (show (none : Option IWord) = some _ from h)

theorem RoundTrip.lockReleaseHome (id : Nat) : RoundTrip.Statement (.lockReleaseHome id) := fun _ _ _ h => nomatch (show (none : Option IWord) = some _ from h)

theorem RoundTrip.lockHandoff (id : Nat) : RoundTrip.Statement (.lockHandoff id) := fun _ _ _ h => nomatch (show (none : Option IWord) = some _ from h)

theorem RoundTrip.lockTimeout (core : Nat) (ctx : Nat) : RoundTrip.Statement (.lockTimeout core ctx) := fun _ _ _ h => nomatch (show (none : Option IWord) = some _ from h)

theorem RoundTrip.deadlockSearch (core : Nat) (ctx : Nat) : RoundTrip.Statement (.deadlockSearch core ctx) := fun _ _ _ h => nomatch (show (none : Option IWord) = some _ from h)

theorem RoundTrip.grantParkExpiry (core : Nat) (ctx : Nat) : RoundTrip.Statement (.grantParkExpiry core ctx) := fun _ _ _ h => nomatch (show (none : Option IWord) = some _ from h)

theorem RoundTrip.txAbortMessage (core : Nat) (ctx : Nat) : RoundTrip.Statement (.txAbortMessage core ctx) := fun _ _ _ h => nomatch (show (none : Option IWord) = some _ from h)

theorem RoundTrip.txPrepare (core : Nat) (ctx : Nat) (home : Nat) : RoundTrip.Statement (.txPrepare core ctx home) := fun _ _ _ h => nomatch (show (none : Option IWord) = some _ from h)

theorem RoundTrip.txPrepareAck (core : Nat) (ctx : Nat) : RoundTrip.Statement (.txPrepareAck core ctx) := fun _ _ _ h => nomatch (show (none : Option IWord) = some _ from h)

theorem RoundTrip.txRelease (core : Nat) (ctx : Nat) (home : Nat) : RoundTrip.Statement (.txRelease core ctx home) := fun _ _ _ h => nomatch (show (none : Option IWord) = some _ from h)

theorem RoundTrip.upcallDelivery (core : Nat) : RoundTrip.Statement (.upcallDelivery core) := fun _ _ _ h => nomatch (show (none : Option IWord) = some _ from h)

theorem RoundTrip.deferredTrap (core : Nat) (ctx : Nat) : RoundTrip.Statement (.deferredTrap core ctx) := fun _ _ _ h => nomatch (show (none : Option IWord) = some _ from h)

theorem RoundTrip.interruptTake (core : Nat) : RoundTrip.Statement (.interruptTake core) := fun _ _ _ h => nomatch (show (none : Option IWord) = some _ from h)

theorem RoundTrip.watchdog (core : Nat) : RoundTrip.Statement (.watchdog core) := fun _ _ _ h => nomatch (show (none : Option IWord) = some _ from h)

theorem RoundTrip.yieldWindowEnd (core : Nat) (ctx : Nat) : RoundTrip.Statement (.yieldWindowEnd core ctx) := fun _ _ _ h => nomatch (show (none : Option IWord) = some _ from h)

theorem RoundTrip.quarantine (core : Nat) : RoundTrip.Statement (.quarantine core) := fun _ _ _ h => nomatch (show (none : Option IWord) = some _ from h)

theorem RoundTrip.launch (pkg : Nat) (tenant : Nat) (queue : Nat) (msg : LaunchMsg) : RoundTrip.Statement (.launch pkg tenant queue msg) := fun _ _ _ h => nomatch (show (none : Option IWord) = some _ from h)

theorem RoundTrip.submit (pkg : Nat) : RoundTrip.Statement (.submit pkg) := fun _ _ _ h => nomatch (show (none : Option IWord) = some _ from h)

theorem RoundTrip.retire (pkg : Nat) : RoundTrip.Statement (.retire pkg) := fun _ _ _ h => nomatch (show (none : Option IWord) = some _ from h)

theorem RoundTrip.saved (pkg : Nat) : RoundTrip.Statement (.saved pkg) := fun _ _ _ h => nomatch (show (none : Option IWord) = some _ from h)

theorem RoundTrip.ctl (pkg : Nat) : RoundTrip.Statement (.ctl pkg) := fun _ _ _ h => nomatch (show (none : Option IWord) = some _ from h)

theorem RoundTrip.part (pkg : Nat) (num : Nat) (tenant : Nat) (quads : BitVec 128) (windows : List (BitVec 64)) (l2mask : List (BitVec 24)) (llcWays : Nat) (bwHbm : Nat) (bwDdr : Nat) : RoundTrip.Statement (.part pkg num tenant quads windows l2mask llcWays bwHbm bwDdr) := fun _ _ _ h => nomatch (show (none : Option IWord) = some _ from h)

theorem RoundTrip.rankStart (core : Nat) : RoundTrip.Statement (.rankStart core) := fun _ _ _ h => nomatch (show (none : Option IWord) = some _ from h)

theorem RoundTrip.preempt (core : Nat) : RoundTrip.Statement (.preempt core) := fun _ _ _ h => nomatch (show (none : Option IWord) = some _ from h)

theorem RoundTrip.restore (core : Nat) : RoundTrip.Statement (.restore core) := fun _ _ _ h => nomatch (show (none : Option IWord) = some _ from h)

theorem RoundTrip.coreReset (core : Nat) : RoundTrip.Statement (.coreReset core) := fun _ _ _ h => nomatch (show (none : Option IWord) = some _ from h)

theorem RoundTrip.partitionReset (pkg : Nat) (num : Nat) : RoundTrip.Statement (.partitionReset pkg num) := fun _ _ _ h => nomatch (show (none : Option IWord) = some _ from h)

theorem RoundTrip.bringUp (pkg : Nat) (imageOk : Bool) (found : Training) (strap : BitVec 8) : RoundTrip.Statement (.bringUp pkg imageOk found strap) := fun _ _ _ h => nomatch (show (none : Option IWord) = some _ from h)

theorem RoundTrip.homeLost (pkg : Nat) (slice : Nat) : RoundTrip.Statement (.homeLost pkg slice) := fun _ _ _ h => nomatch (show (none : Option IWord) = some _ from h)

theorem RoundTrip.moduleDown (pkg : Nat) (socket : Nat) : RoundTrip.Statement (.moduleDown pkg socket) := fun _ _ _ h => nomatch (show (none : Option IWord) = some _ from h)

theorem RoundTrip.memrd (pkg : Nat) (tenant : Nat) (msgId : MsgId) (pa : Nat) (len : Nat) : RoundTrip.Statement (.memrd pkg tenant msgId pa len) := fun _ _ _ h => nomatch (show (none : Option IWord) = some _ from h)

theorem RoundTrip.memwr (pkg : Nat) (tenant : Nat) (msgId : MsgId) (pa : Nat) (data : List (BitVec 8)) : RoundTrip.Statement (.memwr pkg tenant msgId pa data) := fun _ _ _ h => nomatch (show (none : Option IWord) = some _ from h)

theorem RoundTrip.doorbell (pkg : Nat) (tenant : Nat) (msgId : MsgId) (core : Nat) : RoundTrip.Statement (.doorbell pkg tenant msgId core) := fun _ _ _ h => nomatch (show (none : Option IWord) = some _ from h)

theorem RoundTrip.evread (pkg : Nat) (tenant : Nat) (msgSeq : Nat) (index : Nat) : RoundTrip.Statement (.evread pkg tenant msgSeq index) := fun _ _ _ h => nomatch (show (none : Option IWord) = some _ from h)

theorem RoundTrip.keyagree (pkg : Nat) (msgId : MsgId) (pub : BitVec 256) (sig : BitVec 512) : RoundTrip.Statement (.keyagree pkg msgId pub sig) := fun _ _ _ h => nomatch (show (none : Option IWord) = some _ from h)

theorem RoundTrip.keyset (pkg : Nat) (msgId : MsgId) (tenant : Nat) (h2d : BitVec 256) (d2h : BitVec 256) : RoundTrip.Statement (.keyset pkg msgId tenant h2d d2h) := fun _ _ _ h => nomatch (show (none : Option IWord) = some _ from h)

theorem RoundTrip.evring (pkg : Nat) (msgId : MsgId) (tenant : Nat) (log2n : Nat) (window : Nat) (offset : Nat) : RoundTrip.Statement (.evring pkg msgId tenant log2n window offset) := fun _ _ _ h => nomatch (show (none : Option IWord) = some _ from h)

theorem RoundTrip.hwin (pkg : Nat) (msgId : MsgId) (tenant : Nat) (window : Nat) (wr : Bool) (base : Nat) (size : Nat) : RoundTrip.Statement (.hwin pkg msgId tenant window wr base size) := fun _ _ _ h => nomatch (show (none : Option IWord) = some _ from h)

theorem RoundTrip.attest (pkg : Nat) (msgId : MsgId) (nonce : BitVec 256) : RoundTrip.Statement (.attest pkg msgId nonce) := fun _ _ _ h => nomatch (show (none : Option IWord) = some _ from h)

theorem RoundTrip.hostReply (id : Nat) (answer : HostAnswer) : RoundTrip.Statement (.hostReply id answer) := fun _ _ _ h => nomatch (show (none : Option IWord) = some _ from h)

theorem RoundTrip.proxyAtomic (id : Nat) : RoundTrip.Statement (.proxyAtomic id) := fun _ _ _ h => nomatch (show (none : Option IWord) = some _ from h)

theorem RoundTrip.retransmit (pkg : Nat) (tenant : Nat) (msgSeq : Nat) : RoundTrip.Statement (.retransmit pkg tenant msgSeq) := fun _ _ _ h => nomatch (show (none : Option IWord) = some _ from h)

theorem RoundTrip.linkCodeword (pkg : Nat) (link : Nat) (good : Bool) (cells : List (Nat × Nat × Nat)) (credits : List Nat) (nak : Bool) (ackSeq : Nat) : RoundTrip.Statement (.linkCodeword pkg link good cells credits nak ackSeq) := fun _ _ _ h => nomatch (show (none : Option IWord) = some _ from h)

theorem RoundTrip.linkDown (pkg : Nat) (link : Nat) : RoundTrip.Statement (.linkDown pkg link) := fun _ _ _ h => nomatch (show (none : Option IWord) = some _ from h)

theorem RoundTrip.peerLostTimeout (pkg : Nat) (peer : Nat) : RoundTrip.Statement (.peerLostTimeout pkg peer) := fun _ _ _ h => nomatch (show (none : Option IWord) = some _ from h)

theorem RoundTrip.remoteRequest (id : Nat) (part : Nat) : RoundTrip.Statement (.remoteRequest id part) := fun _ _ _ h => nomatch (show (none : Option IWord) = some _ from h)

theorem RoundTrip.migrationPassEnd (frame : Nat) : RoundTrip.Statement (.migrationPassEnd frame) := fun _ _ _ h => nomatch (show (none : Option IWord) = some _ from h)

theorem RoundTrip.install (frame : Nat) : RoundTrip.Statement (.install frame) := fun _ _ _ h => nomatch (show (none : Option IWord) = some _ from h)

theorem RoundTrip.installAck (frame : Nat) : RoundTrip.Statement (.installAck frame) := fun _ _ _ h => nomatch (show (none : Option IWord) = some _ from h)

theorem RoundTrip.fwd (id : Nat) (part : Nat) : RoundTrip.Statement (.fwd id part) := fun _ _ _ h => nomatch (show (none : Option IWord) = some _ from h)

theorem RoundTrip.redirect (id : Nat) : RoundTrip.Statement (.redirect id) := fun _ _ _ h => nomatch (show (none : Option IWord) = some _ from h)

theorem RoundTrip.purge (id : Nat) : RoundTrip.Statement (.purge id) := fun _ _ _ h => nomatch (show (none : Option IWord) = some _ from h)

theorem RoundTrip.purgeAck (id : Nat) : RoundTrip.Statement (.purgeAck id) := fun _ _ _ h => nomatch (show (none : Option IWord) = some _ from h)

theorem RoundTrip.migchain (id : Nat) (part : Nat) : RoundTrip.Statement (.migchain id part) := fun _ _ _ h => nomatch (show (none : Option IWord) = some _ from h)

theorem RoundTrip.migstale (id : Nat) (part : Nat) : RoundTrip.Statement (.migstale id part) := fun _ _ _ h => nomatch (show (none : Option IWord) = some _ from h)

theorem RoundTrip.tailIdleTimeout (frame : Nat) : RoundTrip.Statement (.tailIdleTimeout frame) := fun _ _ _ h => nomatch (show (none : Option IWord) = some _ from h)

theorem RoundTrip.tailLifetimeExpiry (frame : Nat) : RoundTrip.Statement (.tailLifetimeExpiry frame) := fun _ _ _ h => nomatch (show (none : Option IWord) = some _ from h)

theorem RoundTrip.staleMarkExpiry (frame : Nat) : RoundTrip.Statement (.staleMarkExpiry frame) := fun _ _ _ h => nomatch (show (none : Option IWord) = some _ from h)

theorem RoundTrip.powerCheck (pkg : Nat) (watts : Nat) (power : List Nat) (temps : List Nat) : RoundTrip.Statement (.powerCheck pkg watts power temps) := fun _ _ _ h => nomatch (show (none : Option IWord) = some _ from h)

theorem RoundTrip.throttle (pkg : Nat) (island : Nat) : RoundTrip.Statement (.throttle pkg island) := fun _ _ _ h => nomatch (show (none : Option IWord) = some _ from h)

theorem RoundTrip.thermalShutdown (pkg : Nat) (temp : Nat) : RoundTrip.Statement (.thermalShutdown pkg temp) := fun _ _ _ h => nomatch (show (none : Option IWord) = some _ from h)

theorem RoundTrip.powerGate (pkg : Nat) (island : Nat) : RoundTrip.Statement (.powerGate pkg island) := fun _ _ _ h => nomatch (show (none : Option IWord) = some _ from h)

theorem RoundTrip.fResultWritten (core : Nat) (ctx : Nat) (reg : Nat) : RoundTrip.Statement (.fResultWritten core ctx reg) := fun _ _ _ h => nomatch (show (none : Option IWord) = some _ from h)

theorem RoundTrip.scratchpadWindowRequest (id : Nat) (part : Nat) : RoundTrip.Statement (.scratchpadWindowRequest id part) := fun _ _ _ h => nomatch (show (none : Option IWord) = some _ from h)

end Sys2Proof.Laws
end

