-- ==== Sys2Proof/Laws/Results.lean ====
section
/-! SUPPORT. What the operations that complete an instruction do: the result they write, and that nothing else differs. -/
namespace Sys2Proof.Machine

variable (s : State)

theorem toNat_ne {w : Nat} (a b : BitVec w) (h : a ≠ b) : a.toNat ≠ b.toNat := fun e => h (BitVec.eq_of_toNat_eq e)

/-- A state that differs from s in the executing context only. -/
theorem machine_setMe (x : Context) : setMe s x = setMe s (me (setMe s x)) := by simp

theorem retireX_eq (rd : BitVec 5) (v : Word) : retireX s rd v = setMe s { me s with
    st := .live, regs := { writeX (regs s) rd.toNat v with pc := (regs s).pc + 4 } } := by
  unfold retireX
  rw [retire_eq, modRegs_eq]
  have : (writeX (regs s) rd.toNat v).pc = (regs s).pc := by rw [writeX_frame]
  simp [this]

theorem retireX_writes (rd : BitVec 5) (v : Word) : WritesX s (retireX s rd v) rd v := by
  rw [retireX_eq]
  refine ⟨by simp, by simp, ?_, ?_, ?_, ?_, ?_⟩
  · simp only [regs_setMe]
    rw [writeX_frame]
  · simp only [xr, regs_setMe]
    show readX (writeX (regs s) rd.toNat v) rd.toNat = _
    rw [readX_writeX]
    by_cases h : rd = 0
    · subst h; simp
    · have : rd.toNat ≠ 0 := toNat_ne rd 0 h
      rw [if_neg h, if_pos ⟨rfl, this⟩]
  · intro r hr
    simp only [xr, regs_setMe]
    show readX (writeX (regs s) rd.toNat v) r.toNat = _
    rw [readX_writeX]
    simp [toNat_ne r rd hr]
  · intro h
    have h0 : rd.toNat ≠ 0 := toNat_ne rd 0 h
    simp only [Present, regs_setMe]
    show (writeX (regs s) rd.toNat v).xpres.getLsbD rd.toNat = true
    rw [xpres_writeX]
    simp [h0, rd.isLt]
  · intro r hr
    simp only [regs_setMe]
    show (writeX (regs s) rd.toNat v).xpres.getLsbD r.toNat = _
    rw [xpres_writeX]
    simp [toNat_ne r rd hr]

/-! ### requests -/

/-- A request whose parts are done already is left as it is. -/
theorem partAtIssue_done (id i : Nat) (r : Req) (hf : findReq s id = some r) (hd : ∀ p, r.parts[i]? = some p → p.done = true) :
    partAtIssue s id i = s := by
  unfold partAtIssue
  rw [hf]
  dsimp only
  cases e : r.parts[i]? with
  | none => rfl
  | some p => simp [orderAllows, hd p e]

theorem find_append_new (l : List Req) (r : Req) (h : ∀ q ∈ l, q.id ≠ r.id) : (l ++ [r]).find? (fun q => q.id == r.id) = some r := by
  rw [List.find?_append, List.find?_eq_none.2 (by simpa using h)]
  simp

/-- The state in which a request has just joined the outstanding ones. -/
def asked (r : Req) : State :=
  modRegs { s with reqs := s.reqs ++ [r], nextId := s.nextId + 1 } fun g => emptyDst g r.dst

theorem issueReq_eq (kind : ReqKind) (dst : Dst) (parts : List Part) (acq rel : Option Nat) :
    issueReq s kind dst parts acq rel false =
      partsAtIssue (allocLines kind parts (asked s (request s kind dst parts acq rel))) s.nextId parts.length := by
  unfold issueReq asked addReq request
  rfl

theorem issueReq_queued (kind : ReqKind) (dst : Dst) (parts : List Part) (acq rel : Option Nat) :
    issueReq s kind dst parts acq rel true =
      allocLines kind parts (asked s { request s kind dst parts acq rel with queued := true }) := by
  unfold issueReq asked addReq request
  rfl

theorem partsAtIssue_waits (id n : Nat) (h : ∀ i < n, partAtIssue s id i = s) : partsAtIssue s id n = s := by
  induction n with
  | zero => rfl
  | succ n ih => rw [partsAtIssue, ih fun i hi => h i (by omega)]; exact h n (by omega)

theorem emptyX_pc (g : Regs) (r : Nat) : (emptyX g r).pc = g.pc := by unfold emptyX; split <;> rfl
theorem emptyDst_pc (g : Regs) (d : Dst) : (emptyDst g d).pc = g.pc := by
  cases d <;> simp [emptyDst, emptyX_pc, emptyV]

theorem asked_leaves (r : Req) : Leaves s (retire (asked s r)) r := by
  unfold asked
  rw [retire_eq, modRegs_eq]
  refine ⟨?_, ?_⟩
  · simp only [setMe_setMe, me_setMe, regs_setMe]
    simp [setMe, setCtx, setCore, getCore, regs, me, getCtx]
  · simp only [setMe_setMe, me_setMe, regs_setMe]
    simp [me, getCtx, getCore, regs, emptyDst_pc]

/-- A request finds itself. -/
theorem findReq_asked (r : Req) (hid : s.idsBelow) (hr : r.id = s.nextId) : findReq (asked s r) r.id = some r := by
  have : (asked s r).reqs = s.reqs ++ [r] := by simp [asked, modRegs_eq, setMe]
  unfold findReq
  rw [this]
  exact find_append_new _ _ fun q hq => by have := hid q hq; omega

/-- A request whose parts are all done performs nothing at issue. -/
theorem issueReq_done (hid : s.idsBelow) (kind : ReqKind) (dst : Dst) (parts : List Part) (acq rel : Option Nat)
    (ha : ∀ t, allocLines kind parts t = t) (hp : ∀ p ∈ parts, p.done = true) :
    issueReq s kind dst parts acq rel false = asked s (request s kind dst parts acq rel) := by
  rw [issueReq_eq, ha]
  apply partsAtIssue_waits
  intro i _
  apply partAtIssue_done _ _ _ _ (findReq_asked s _ hid rfl)
  intro p hpi
  obtain ⟨q, hq, rfl⟩ := List.mem_map.1 (List.mem_of_getElem? hpi)
  exact hp q hq

theorem writeF_frame (g : Regs) (r : Nat) (v : BitVec 32) : writeF g r v = { g with f := (writeF g r v).f } := rfl

theorem retireXF_writes (rd : BitVec 5) (v : Word) (fl : Nat) : WritesXF s (retireXF s rd v fl) rd v fl := by
  unfold retireXF
  have w := retireX_writes (accrue s fl) rd v
  have hr : regs (accrue s fl) = { regs s with fflags := (regs s).fflags ||| BitVec.ofNat 5 fl } := by simp [accrue]
  have hm : me (accrue s fl) = { me s with regs := regs (accrue s fl) } := by simp [accrue, regs]
  refine ⟨?_, ?_, ?_, w.value, ?_, w.present, ?_, ?_⟩
  · rw [w.machine]; simp only [accrue, modRegs_eq, setMe_setMe]; simp
  · rw [w.context, hm]
  · rw [w.registers, hr]
  · intro r h
    rw [w.others r h]
    simp [xr, hr, readX]
  · intro r h
    rw [w.presence r h, hr]
  · rw [w.registers, hr]

theorem retireF_writes (rd : BitVec 5) (r : Nat × Nat) : WritesF s (retireF s rd r) rd r.1 r.2 := by
  unfold retireF
  rw [retire_eq]
  simp only [accrue, modRegs_eq, setMe_setMe, me_setMe, regs_setMe]
  refine ⟨by simp, by simp, by simp [writeF], ?_, ?_, by simp [writeF]⟩
  · simp only [regs_setMe]
    show readF (writeF (regs s) rd.toNat _) rd.toNat = _
    simp [readF_writeF]
  · intro q hq
    simp only [regs_setMe]
    show readF (writeF (regs s) rd.toNat _) q.toNat = _
    simp [readF_writeF, toNat_ne q rd hq]

/-! ### jumps -/

theorem jumpTo_jumps (v : Word) : JumpsTo s (jumpTo s v) v := by
  rw [jumpTo_eq]; exact ⟨by simp, by simp⟩
theorem retire_advances : Advances s (retire s) := by
  rw [retire_eq]; exact ⟨by simp, by simp⟩

theorem jumpTo_makesLink (rd : BitVec 5) (target : Word) :
    Links s (jumpTo (modRegs s fun g => writeX g rd.toNat (g.pc + 4)) target) rd target := by
  have w := retireX_writes s rd ((regs s).pc + 4)
  have e : jumpTo (modRegs s fun g => writeX g rd.toNat (g.pc + 4)) target =
      setMe s { me s with st := .live, regs := { writeX (regs s) rd.toNat ((regs s).pc + 4) with pc := target } } := by
    rw [jumpTo_eq]; simp [modRegs_eq]
  have f : regs (retireX s rd ((regs s).pc + 4)) =
      { writeX (regs s) rd.toNat ((regs s).pc + 4) with pc := (regs s).pc + 4 } := by rw [retireX_eq]; simp
  rw [e]
  refine ⟨by simp, by simp, ?_, ?_, ?_, ?_, ?_⟩
  · simp only [regs_setMe]; rw [writeX_frame]
  · have := w.value
    simp only [xr, f] at this
    simp only [xr, regs_setMe]; exact this
  · intro r h
    have := w.others r h
    simp only [xr, f] at this
    simp only [xr, regs_setMe]; exact this
  · intro h
    have := w.present h
    simp only [Present, f] at this
    simp only [Present, regs_setMe]; exact this
  · intro r h
    have := w.presence r h
    simp only [f] at this
    simp only [regs_setMe]; exact this

/-! ### operations of one shape -/

theorem binX_next (f : Word → Word → Word) (rd rs1 rs2 : BitVec 5) (h1 : Present s rs1) (h2 : Present s rs2)
    (hd : Settled s rd) : binX f rd rs1 rs2 s = .next (retireX s rd (f (xr s rs1) (xr s rs2))) := by
  unfold binX
  rw [issueTx_met]
  apply conds_hold <;> simp_all

theorem immX_next (f : Word → Word) (rd rs1 : BitVec 5) (h1 : Present s rs1) (hd : Settled s rd) :
    immX f rd rs1 s = .next (retireX s rd (f (xr s rs1))) := by
  unfold immX
  rw [issueTx_met]
  apply conds_hold <;> simp_all

end Sys2Proof.Machine
end

