-- ==== Sys2Proof/Laws/Vector.lean ====
section
/-! SUPPORT. The lanes of a vector register, and what the shared operations of the VEC space do when they run. -/
namespace Sys2Proof.Machine

variable (s : State)

/-! ### lanes -/

theorem joinLanes_lane (w i : Nat) (xs : List Nat) : joinLanes w xs / 2 ^ (w * i) % 2 ^ w = xs.getD i 0 % 2 ^ w := by
  induction xs generalizing i with
  | nil => simp [joinLanes]
  | cons x xs ih =>
    have hp : 0 < 2 ^ w := Nat.two_pow_pos w
    cases i with
    | zero => simp [joinLanes]
    | succ i =>
      have h : (x % 2 ^ w + 2 ^ w * joinLanes w xs) / 2 ^ w = joinLanes w xs := by
        rw [Nat.add_mul_div_left _ _ hp, Nat.div_eq_of_lt (Nat.mod_lt _ hp), Nat.zero_add]
      rw [show w * (i + 1) = w + w * i by rw [Nat.mul_succ]; omega, Nat.pow_add, ← Nat.div_div_eq_div_mul]
      simp only [joinLanes, h, ih, List.getD_cons_succ]

theorem lane_ofLanes (w i : Nat) (xs : List Nat) (h : w * i + w ≤ 512) : lane (ofLanes w xs) w i = xs.getD i 0 % 2 ^ w := by
  rw [← joinLanes_lane]
  unfold lane ofLanes
  rw [BitVec.toNat_ofNat]
  obtain ⟨k, hk⟩ : ∃ k, 512 = w * i + (w + k) := ⟨512 - (w * i + w), by omega⟩
  rw [hk, Nat.pow_add, Nat.mod_mul_right_div_self, Nat.mod_mod_of_dvd _ (by rw [Nat.pow_add]; exact Nat.dvd_mul_right _ _)]

theorem lane_lt (v : VWord) (w i : Nat) : lane v w i < 2 ^ w := Nat.mod_lt _ (Nat.two_pow_pos w)

theorem laneCount_fits (w i : Nat) (h : i < laneCount w) : w * i + w ≤ 512 := by
  unfold laneCount at h
  have h1 : i + 1 ≤ 512 / w := h
  have h2 := Nat.mul_le_mul_left w h1
  have h3 : w * (512 / w) ≤ 512 := Nat.mul_div_le 512 w
  rw [Nat.mul_succ] at h2
  omega

theorem vpres_writeV (g : Regs) (r q : Nat) (v : VWord) (hr : r < 16) :
    (writeV g r v).vpres.getLsbD q = if q = r then true else g.vpres.getLsbD q := by
  unfold writeV
  simp only [getLsbD_putBit]
  by_cases e : q = r
  · subst e; simp [hr]
  · simp [e]

theorem writeV_frame (g : Regs) (r : Nat) (v : VWord) :
    writeV g r v = { g with v := (writeV g r v).v, vpres := (writeV g r v).vpres, latch := latchAfter g r } := rfl

/-! ### the reuse latch (06 R178) -/

@[simp] theorem writeX_latch (g : Regs) (r : Nat) (v : Word) : (writeX g r v).latch = g.latch := by unfold writeX; split <;> rfl
@[simp] theorem emptyX_latch (g : Regs) (r : Nat) : (emptyX g r).latch = g.latch := by unfold emptyX; split <;> rfl
@[simp] theorem replyX_latch (g : Regs) (r : Nat) (v : Word) : (replyX g r v).latch = g.latch := by unfold replyX; split <;> rfl
@[simp] theorem writeF_latch (g : Regs) (r : Nat) (v : BitVec 32) : (writeF g r v).latch = g.latch := rfl
@[simp] theorem writeK_latch (g : Regs) (r : Nat) (v : Word) : (writeK g r v).latch = g.latch := rfl
@[simp] theorem emptyV_latch (g : Regs) (r : Nat) : (emptyV g r).latch = g.latch := rfl
@[simp] theorem writeV_latch (g : Regs) (r : Nat) (v : VWord) : (writeV g r v).latch = latchAfter g r := rfl
@[simp] theorem replyV_latch (g : Regs) (r : Nat) (v : VWord) : (replyV g r v).latch = latchAfter g r := rfl

/-- The latch after an instruction that keeps a hinted source and writes the registers vw. -/
def latchKept (keep : Option Nat) (vw : List Nat) (old : Option Nat) : Option Nat :=
  match keep with
  | some r => if vw.contains r then none else some r
  | none => old

theorem keepReuse_setMe (d : Needs) (x : Context) :
    keepReuse d (setMe s x) = setMe s { x with regs := { x.regs with latch := latchKept d.keep d.vw x.regs.latch } } := by
  unfold keepReuse latchKept
  cases d.keep with
  | none => rfl
  | some r => simp only [modRegs_eq, me_setMe, regs_setMe, setMe_setMe]

theorem keepReuse_none (d : Needs) (h : d.keep = none) : keepReuse d s = s := by simp [keepReuse, h]

/-! ### issue through the vector queue -/

theorem vecOp_met (d : Needs) (body : State → State) (h : unmet s d.conds = []) (hq : VqRoom s) (he : d.extra = []) :
    vecOp d body s =
      .next (retire (modMyCore (keepReuse d (body s)) fun c => { c with vq := c.vq ++ [{ ctx := s.cur, work := .done }] })) := by
  unfold vecOp issueVec
  rw [issueTx_met]
  rw [unmet_nil] at h ⊢
  intro c hc
  simp only [Needs.conds, List.mem_append] at hc h
  rcases hc with hc | hc
  · exact h c (by simp only [he]; exact Or.inl hc)
  · simp at hc; subst hc; exact (holds_vqRoom s).2 hq

theorem vecFill_met (d : Needs) (rd : BitVec 5) (value : State → Word) (h : unmet s d.conds = []) (hq : VqRoom s)
    (hd : Settled s rd) (he : d.extra = []) (hw : d.xw = []) (hk : d.keep = none) :
    vecFill d rd value s = .next (retire (modMyCore (modRegs s fun g => emptyX g rd.toNat) fun c =>
      { c with vq := c.vq ++ [{ ctx := s.cur, work := .fillX rd.toNat (value s) }] })) := by
  unfold vecFill issueVec
  rw [issueTx_met, keepReuse_none _ _ (by exact hk)]
  rw [unmet_nil] at h ⊢
  intro c hc
  simp only [Needs.conds, List.mem_append, he, hw] at hc h
  simp only [List.map_nil, List.not_mem_nil, or_false, List.map_cons, List.mem_cons] at hc h
  rcases hc with ((((hc | hc) | hc) | rfl) | hc) | rfl
  · exact h c (by simp [hc])
  · exact h c (by simp [hc])
  · exact h c (by simp [hc])
  · exact (holds_xSettled s rd).2 hd
  · exact h c (by simp [hc])
  · exact (holds_vqRoom s).2 hq

/-- The queue entry joins and the instruction retires: the core's queue and the context differ. -/
theorem retire_queued (x : Context) (e : List VqEntry → List VqEntry) :
    ∃ t, retire (modMyCore (setMe s x) fun c => { c with vq := e c.vq }) = t ∧
      me t = { x with st := .live, regs := { x.regs with pc := x.regs.pc + 4 } } ∧
      regs t = { x.regs with pc := x.regs.pc + 4 } ∧
      t = modMyCore (setMe s (me t)) fun c => { c with vq := e c.vq } := by
  have h : me (modMyCore (setMe s x) fun c => { c with vq := e c.vq }) = x := by
    simp [me, getCtx, modMyCore, setMe, setCtx, Core.ctx, Core.setCtx]
  have h2 : me (retire (modMyCore (setMe s x) fun c => { c with vq := e c.vq })) =
      { x with st := .live, regs := { x.regs with pc := x.regs.pc + 4 } } := by
    rw [me_retire, show regs (modMyCore (setMe s x) fun c => { c with vq := e c.vq }) = x.regs by rw [regs, h], h]
  refine ⟨_, rfl, h2, congrArg Context.regs h2, ?_⟩
  rw [h2, retire_eq, show regs (modMyCore (setMe s x) fun c => { c with vq := e c.vq }) = x.regs by rw [regs, h], h]
  simp [modMyCore, setMe, setCtx, modCore, setCore_setCore, Core.setCtx, fset_fset]

/-! ### what the operations write -/

theorem allFlags_active (g : Regs) (km : Nat) (f : Nat → Nat × Nat) (old : Nat → Nat) (l : List Nat) :
    allFlags (l.map fun i => if active g km i then f i else (old i, 0)) =
      (l.filter (active g km)).foldr (fun i fl => (f i).2 ||| fl) 0 := by
  induction l with
  | nil => rfl
  | cons i l ih =>
    by_cases h : active g km i <;> simp [allFlags, orFlags, h, ih]

theorem putLanes_eq (vd : BitVec 4) (km w : Nat) (res : Nat → Nat × Nat) :
    ∃ v, putLanes s vd km w res = setMe s { me s with regs := { writeV (regs s) vd.toNat v with
        fflags := (regs s).fflags ||| activeFlags s km w fun i => (res i).2 } } ∧
      ∀ i < laneCount w, lane v w i = onActive s vd km w (fun i => (res i).1) i % 2 ^ w := by
  refine ⟨ofLanes w (((List.range (laneCount w)).map fun i =>
    if active (regs s) km i then res i else (lane (vreg s vd) w i, 0)).map (·.1)), ?_, ?_⟩
  · simp only [putLanes, accrue, putV, modRegs_eq, setMe_setMe, me_setMe, regs_setMe, allFlags_active, activeFlags]
    rfl
  · intro i hi
    rw [lane_ofLanes _ _ _ (laneCount_fits w i hi)]
    simp only [List.map_map, List.getD_eq_getElem?_getD, List.getElem?_map, List.getElem?_range hi, Option.map_some,
      Option.getD_some, Function.comp_apply, onActive, vreg]
    split <;> rfl

/-- An instruction that writes lanes through the vector queue. -/
theorem vecOp_writes (d : Needs) (vd : BitVec 4) (w : Nat) (body : State → State) (sr : Bool) (fl : BitVec 5) (v : VWord)
    (res : Nat → Nat) (hint : Option (BitVec 4)) (h : unmet s d.conds = []) (hq : VqRoom s) (he : d.extra = [])
    (hk : d.keep = hint.map (·.toNat)) (hvw : d.vw = [vd.toNat])
    (hb : body s = setMe s { me s with regs := { writeV (regs s) vd.toNat v with
      fflags := (regs s).fflags ||| fl, qsrctr := (regs s).qsrctr + if sr then 1 else 0 } })
    (hv : ∀ i < laneCount w, lane v w i = res i % 2 ^ w) :
    ∃ t, vecOp d body s = .next t ∧ WritesV s t vd w res fl sr hint := by
  obtain ⟨t, ht, h2, h4, h1⟩ := retire_queued s { me s with regs := { writeV (regs s) vd.toNat v with
      fflags := (regs s).fflags ||| fl, qsrctr := (regs s).qsrctr + if sr then 1 else 0,
      latch := latchKept d.keep d.vw (latchAfter (regs s) vd.toNat) } }
      (fun q => q ++ [{ ctx := s.cur, work := .done }])
  refine ⟨t, by rw [vecOp_met s d body h hq he, hb, keepReuse_setMe, ← ht]; rfl, ?_⟩
  refine ⟨?_, ?_, ?_, ?_, ?_, ?_, ?_, ?_, ?_, ?_⟩
  · exact h1
  · rw [h2, h4]
  · rw [h4]; rfl
  · intro i hi; rw [h4]; show lane (readV (writeV _ _ _) _) w i = _; simp [readV_writeV, hv i hi]
  · intro r hr; rw [h4]; show readV (writeV _ _ _) _ = _; simp [readV_writeV, toNat_ne r vd hr]
  · show BitVec.getLsbD _ _ = true; rw [h4]; show BitVec.getLsbD (writeV (regs s) vd.toNat v).vpres _ = _; simp [vpres_writeV _ _ _ _ vd.isLt]
  · intro r hr; rw [h4]; show BitVec.getLsbD (writeV (regs s) vd.toNat v).vpres _ = _; simp [vpres_writeV _ _ _ _ vd.isLt, toNat_ne r vd hr]
  · rw [h4]
  · rw [h4]
  · rw [h4]
    simp only [latchKept, hk, hvw]
    cases hint with
    | none => rfl
    | some r => simp [BitVec.toNat_inj]

/-- An instruction that writes a mask through the vector queue. -/
theorem vecOp_writesK (d : Needs) (kd : BitVec 3) (m : Word) (body : State → State) (fl : BitVec 5)
    (hint : Option (BitVec 4)) (h : unmet s d.conds = []) (hq : VqRoom s) (he : d.extra = [])
    (hk : d.keep = hint.map (·.toNat)) (hvw : d.vw = [])
    (hb : body s = setMe s { me s with regs := { writeK (regs s) kd.toNat m with fflags := (regs s).fflags ||| fl } }) :
    ∃ t, vecOp d body s = .next t ∧ WritesK s t kd m fl hint := by
  obtain ⟨t, ht, h2, h4, h1⟩ := retire_queued s { me s with regs := { writeK (regs s) kd.toNat m with
      fflags := (regs s).fflags ||| fl, latch := latchKept d.keep d.vw (regs s).latch } }
      (fun q => q ++ [{ ctx := s.cur, work := .done }])
  refine ⟨t, by rw [vecOp_met s d body h hq he, hb, keepReuse_setMe, ← ht]; rfl, ?_⟩
  refine ⟨?_, ?_, ?_, ?_, ?_, ?_, ?_⟩
  · exact h1
  · rw [h2, h4]
  · rw [h4]; rfl
  · rw [h4]; show readK (writeK _ _ _) _ = _; simp [readK_writeK]
  · intro r hr; rw [h4]; show readK (writeK _ _ _) _ = _; simp [readK_writeK, toNat_ne r kd hr]
  · rw [h4]
  · rw [h4]
    simp only [latchKept, hk, hvw]
    cases hint <;> rfl

/-- An instruction that fills an x register from the vector queue. -/
theorem vecFill_fills (d : Needs) (rd : BitVec 5) (value : State → Word) (h : unmet s d.conds = []) (hq : VqRoom s)
    (hd : Settled s rd) (he : d.extra = []) (hw : d.xw = []) (hk : d.keep = none) :
    ∃ t, vecFill d rd value s = .next t ∧ FillsLater s t rd (value s) := by
  refine ⟨_, vecFill_met s d rd value h hq hd he hw hk, ?_⟩
  rw [modRegs_eq]
  obtain ⟨t, ht, h2, h4, h1⟩ := retire_queued s { me s with regs := emptyX (regs s) rd.toNat }
      (fun q => q ++ [{ ctx := s.cur, work := .fillX rd.toNat (value s) }])
  rw [ht]
  refine ⟨?_, ?_⟩
  · exact h1
  · rw [h2]; simp [emptyX_pc]

end Sys2Proof.Machine
end

