-- ==== Sys2Proof/Tests/Slice0.lean ====
section
/-! SUPPORT. Small checks of the model against the spec, and, for every statement with hypotheses, a state and operands
that meet them (`witness_<statement>`). -/
section
open Sys2Proof Sys2Proof.Machine Host
set_option Elab.async false

/-! ### ill-formed operands are refused (03 R47, R51, R54 to R67) -/

theorem test_illformed_frounding : Instr.wf (.faddS 1 2 3 5) = false ∧ Instr.wf (.fmaddS 1 2 3 4 6) = false := ⟨rfl, rfl⟩
theorem test_illformed_rounding : Instr.wf (.vadd 1 2 3 0 6 0 0) = false ∧ Instr.wf (.maSt 1 0 2 6) = false := ⟨rfl, rfl⟩
theorem test_illformed_scope : Instr.wf (.fncAcq 12) = false ∧ Instr.wf (.fncRel 31) = false := ⟨rfl, rfl⟩
theorem test_illformed_source : Instr.wf (.vcvt 1 2 10 0 0 0 0) = false := rfl
theorem test_illformed_integer : Instr.wf (.viadd 1 2 3 4 0 0) = false := rfl
theorem test_illformed_choice : Instr.wf (.vmerge 1 2 3 0 0 0) = false := rfl
theorem test_illformed_pair : Instr.wf (.mmBf16 1 3 4 6) = false ∧ Instr.wf (.amCasQ 0 1 2 0 0) = false := ⟨rfl, rfl⟩
theorem test_illformed_kind : Instr.wf (.pclr 2 1) = false ∧ Instr.wf (.ptest 1 1 16) = false := ⟨rfl, rfl⟩
theorem test_illformed_ordering : Instr.wf (.amAdd 1 2 3 3 0 0) = false ∧ Instr.wf (.amAdd 1 2 3 0 0 1) = false := ⟨rfl, rfl⟩

/-! ### the worked words of the spec (03 R50, R65; 04 and 05, their word tables; 06 R163; 07 R180) -/

theorem test_worked_contexts :
    decode 0x0062850B#32 = .ok (.hstart 10 5 6) ∧ decode 0x0200000B#32 = .ok .hend ∧ decode 0x0405000B#32 = .ok (.hwait 10) ∧
    decode 0x0605000B#32 = .ok (.hkill 10) ∧ decode 0x0800000B#32 = .ok .yield ∧ decode 0x0A00058B#32 = .ok (.pnext 11) ∧
    decode 0x0C00000B#32 = .ok .upret ∧ decode 0x0E00000B#32 = .ok .qhalt ∧ decode 0x0000128B#32 = .ok (.pclr 0 5) ∧
    decode 0x0010118B#32 = .ok (.pclr 1 3) ∧ decode 0x0202950B#32 = .ok (.ptest 10 0 5) ∧ decode 0x04B5100B#32 = .ok (.nput 10 11) ∧
    decode 0x06C5950B#32 = .ok (.ctxSave 10 11 12) ∧ decode 0x08C5950B#32 = .ok (.ctxLoad 10 11 12) :=
  ⟨rfl, rfl, rfl, rfl, rfl, rfl, rfl, rfl, rfl, rfl, rfl, rfl, rfl, rfl⟩

theorem test_worked_barriers :
    decode 0x0005200B#32 = .ok (.barInit 10) ∧ decode 0x0200250B#32 = .ok (.barArr 10) ∧ decode 0x0405200B#32 = .ok (.barWait 10) ∧
    decode 0x0600250B#32 = .ok (.barAwt 10) ∧ decode 0x0800250B#32 = .ok (.barDrop 10) ∧
    decode 0x0AC5A50B#32 = .ok (.domSet 10 11 12) ∧ decode 0x0C05A50B#32 = .ok (.domGet 10 11) ∧
    decode 0x0005300B#32 = .ok (.xchBeg 10) ∧ decode 0x0200300B#32 = .ok .xchEnd ∧ decode 0x0425300B#32 = .ok (.xsend 10 2) ∧
    decode 0x0606358B#32 = .ok (.xrecv 11 12) ∧ decode 0x02A5400B#32 = .ok (.qtrap 10 42) :=
  ⟨rfl, rfl, rfl, rfl, rfl, rfl, rfl, rfl, rfl, rfl, rfl, rfl⟩

theorem test_worked_memory :
    decode 0x0A0531AB#32 = .ok (.vld 3 10 5 0 0) ∧ decode 0x9C2530AB#32 = .ok (.vldx 1 10 2 6 1 0) ∧
    decode 0xBEC7552B#32 = .ok (.amCasQ 10 14 12 5 3) ∧ decode 0x3663E02B#32 = .ok (.redFadd 7 6 0) ∧
    decode 0x86C5E52B#32 = .ok (.lkAcq 10 11 12) ∧ decode 0xA600652B#32 = .ok (.txBeg 10) ∧
    decode 0x68C5E52B#32 = .ok (.gwait 10 11 12 13) ∧ decode 0x68C5F52B#32 = .ok (.cpG2s 10 11 12 13) ∧
    decode 0x0A6392AB#32 = .ok (.amAdd 5 7 6 1 1 1) ∧ decode 0x4E60602B#32 = .ok (.fncRel 6) :=
  ⟨rfl, rfl, rfl, rfl, rfl, rfl, rfl, rfl, rfl, rfl⟩

theorem test_worked_vector :
    decode 0x0065825B#32 = .ok (.vadd 4 5 6 2 0 0 0) ∧ decode 0x2C2181DB#32 = .ok (.vfma 3 1 2 2 0 0 1) ∧
    decode 0x60286BDB#32 = .ok (.vcvt 7 8 2 1 5 0 0) ∧ decode 0x680280DB#32 = .ok (.vredsum 1 2 2 0 0 0) ∧
    decode 0x829920DB#32 = .ok (.viadd 1 2 3 2 5 0) ∧ decode 0xAC10C15B#32 = .ok (.vcmplt 2 1 2 4 0 0) ∧
    decode 0xD41B255B#32 = .ok (.vext 10 3 6 2) ∧ decode 0xE80185DB#32 = .ok (.kpop 11 3) ∧
    decode 0x2A2169DB#32 = .ok (.vfma 3 1 2 1 5 2 0) :=
  ⟨rfl, rfl, rfl, rfl, rfl, rfl, rfl, rfl, rfl⟩

theorem test_worked_matrix :
    decode 0x20E66A7B#32 = .ok (.mmQe4 20 12 14 4) ∧ decode 0x0C000A7B#32 = .ok (.maZero 20 1) ∧
    decode 0x1C003A7B#32 = .ok (.maMv 20 3 0) ∧ decode 0x1415537B#32 = .ok (.laFma 6 10 1 2) ∧
    decode 0x840573FB#32 = .ok (.laRnd 7 10 2 0) ∧ decode 0x0E4594FB#32 = .ok (.hxBin 9 11 4 1) ∧
    decode 0x10E6057B#32 = .ok (.mmBf16 10 12 14 2) ∧ decode 0xB406247B#32 = .ok (.maSt 8 2 12 5) :=
  ⟨rfl, rfl, rfl, rfl, rfl, rfl, rfl, rfl⟩

theorem test_worked_base :
    decode 0x0006B283#32 = .ok (.ld 5 13 0) ∧ decode 0x00580833#32 = .ok (.add 16 16 5) ∧ decode 0x00000073#32 = .ok .ecall :=
  ⟨rfl, rfl, rfl⟩

/-! ### a word of every row, its fields placed as the opcode table places them -/

theorem test_words_upper :
    decode 0xABCDE537#32 = .ok (.lui 10 703710) ∧
    decode 0xABCDE517#32 = .ok (.auipc 10 703710) :=
  ⟨rfl, rfl⟩

theorem test_words_jumps :
    decode 0xBBB800EF#32 = .ok (.jal 1 787933) ∧
    decode 0xABC60567#32 = .ok (.jalr 10 12 2748) :=
  ⟨rfl, rfl⟩

theorem test_words_branches :
    decode 0xA4C58DE3#32 = .ok (.beq 11 12 3373) ∧
    decode 0xA4C59DE3#32 = .ok (.bne 11 12 3373) ∧
    decode 0xA4C5CDE3#32 = .ok (.blt 11 12 3373) ∧
    decode 0xA4C5DDE3#32 = .ok (.bge 11 12 3373) ∧
    decode 0xA4C5EDE3#32 = .ok (.bltu 11 12 3373) ∧
    decode 0xA4C5FDE3#32 = .ok (.bgeu 11 12 3373) :=
  ⟨rfl, rfl, rfl, rfl, rfl, rfl⟩

theorem test_words_loads :
    decode 0xABC60503#32 = .ok (.lb 10 12 2748) ∧
    decode 0xABC61503#32 = .ok (.lh 10 12 2748) ∧
    decode 0xABC62503#32 = .ok (.lw 10 12 2748) ∧
    decode 0xABC63503#32 = .ok (.ld 10 12 2748) ∧
    decode 0xABC64503#32 = .ok (.lbu 10 12 2748) ∧
    decode 0xABC65503#32 = .ok (.lhu 10 12 2748) ∧
    decode 0xABC66503#32 = .ok (.lwu 10 12 2748) :=
  ⟨rfl, rfl, rfl, rfl, rfl, rfl, rfl⟩

theorem test_words_stores :
    decode 0xAAC58E23#32 = .ok (.sb 12 11 2748) ∧
    decode 0xAAC59E23#32 = .ok (.sh 12 11 2748) ∧
    decode 0xAAC5AE23#32 = .ok (.sw 12 11 2748) ∧
    decode 0xAAC5BE23#32 = .ok (.sd 12 11 2748) :=
  ⟨rfl, rfl, rfl, rfl⟩

theorem test_words_immediates :
    decode 0xABC60513#32 = .ok (.addi 10 12 2748) ∧
    decode 0xABC62513#32 = .ok (.slti 10 12 2748) ∧
    decode 0xABC63513#32 = .ok (.sltiu 10 12 2748) ∧
    decode 0xABC64513#32 = .ok (.xori 10 12 2748) ∧
    decode 0xABC66513#32 = .ok (.ori 10 12 2748) ∧
    decode 0xABC67513#32 = .ok (.andi 10 12 2748) ∧
    decode 0x02561513#32 = .ok (.slli 10 12 37) ∧
    decode 0x02565513#32 = .ok (.srli 10 12 37) ∧
    decode 0x42565513#32 = .ok (.srai 10 12 37) ∧
    decode 0xABC6051B#32 = .ok (.addiw 10 12 2748) ∧
    decode 0x0156151B#32 = .ok (.slliw 10 12 21) ∧
    decode 0x0156551B#32 = .ok (.srliw 10 12 21) ∧
    decode 0x4156551B#32 = .ok (.sraiw 10 12 21) :=
  ⟨rfl, rfl, rfl, rfl, rfl, rfl, rfl, rfl, rfl, rfl, rfl, rfl, rfl⟩

theorem test_words_registers_a :
    decode 0x00E60533#32 = .ok (.add 10 12 14) ∧
    decode 0x00E61533#32 = .ok (.sll 10 12 14) ∧
    decode 0x00E62533#32 = .ok (.slt 10 12 14) ∧
    decode 0x00E63533#32 = .ok (.sltu 10 12 14) ∧
    decode 0x00E64533#32 = .ok (.xor 10 12 14) ∧
    decode 0x00E65533#32 = .ok (.srl 10 12 14) ∧
    decode 0x00E66533#32 = .ok (.or 10 12 14) ∧
    decode 0x00E67533#32 = .ok (.and 10 12 14) ∧
    decode 0x40E60533#32 = .ok (.sub 10 12 14) ∧
    decode 0x40E65533#32 = .ok (.sra 10 12 14) ∧
    decode 0x02E60533#32 = .ok (.mul 10 12 14) ∧
    decode 0x02E61533#32 = .ok (.mulh 10 12 14) ∧
    decode 0x02E62533#32 = .ok (.mulhsu 10 12 14) ∧
    decode 0x02E63533#32 = .ok (.mulhu 10 12 14) ∧
    decode 0x02E64533#32 = .ok (.div 10 12 14) ∧
    decode 0x02E65533#32 = .ok (.divu 10 12 14) :=
  ⟨rfl, rfl, rfl, rfl, rfl, rfl, rfl, rfl, rfl, rfl, rfl, rfl, rfl, rfl, rfl, rfl⟩

theorem test_words_registers_b :
    decode 0x02E66533#32 = .ok (.rem 10 12 14) ∧
    decode 0x02E67533#32 = .ok (.remu 10 12 14) ∧
    decode 0x00E6053B#32 = .ok (.addw 10 12 14) ∧
    decode 0x00E6153B#32 = .ok (.sllw 10 12 14) ∧
    decode 0x00E6553B#32 = .ok (.srlw 10 12 14) ∧
    decode 0x40E6053B#32 = .ok (.subw 10 12 14) ∧
    decode 0x40E6553B#32 = .ok (.sraw 10 12 14) ∧
    decode 0x02E6053B#32 = .ok (.mulw 10 12 14) ∧
    decode 0x02E6453B#32 = .ok (.divw 10 12 14) ∧
    decode 0x02E6553B#32 = .ok (.divuw 10 12 14) ∧
    decode 0x02E6653B#32 = .ok (.remw 10 12 14) ∧
    decode 0x02E6753B#32 = .ok (.remuw 10 12 14) :=
  ⟨rfl, rfl, rfl, rfl, rfl, rfl, rfl, rfl, rfl, rfl, rfl, rfl⟩

theorem test_words_fences :
    decode 0x0FF5850F#32 = .ok (.fence 10 11 255) ∧
    decode 0xABC6150F#32 = .ok (.fenceI 10 12 2748) :=
  ⟨rfl, rfl⟩

theorem test_words_system :
    decode 0xBC461573#32 = .ok (.csrrw 10 12 3012) ∧
    decode 0xBC462573#32 = .ok (.csrrs 10 12 3012) ∧
    decode 0xBC463573#32 = .ok (.csrrc 10 12 3012) ∧
    decode 0xBC4AD573#32 = .ok (.csrrwi 10 21 3012) ∧
    decode 0xBC4AE573#32 = .ok (.csrrsi 10 21 3012) ∧
    decode 0xBC4AF573#32 = .ok (.csrrci 10 21 3012) ∧
    decode 0x00000073#32 = .ok .ecall ∧
    decode 0x00100073#32 = .ok .ebreak ∧
    decode 0x10200073#32 = .ok .sret ∧
    decode 0x30200073#32 = .ok .mret ∧
    decode 0x10500073#32 = .ok .wfi :=
  ⟨rfl, rfl, rfl, rfl, rfl, rfl, rfl, rfl, rfl, rfl, rfl⟩

theorem test_words_float_a :
    decode 0xABC62507#32 = .ok (.flw 10 12 2748) ∧
    decode 0xAAC5AE27#32 = .ok (.fsw 12 11 2748) ∧
    decode 0x68E63543#32 = .ok (.fmaddS 10 12 14 13 3) ∧
    decode 0x68E63547#32 = .ok (.fmsubS 10 12 14 13 3) ∧
    decode 0x68E6354B#32 = .ok (.fnmsubS 10 12 14 13 3) ∧
    decode 0x68E6354F#32 = .ok (.fnmaddS 10 12 14 13 3) ∧
    decode 0x00E63553#32 = .ok (.faddS 10 12 14 3) ∧
    decode 0x08E63553#32 = .ok (.fsubS 10 12 14 3) ∧
    decode 0x10E63553#32 = .ok (.fmulS 10 12 14 3) ∧
    decode 0x18E63553#32 = .ok (.fdivS 10 12 14 3) ∧
    decode 0x58063553#32 = .ok (.fsqrtS 10 12 3) ∧
    decode 0x20E60553#32 = .ok (.fsgnjS 10 12 14) ∧
    decode 0x20E61553#32 = .ok (.fsgnjnS 10 12 14) ∧
    decode 0x20E62553#32 = .ok (.fsgnjxS 10 12 14) ∧
    decode 0x28E60553#32 = .ok (.fminS 10 12 14) ∧
    decode 0x28E61553#32 = .ok (.fmaxS 10 12 14) :=
  ⟨rfl, rfl, rfl, rfl, rfl, rfl, rfl, rfl, rfl, rfl, rfl, rfl, rfl, rfl, rfl, rfl⟩

theorem test_words_float_b :
    decode 0xA0E60553#32 = .ok (.fleS 10 12 14) ∧
    decode 0xA0E61553#32 = .ok (.fltS 10 12 14) ∧
    decode 0xA0E62553#32 = .ok (.feqS 10 12 14) ∧
    decode 0xC0063553#32 = .ok (.fcvtWS 10 12 3) ∧
    decode 0xC0163553#32 = .ok (.fcvtWuS 10 12 3) ∧
    decode 0xC0263553#32 = .ok (.fcvtLS 10 12 3) ∧
    decode 0xC0363553#32 = .ok (.fcvtLuS 10 12 3) ∧
    decode 0xD0063553#32 = .ok (.fcvtSW 10 12 3) ∧
    decode 0xD0163553#32 = .ok (.fcvtSWu 10 12 3) ∧
    decode 0xD0263553#32 = .ok (.fcvtSL 10 12 3) ∧
    decode 0xD0363553#32 = .ok (.fcvtSLu 10 12 3) ∧
    decode 0xE0060553#32 = .ok (.fmvXW 10 12) ∧
    decode 0xE0061553#32 = .ok (.fclassS 10 12) ∧
    decode 0xF0060553#32 = .ok (.fmvWX 10 12) :=
  ⟨rfl, rfl, rfl, rfl, rfl, rfl, rfl, rfl, rfl, rfl, rfl, rfl, rfl, rfl⟩

theorem test_words_contexts_a :
    decode 0x00E6050B#32 = .ok (.hstart 10 12 14) ∧
    decode 0x0406000B#32 = .ok (.hwait 12) ∧
    decode 0x0606000B#32 = .ok (.hkill 12) ∧
    decode 0x0A00050B#32 = .ok (.pnext 10) ∧
    decode 0x0010138B#32 = .ok (.pclr 1 7) ∧
    decode 0x0213950B#32 = .ok (.ptest 10 1 7) ∧
    decode 0x04E6100B#32 = .ok (.nput 12 14) ∧
    decode 0x06E6150B#32 = .ok (.ctxSave 10 12 14) ∧
    decode 0x08E6150B#32 = .ok (.ctxLoad 10 12 14) ∧
    decode 0x0006200B#32 = .ok (.barInit 12) ∧
    decode 0x0200250B#32 = .ok (.barArr 10) ∧
    decode 0x0406200B#32 = .ok (.barWait 12) ∧
    decode 0x0600250B#32 = .ok (.barAwt 10) ∧
    decode 0x0800250B#32 = .ok (.barDrop 10) ∧
    decode 0x0AE6250B#32 = .ok (.domSet 10 12 14) ∧
    decode 0x0C06250B#32 = .ok (.domGet 10 12) :=
  ⟨rfl, rfl, rfl, rfl, rfl, rfl, rfl, rfl, rfl, rfl, rfl, rfl, rfl, rfl, rfl, rfl⟩

theorem test_words_contexts_b :
    decode 0x0006300B#32 = .ok (.xchBeg 12) ∧
    decode 0x04B6300B#32 = .ok (.xsend 12 11) ∧
    decode 0x0606350B#32 = .ok (.xrecv 10 12) ∧
    decode 0x2A76400B#32 = .ok (.qtrap 12 679) ∧
    decode 0x0200000B#32 = .ok .hend ∧
    decode 0x0800000B#32 = .ok .yield ∧
    decode 0x0C00000B#32 = .ok .upret ∧
    decode 0x0E00000B#32 = .ok .qhalt ∧
    decode 0x0200300B#32 = .ok .xchEnd :=
  ⟨rfl, rfl, rfl, rfl, rfl, rfl, rfl, rfl, rfl⟩

theorem test_words_memory_a :
    decode 0x0CE6552B#32 = .ok (.amAdd 10 12 14 5 1 2) ∧
    decode 0x1CE6552B#32 = .ok (.amAnd 10 12 14 5 1 2) ∧
    decode 0x2CE6552B#32 = .ok (.amOr 10 12 14 5 1 2) ∧
    decode 0x3CE6552B#32 = .ok (.amXor 10 12 14 5 1 2) ∧
    decode 0x4CE6552B#32 = .ok (.amMin 10 12 14 5 1 2) ∧
    decode 0x5CE6552B#32 = .ok (.amMax 10 12 14 5 1 2) ∧
    decode 0x6CE6552B#32 = .ok (.amMinn 10 12 14 5 1 2) ∧
    decode 0x7CE6552B#32 = .ok (.amMaxn 10 12 14 5 1 2) ∧
    decode 0x8CE6552B#32 = .ok (.amSwp 10 12 14 5 1 2) ∧
    decode 0x9CE6552B#32 = .ok (.amCas 10 12 14 5 1 2) ∧
    decode 0xACE6552B#32 = .ok (.amFadd 10 12 14 5 1 2) ∧
    decode 0xBCE6552B#32 = .ok (.amCasQ 10 12 14 5 2) ∧
    decode 0x26063BAB#32 = .ok (.vld 7 12 3 2 1) ∧
    decode 0x66E63BAB#32 = .ok (.vlds 7 12 14 3 2 1) ∧
    decode 0xA6B63BAB#32 = .ok (.vldx 7 12 11 3 2 1) ∧
    decode 0xE6063BAB#32 = .ok (.vbc 7 12 3 2 1) :=
  ⟨rfl, rfl, rfl, rfl, rfl, rfl, rfl, rfl, rfl, rfl, rfl, rfl, rfl, rfl, rfl, rfl⟩

theorem test_words_memory_b :
    decode 0x26064BAB#32 = .ok (.vst 7 12 3 2 1) ∧
    decode 0x66E64BAB#32 = .ok (.vsts 7 12 14 3 2 1) ∧
    decode 0xA6B64BAB#32 = .ok (.vstx 7 12 11 3 2 1) ∧
    decode 0x68E6652B#32 = .ok (.gwait 10 12 14 13) ∧
    decode 0x6AE6652B#32 = .ok (.cpG2g 10 12 14 13) ∧
    decode 0x6CE6652B#32 = .ok (.cp2d 10 12 14 13) ∧
    decode 0x68E6752B#32 = .ok (.cpG2s 10 12 14 13) ∧
    decode 0x6AE6752B#32 = .ok (.cpS2g 10 12 14 13) ∧
    decode 0x6CE6752B#32 = .ok (.cpS2s 10 12 14 13) ∧
    decode 0x0EE6602B#32 = .ok (.redAdd 12 14 1) ∧
    decode 0x1EE6602B#32 = .ok (.redMin 12 14 1) ∧
    decode 0x2EE6602B#32 = .ok (.redMax 12 14 1) ∧
    decode 0x3EE6602B#32 = .ok (.redFadd 12 14 1) ∧
    decode 0x4660602B#32 = .ok (.fncAcq 6) ∧
    decode 0x4E60602B#32 = .ok (.fncRel 6) ∧
    decode 0x5660602B#32 = .ok (.fncFull 6) :=
  ⟨rfl, rfl, rfl, rfl, rfl, rfl, rfl, rfl, rfl, rfl, rfl, rfl, rfl, rfl, rfl, rfl⟩

theorem test_words_memory_c :
    decode 0x5EE6602B#32 = .ok (.gsig 12 14) ∧
    decode 0x6606652B#32 = .ok (.tkGet 10 12) ∧
    decode 0x6EE6602B#32 = .ok (.tkWait 12 14) ∧
    decode 0x7606602B#32 = .ok (.tkAdv 12) ∧
    decode 0x86E6652B#32 = .ok (.lkAcq 10 12 14) ∧
    decode 0x8E06652B#32 = .ok (.lkTry 10 12) ∧
    decode 0x9606602B#32 = .ok (.lkRel 12) ∧
    decode 0x9E06652B#32 = .ok (.lkStat 10 12) ∧
    decode 0xA600652B#32 = .ok (.txBeg 10) ∧
    decode 0xB606602B#32 = .ok (.txAbt 12) ∧
    decode 0xBE00652B#32 = .ok (.txStat 10) ∧
    decode 0x0606752B#32 = .ok (.cpPub 10 12) ∧
    decode 0x0E00752B#32 = .ok (.cpCancel 10) ∧
    decode 0x16E6752B#32 = .ok (.gth 10 12 14) ∧
    decode 0x1EE6752B#32 = .ok (.sct 10 12 14) ∧
    decode 0x2606702B#32 = .ok (.clWb 12) :=
  ⟨rfl, rfl, rfl, rfl, rfl, rfl, rfl, rfl, rfl, rfl, rfl, rfl, rfl, rfl, rfl, rfl⟩

theorem test_words_memory_d :
    decode 0x2E06702B#32 = .ok (.clInv 12) ∧
    decode 0x3606702B#32 = .ok (.clFlush 12) ∧
    decode 0x46E6702B#32 = .ok (.tlbInv 12 14) ∧
    decode 0x4EE6752B#32 = .ok (.pgMig 10 12 14) ∧
    decode 0x5606752B#32 = .ok (.pgStat 10 12) ∧
    decode 0xAE00602B#32 = .ok .txEnd :=
  ⟨rfl, rfl, rfl, rfl, rfl, rfl⟩

theorem test_words_vector_a :
    decode 0x069599DB#32 = .ok (.vadd 3 5 9 2 3 2 1) ∧
    decode 0x0E9599DB#32 = .ok (.vsub 3 5 9 2 3 2 1) ∧
    decode 0x169599DB#32 = .ok (.vmul 3 5 9 2 3 2 1) ∧
    decode 0x1E9599DB#32 = .ok (.vdiv 3 5 9 2 3 2 1) ∧
    decode 0x260599DB#32 = .ok (.vsqrt 3 5 2 3 2 1) ∧
    decode 0x2E9599DB#32 = .ok (.vfma 3 5 9 2 3 2 1) ∧
    decode 0x369599DB#32 = .ok (.vfms 3 5 9 2 3 2 1) ∧
    decode 0x3E9599DB#32 = .ok (.vfnma 3 5 9 2 3 2 1) ∧
    decode 0x469581DB#32 = .ok (.vmin 3 5 9 2 2 1) ∧
    decode 0x4E9581DB#32 = .ok (.vmax 3 5 9 2 2 1) ∧
    decode 0x560581DB#32 = .ok (.vabs 3 5 2 2 1) ∧
    decode 0x5E0581DB#32 = .ok (.vneg 3 5 2 2 1) ∧
    decode 0x668599DB#32 = .ok (.vcvt 3 5 8 2 3 2 1) ∧
    decode 0x6E0599DB#32 = .ok (.vredsum 3 5 2 3 2 1) ∧
    decode 0x760581DB#32 = .ok (.vredmin 3 5 2 2 1) ∧
    decode 0x7E0581DB#32 = .ok (.vredmax 3 5 2 2 1) :=
  ⟨rfl, rfl, rfl, rfl, rfl, rfl, rfl, rfl, rfl, rfl, rfl, rfl, rfl, rfl, rfl, rfl⟩

theorem test_words_vector_b :
    decode 0x814AB9DB#32 = .ok (.viadd 3 5 9 3 2 1) ∧
    decode 0x854AB9DB#32 = .ok (.visub 3 5 9 3 2 1) ∧
    decode 0x894AB9DB#32 = .ok (.vimul 3 5 9 3 2 1) ∧
    decode 0x8D4AB9DB#32 = .ok (.vand 3 5 9 3 2 1) ∧
    decode 0x914AB9DB#32 = .ok (.vor 3 5 9 3 2 1) ∧
    decode 0x954AB9DB#32 = .ok (.vxor 3 5 9 3 2 1) ∧
    decode 0x994AB9DB#32 = .ok (.vsll 3 5 9 3 2 1) ∧
    decode 0x9D4AB9DB#32 = .ok (.vsrl 3 5 9 3 2 1) ∧
    decode 0xA14AB9DB#32 = .ok (.vsra 3 5 9 3 2 1) ∧
    decode 0xA54AB95B#32 = .ok (.vcmpeq 2 5 9 3 2 1) ∧
    decode 0xA94AB95B#32 = .ok (.vcmpne 2 5 9 3 2 1) ∧
    decode 0xAD4AB95B#32 = .ok (.vcmplt 2 5 9 3 2 1) ∧
    decode 0xB14AB95B#32 = .ok (.vcmple 2 5 9 3 2 1) ∧
    decode 0xB54AB95B#32 = .ok (.vcmpltn 2 5 9 3 2 1) ∧
    decode 0xB94AB9DB#32 = .ok (.vperm 3 5 9 3 2 1) ∧
    decode 0xBD4AB9DB#32 = .ok (.vslide 3 5 9 3 2 1) :=
  ⟨rfl, rfl, rfl, rfl, rfl, rfl, rfl, rfl, rfl, rfl, rfl, rfl, rfl, rfl, rfl, rfl⟩

theorem test_words_vector_c :
    decode 0xC14AB9DB#32 = .ok (.vzip 3 5 9 3 2 1) ∧
    decode 0xC54AB9DB#32 = .ok (.vunzip 3 5 9 3 2 1) ∧
    decode 0xC94AB9DB#32 = .ok (.vmerge 3 5 9 3 2 1) ∧
    decode 0xCD0289DB#32 = .ok (.vmv 3 5 2 1) ∧
    decode 0xD06CB9DB#32 = .ok (.vins 3 9 13 3 1) ∧
    decode 0xD45EB55B#32 = .ok (.vext 10 11 13 3) ∧
    decode 0xD81B015B#32 = .ok (.kand 2 6 3) ∧
    decode 0xDC1B015B#32 = .ok (.kor 2 6 3) ∧
    decode 0xE01B015B#32 = .ok (.kxor 2 6 3) ∧
    decode 0xE403015B#32 = .ok (.knot 2 6) ∧
    decode 0xE803055B#32 = .ok (.kpop 10 6) ∧
    decode 0xEC03055B#32 = .ok (.kfirst 10 6) :=
  ⟨rfl, rfl, rfl, rfl, rfl, rfl, rfl, rfl, rfl, rfl, rfl, rfl⟩

theorem test_words_matrix_a :
    decode 0x20E6057B#32 = .ok (.mmBf16 10 12 14 4) ∧
    decode 0x20E6157B#32 = .ok (.mmFp16 10 12 14 4) ∧
    decode 0x20E6257B#32 = .ok (.mmE4e4 10 12 14 4) ∧
    decode 0x20E6357B#32 = .ok (.mmE5e5 10 12 14 4) ∧
    decode 0x20E6457B#32 = .ok (.mmE4e5 10 12 14 4) ∧
    decode 0x20E6557B#32 = .ok (.mmE5e4 10 12 14 4) ∧
    decode 0x20E6657B#32 = .ok (.mmQe4 10 12 14 4) ∧
    decode 0x20E6757B#32 = .ok (.mmQbf 10 12 14 4) ∧
    decode 0x22E6057B#32 = .ok (.mmI8 10 12 14 4) ∧
    decode 0x22E6157B#32 = .ok (.mmFp32 10 12 14 4) ∧
    decode 0x1400057B#32 = .ok (.maZero 10 2) ∧
    decode 0x1406157B#32 = .ok (.maLd 10 2 12) ∧
    decode 0x7406257B#32 = .ok (.maSt 10 2 12 3) ∧
    decode 0x3C00357B#32 = .ok (.maMv 10 3 1) ∧
    decode 0x0406457B#32 = .ok (.laClr 10 12) ∧
    decode 0x4C66557B#32 = .ok (.laFma 10 12 6 9) :=
  ⟨rfl, rfl, rfl, rfl, rfl, rfl, rfl, rfl, rfl, rfl, rfl, rfl, rfl, rfl, rfl, rfl⟩

theorem test_words_matrix_b :
    decode 0x0466657B#32 = .ok (.laAdd 10 12 6) ∧
    decode 0x9C06757B#32 = .ok (.laRnd 10 12 2 3) ∧
    decode 0x06E6057B#32 = .ok (.laMrg 10 12 14) ∧
    decode 0x1666157B#32 = .ok (.hxBin 10 12 6 2) ∧
    decode 0x0606257B#32 = .ok (.hxClr 10 12) ∧
    decode 0x06E6357B#32 = .ok (.hxMrg 10 12 14) :=
  ⟨rfl, rfl, rfl, rfl, rfl, rfl⟩

/-! ### states of the witnesses -/

/-- A live context of a mode with registers. -/
def ctxWith (m : Mode) (xs : FMap Word) : Context := { mode := m, st := .live, regs := { x := xs, pc := 0x1000 } }
/-- One core. -/
def oneCore (c : Machine.Core) : State := { cores := [(0, c)] }
/-- Context 0 of a core without a launch. -/
def inMode (m : Mode) (xs : FMap Word) : State := oneCore { ctxs := [(0, ctxWith m xs)] }
/-- Context 0 in a transaction. -/
def txState (xs : FMap Word) : State :=
  oneCore { ctxs := [(0, { ctxWith .u xs with tx := some { depth := 1, saved := { pc := 0x2000 }, rd := 4 } })] }
/-- Helper 3 runs, in S mode. -/
def helperState (xs : FMap Word) : State :=
  { oneCore { ctxs := [(0, ctxWith .s []), (3, ctxWith .s xs)] } with cur := 3 }
/-- A launch of two ranks on cores 0 and 1 with four parcels. -/
def twoRanks : Launch := {
  id := 1, pkg := 0, part := 2, tenant := 5, queue := 0, entry := 0x1000, args := 7, cores := 2, parcels := 4, spm := 65536, hstack := 4,
  prio := 0, mtx := true, policy := 0, record := 0x4000, tag := 9, slotsPa := 0, regions := 0, started := true, place := [0, 1], dom := 1 }
def rankCore (r : Nat) (xs : FMap Word) : Machine.Core := {
  ctxs := [(0, ctxWith .u xs)], launch := some 1, rank := r, parcel := r, spmBytes := 65536,
  levels := [{ dom := 1, rank := r, size := 2 }] }
/-- The launch runs: context 0 of core 0 issues. -/
def launchState (xs : FMap Word) : State := {
  cores := [(0, rankCore 0 xs), (1, rankCore 1 [])], launches := [twoRanks],
  doms := [{ id := 1, launch := 1, members := [0, 1], e := 2 }] }

/-! ### the integer base, single precision -/

/-- A next state with a property. -/
def nextHas (o : Out) (p : State → Bool) : Bool :=
  match o with
  | .next t => p t
  | .fault _ => false
  | .refused _ => false

/-- 0x7FF..F + 1 wraps; the source is also the destination. -/
theorem test_add_wraps : nextHas (exec (.add 5 5 6) (inMode .u [(5, 0xFFFFFFFFFFFFFFFF), (6, 2)])) (fun t => xr t 5 == 1) = true := by
  decide +kernel

theorem witness_IntegerRegister : Present (inMode .u [(5, 7), (6, 9)]) 5 ∧ Present (inMode .u [(5, 7), (6, 9)]) 6 ∧
    Settled (inMode .u [(5, 7), (6, 9)]) 0 := by
  unfold Present Settled
  decide +kernel
theorem witness_IntegerImmediate : Present (inMode .u [(5, 7)]) 5 ∧ Settled (inMode .u [(5, 7)]) 31 := by
  unfold Present Settled
  decide +kernel
theorem witness_Division : (inMode .u [(5, 7)]).idsBelow ∧ Present (inMode .u [(5, 7)]) 5 ∧ Present (inMode .u [(5, 7)]) 0 ∧
    Settled (inMode .u [(5, 7)]) 5 := by
  unfold Present Settled
  decide +kernel

/-- A target that is aligned, and one that is not, for both jumps. -/
theorem witness_Jumps : Settled (inMode .u [(5, 0x4001)]) 1 ∧ Present (inMode .u [(5, 0x4001)]) 5 ∧
    ((0x1000#64 + (BitVec.signExtend 64 (4#20 ++ 0#1))).toNat % 4 = 0) ∧ ((0x1000#64 + (BitVec.signExtend 64 (5#20 ++ 0#1))).toNat % 4 ≠ 0) ∧
    ((xr (inMode .u [(5, 0x4001)]) 5 + BitVec.signExtend 64 0#12) &&& ~~~1).toNat % 4 = 0 ∧
    ((xr (inMode .u [(5, 0x4001)]) 5 + BitVec.signExtend 64 2#12) &&& ~~~1).toNat % 4 ≠ 0 := by
  unfold Present Settled
  decide +kernel

/-- Both ways of every comparison, with the signs crossed: -1 and 1. -/
theorem witness_Branches : Present (inMode .u [(5, 0xFFFFFFFFFFFFFFFF), (6, 1)]) 5 ∧ Present (inMode .u [(5, 0xFFFFFFFFFFFFFFFF), (6, 1)]) 6 ∧
    (0xFFFFFFFFFFFFFFFF#64).toInt < (1#64).toInt ∧ (1#64).toNat < (0xFFFFFFFFFFFFFFFF#64).toNat := by unfold Present; decide +kernel

theorem witness_FloatArithmetic : FreeF (inMode .u []) 1 ∧ FreeF (inMode .u []) 2 ∧ FreeF (inMode .u []) 3 ∧ FreeF (inMode .u []) 31 ∧
    (if (7 : BitVec 3) = 7 then (regs (inMode .u [])).frm.toNat else (7 : BitVec 3).toNat) ≤ 4 := by unfold FreeF; decide +kernel
theorem witness_FloatLateResults : (inMode .u []).idsBelow ∧ FreeF (inMode .u []) 1 ∧ FreeF (inMode .u []) 2 ∧ FreeF (inMode .u []) 0 ∧
    FreeF (inMode .u []) 3 ∧ ¬ FreeF (oneCore { ctxs := [(0, { st := .live, regs := { fpend := 2 } })] }) 1 ∧
    (if (7 : BitVec 3) = 7 then (regs (inMode .u [])).frm.toNat else (7 : BitVec 3).toNat) ≤ 4 := by unfold FreeF; decide +kernel
theorem witness_FloatMoves : FreeF (inMode .u []) 1 ∧ FreeF (inMode .u []) 2 ∧ FreeF (inMode .u []) 3 ∧ Settled (inMode .u []) 3 ∧
    Present (inMode .u []) 1 := by
  unfold Present Settled FreeF
  decide +kernel
theorem witness_FloatConversions : FreeF (inMode .u []) 1 ∧ Settled (inMode .u []) 4 ∧ Present (inMode .u []) 1 ∧ FreeF (inMode .u []) 4 ∧
    (if (4 : BitVec 3) = 7 then (regs (inMode .u [])).frm.toNat else (4 : BitVec 3).toNat) ≤ 4 := by
  unfold Present Settled FreeF
  decide +kernel
theorem witness_RoundExact : 0x7F7FFFFF < 2 ^ fp32.width ∧ (decodeF fp32 0x7F7FFFFF).isNaN = false := by decide +kernel
/-- 9: roundings of 2^-25 and 65,520 to fp16 (09 R218, worked roundings). -/
theorem test_round_worked :
    roundVal fp16 0 0 (.fin false 1 (-25)) = (0, 3) ∧ roundVal fp16 4 0 (.fin false 1 (-25)) = (1, 3) ∧
    roundVal fp16 0 0 (.fin false 65520 0) = (0x7C00, 5) ∧ roundVal fp16 1 0 (.fin false 65520 0) = (0x7BFF, 1) ∧
    roundVal e4m3 0 0 (.fin false 464 0) = (0x7E, 1) := by decide +kernel

/-! ### control and status registers, traps -/

/-- The reset state, and core 0 after a core reset. -/
theorem witness_CsrReset : (10 : Nat) < 11 ∧ State.reset.reqs = [] ∧ State.reset.msgs = [] ∧ (getCore State.reset 0).ctxs.all (fun e => decide (e.1 < 16)) = true ∧
    nextHas (exec (.coreReset 0) (inMode .s [])) (fun t => t.reqs.all (fun r => r.core != 0) && t.msgs.all fun m => m.core != 0) = true := by decide +kernel
/-- A CSR other than qrxcnt, and qrxcnt where no context waits for entries. -/
theorem witness_CsrWriteFrame : (0x800 : Nat) ≠ 0x805 ∧ waitsOf (getCtx (inMode .u []) 0 0) = [] ∧
    waitsOf (getCtx (inMode .u []) 0 3) = [] ∧ (0x801 : Nat) ∉ [0x003, 0xCC0, 0xCC1, 0xCC5] := by decide +kernel
theorem witness_CsrInstructions : NoTx (inMode .m [(5, 3)]) ∧ Present (inMode .m [(5, 3)]) 5 ∧ Settled (inMode .m [(5, 3)]) 6 ∧
    condHolds (inMode .m [(5, 3)]) 0 0 .vecDone = true ∧ csrAllowed (me (inMode .m [(5, 3)])).mode 0x800 true = true ∧
    csrForbids (myCore (inMode .m [(5, 3)])) 0x800 3 = false ∧ csrAllowed (me (inMode .m [(5, 3)])).mode 0xCC3 false = true := by
  unfold Present Settled NoTx
  decide +kernel
/-- A write of a read-only CSR; a CSR of M mode from U mode; no CSR at 0x300 + 0x50; a forbidden value for each of the five
rows. -/
theorem witness_CsrTraps : (encode (.csrrw 0 5 0xCC3)).isSome ∧ (encode (.csrrs 0 5 0xCC3)).isSome ∧ (encode (.csrrci 0 5 0xCC3)).isSome ∧ (5 : BitVec 5) ≠ 0 ∧ 0xCC3 / 1024 = 3 ∧
    0x7C0 / 256 % 4 > (me (inMode .u [])).mode.code ∧ standardCsr 0x350 = false ∧ quistadCsr 0x350 = false ∧
    NoTx (inMode .m [(5, 6)]) ∧ Present (inMode .m [(5, 6)]) 5 ∧ Settled (inMode .m [(5, 6)]) 0 ∧
    (∀ a ∈ [0x800, 0x804, 0x5C1, 0x5CF, 0x5D5, 0x7C0, 0x7CF], csrAllowed .m a true = true) ∧
    6 ≤ (xr (inMode .m [(5, 6)]) 5).toNat % 8 ∧ (myCore (inMode .m [(5, 1)])).domDepth.toNat < (xr (inMode .m [(5, 1)]) 5).toNat % 4 ∧
    (xr (inMode .m [(5, 0xC000000000000000)]) 5).toNat / 2 ^ 62 % 4 = 3 ∧ 2 < (xr (inMode .m [(5, 0x300)]) 5).toNat / 256 % 16 ∧
    (xr (inMode .m [(5, 0x1400000000000000)]) 5).toNat / 2 ^ 56 % 64 < 21 ∧
    44 < (xr (inMode .m [(5, 0x2D00000000000000)]) 5).toNat / 2 ^ 56 % 64 := by
  unfold Present Settled NoTx
  decide +kernel
theorem witness_CsrWriteRows : csrAllowed (me (inMode .s [])).mode 0x5D5 true = true ∧ csrForbids (myCore (inMode .s [])) 0x5D5 0x220 = false ∧
    (me (inMode .s [])).mode ≠ .u ∧ (0x2000000000000000 : Word).toNat / 2 ^ 62 ≠ 3 ∧ (0x220 : Word).toNat / 256 % 16 ≤ 2 ∧
    let r := oneCore { ctxs := [(0, ctxWith .u []), (2, { ctxWith .u [] with st := .waiting (.received 3 5) })] }
    (getCtx r r.turn 2).st = .waiting (.received 3 5) ∧ (3 ≤ (4 : Word).toNat % 2 ^ 32) ∧ ¬ (3 ≤ (2 : Word).toNat % 2 ^ 32) ∧
    waitsOf (getCtx r r.turn 0) = [] ∧ (getCtx r r.turn 2).keptWait = none ∧
    (getCtx (modCtx r 0 2 fun c => { c with st := .live, keptWait := some (.received 3 5) }) 0 2).keptWait = some (.received 3 5) := by decide +kernel

theorem witness_TrapEntry : NoTx (inMode .u []) ∧ (me (inMode .u [])).mode = .u ∧ (me (inMode .s [])).mode ≠ .u ∧ ¬ NoTx (txState []) := by unfold NoTx; decide +kernel
theorem witness_TrapReturns : NoTx (inMode .m []) ∧ (me (inMode .m [])).mode = .m ∧ (me (inMode .s [])).mode ≠ .u ∧
    (me (inMode .s [])).mode ≠ .m ∧ (me (inMode .u [])).mode = .u := by unfold NoTx; decide +kernel
theorem witness_SystemCalls : NoTx (inMode .u []) ∧ InMode (inMode .u []) .u ∧ Present (inMode .u []) 17 ∧ readX (regs (inMode .u [])) 17 = 0 ∧
    condHolds (inMode .u []) 0 0 .accessesDone = true ∧ (helperState []).cur ≠ 0 ∧ readX (regs (inMode .s [(17, 1)])) 17 = 1 ∧
    readX (regs (inMode .s [(17, 2)])) 17 = 2 ∧ Present (inMode .s [(17, 2)]) 10 ∧ Settled (inMode .s [(17, 2)]) 10 ∧
    readX (regs (inMode .s [(17, 3)])) 17 ≠ 2 ∧ InMode (inMode .m []) .m ∧
    condHolds { inMode .u [] with reqs := [{ id := 1, core := 0, ctx := 0, kind := .load, parts := [{ pa := 64, va := 64, n := 8 }], dst := .x 5 8 false, order := 1 }] } 0 0
      .accessesDone = false := by
  unfold Present Settled NoTx InMode
  decide +kernel
/-- A load is outstanding, and not; the interrupt is pending and enabled, and not. -/
theorem witness_FencesAndWfi :
    let r : Req := { id := 1, core := 0, ctx := 0, kind := .load, parts := [{ pa := 64, va := 64, n := 8 }], dst := .x 5 8 false, order := 1 }
    let s : State := { inMode .s [] with reqs := [r] }
    let i : State := oneCore { ctxs := [(0, ctxWith .s [])], mip := 0x200, mie := 0x200 }
    NoTx s ∧ reqDone r = false ∧ r.kind ≠ .compute ∧ r.orphan = false ∧ s.cur = 0 ∧ (helperState []).cur ≠ 0 ∧ (inMode .s []).reqs = [] ∧ nputOpen (inMode .s []) 0 0 = false ∧ lockSent (inMode .s []) 0 = false ∧
    (me i).mode ≠ .u ∧ (myCore i).mip.getLsbD 9 = true ∧ (myCore i).mie.getLsbD 9 = true ∧ (myCore s).mip.getLsbD 9 = false := by unfold NoTx; decide +kernel

/-- No instruction is encoded as 0. -/
theorem witness_ReservedWords : ∀ i : Instr, (∀ x, i ≠ .illegalInstruction x) → i.wf = true → encode i ≠ some 0 := by
  intro i h _ e
  cases i <;> first
    | exact absurd rfl (h _)
    | exact absurd (congrArg (fld · 0 7) (Option.some.inj e)) (by simp; decide)
    | nomatch e

/-- An environment call from U mode goes to S mode: sepc, scause, the mode (02 R30, 12 R255). -/
theorem test_ecall_traps : nextHas (exec .ecall (inMode .u [(17, 1)])) (fun t =>
    (me t).mode == .s && (me t).scause == 8 && (me t).sepc == 0x1000) = true := by decide +kernel

/-! ### contexts -/

theorem witness_HelperStart :
    let s := inMode .u [(5, 0x2000), (6, 9), (7, 0x2002)]
    let full := oneCore { ctxs := (0, ctxWith .u [(5, 0x2000)]) :: (List.range 10).map fun i => (i + 1, ctxWith .u []) }
    NoTx s ∧ (me s).st = .live ∧ Present s 5 ∧ Present s 6 ∧ Settled s 10 ∧ (xr s 5).toNat % 4 = 0 ∧ (xr s 7).toNat % 4 ≠ 0 ∧
    ((myCore s).ctx 1).st = .free ∧ (myCore s).ctxops = [] ∧ (me full).st = .live ∧ ∀ h ∈ (List.range 10).map (· + 1), ((myCore full).ctx h).st ≠ .free := by
  unfold Present Settled NoTx
  decide +kernel
theorem witness_HelperEnd :
    let s := helperState [(5, 1), (6, 0), (7, 11), (8, 3)]
    let l := { helperState [] with cores := [(0, { ctxs := [(3, { ctxWith .s [(5, 1)] with locks := [7] }), (1, ctxWith .s [])] })] }
    let b := oneCore { ctxs := [(0, ctxWith .s [(5, 1)])], ctxops := [{ load := false, issuer := 0, target := 1, va := 0, rd := 4 }] }
    ¬ NoTx (modCtx s 0 3 fun c => { c with tx := some { depth := 1, saved := {}, rd := 4 } }) ∧
    NoTx s ∧ (me s).st = .live ∧ s.cur ≠ 0 ∧ (me s).locks = [] ∧ lockRequests (me s) = [] ∧ (me l).locks ≠ [] ∧ (me (inMode .u [])).st = .live ∧
    Present s 5 ∧ xn s 5 = 1 ∧ xn s 6 = 0 ∧ 10 < xn s 7 ∧ xn s 8 = s.cur ∧ (getCtx s 0 1).st = .free ∧ (getCtx l 0 1).st ≠ .free ∧
    (getCtx l 0 1).st ≠ .reserved ∧ xn l 5 = 1 ∧ xn l 6 = 0 ∧ NoTx l ∧ ((myCore s).ctxops.any fun o => o.target == 1) = false ∧
    ((myCore b).ctxops.any fun o => o.target == xn b 5) = true ∧
    (∀ n ∈ [1, 2, 4, 10], (getCtx s 0 n).st = .free) := by
  unfold Present NoTx
  decide +kernel
theorem witness_TestPresence : Settled (inMode .u []) 10 := by unfold Settled; decide +kernel
/-- A good descriptor for x5 of context 10 of core 1, one for lane 15 of v15; reserved bit 22, x0, a context of 11, a core of
no launch. -/
theorem witness_RegisterPut :
    let s := launchState [(5, 0x5A01), (6, 0x3FA01)]
    NoTx s ∧ Present s 5 ∧ Present s 6 ∧ (xr s 5).toNat / 2 ^ 22 = 0 ∧ (xr s 5).toNat / 2 ^ 12 % 32 = 5 ∧ (xr s 5).toNat / 2 ^ 8 % 16 = 10 ∧
    (xr s 6).getLsbD 17 = true ∧ 1 ∈ launchCores s 0 ∧ (0x405A01 : Nat) / 2 ^ 22 ≠ 0 ∧ 2 ∉ launchCores s 0 := by
  unfold Present NoTx
  decide +kernel
theorem witness_NextParcel :
    let s := launchState []
    NoTx s ∧ Settled s 10 ∧ s.cur = 0 ∧ (myCore s).launch = some 1 ∧ launchOf s 1 = some twoRanks ∧ (myCore s).parcel + twoRanks.cores < twoRanks.parcels ∧
    launchOf { s with launches := [{ twoRanks with parcels := 2 }] } 1 = some { twoRanks with parcels := 2 } ∧
    (myCore (inMode .u [])).launch = none ∧ (helperState []).cur ≠ 0 := by
  unfold Settled NoTx
  decide +kernel
theorem witness_UpcallReturn :
    let s := oneCore { ctxs := [(0, ctxWith .u [])], qupcause := 0x8000000000000003, qupv := 0x4001 }
    let q := oneCore { ctxs := [(0, ctxWith .u [])], qupcause := 0x8000000000000003, qupv := 0x4001, upq := [{ code := 12, value := 0x5000 }] }
    let w := fun (x : Wait) => oneCore { ctxs := [(0, { ctxWith .u [] with keptWait := some x }), (3, { ctxWith .u [] with st := .held 0x5000 })],
                                         qupcause := 0x8000000000000003, qupctx := 3 }
    (me (w .ended)).keptWait = some .ended ∧ (me (w .wfi)).keptWait = some .wfi ∧ Wait.wfi ≠ .ended ∧ (me (w .wfi)).st = .live ∧
    (myCore (w .wfi)).qupcause.getLsbD 63 = true ∧ (myCore (w .wfi)).upq = [] ∧ (getCtx (w .wfi) 0 ((myCore (w .wfi)).qupctx.toNat % 16)).st = .held 0x5000 ∧
    NoTx s ∧ (me s).st = .live ∧ s.cur = 0 ∧ (myCore s).qupcause.getLsbD 63 = true ∧ (myCore s).upq = [] ∧ (me s).keptWait = none ∧
    (myCore q).upq = [{ code := 12, value := 0x5000 }] ∧ upcallsOn (myCore q) = true ∧ (myCore (inMode .u [])).qupcause.getLsbD 63 = false := by unfold NoTx; decide +kernel
theorem witness_SoftwareTrapAndHalt :
    let x := oneCore { ctxs := [(0, ctxWith .s [])], xch := some { dom := 1, level := 0, off := 0, cap := 4 } }
    NoTx (inMode .s []) ∧ Present (inMode .s []) 5 ∧ (me (inMode .u [])).mode = .u ∧ (encode .qhalt).isSome ∧ (me (inMode .s [])).mode ≠ .u ∧
    (myCore x).xch.isSome = true ∧ NoTx x ∧ (myCore (inMode .s [])).xch = none ∧ (myCore (inMode .s [])).mip.getLsbD 9 = false := by
  unfold Present NoTx
  decide +kernel

/-! ### barriers, domains and exchange -/

/-- The running launch with core 0 changed. -/
def core0 (xs : FMap Word) (f : Machine.Core → Machine.Core) : State := modCore (launchState xs) 0 f
/-- The level of core 0 changed. -/
def level0 (f : Level → Level) : State := core0 [] fun c => { c with levels := c.levels.map f }
/-- The domain's counter changed. -/
def dom1 (s : State) (f : Dom → Dom) : State := { s with doms := s.doms.map f }
/-- A state with one message in flight. -/
def withMsg (s : State) (core ctx : Nat) (kind : MsgKind) : State := { s with msgs := [{ id := 3, core := core, ctx := ctx, kind := kind }], nextId := 4 }

theorem witness_BarrierArrivals :
    NoTx (launchState []) ∧ Settled (launchState []) 5 ∧
    (myCore (launchState [])).levels[(myCore (launchState [])).domLevel.toNat]? = some { dom := 1, rank := 0, size := 2 } ∧
    domBroken (launchState []) 1 = false ∧ (myCore (launchState [])).xch = none := by
  unfold Settled NoTx
  decide +kernel
/-- Inside an exchange phase; a broken counter; a second arrival; a dropped level. -/
theorem witness_BarrierTraps :
    ((myCore (core0 [] fun c => { c with xch := some { dom := 1, level := 0, off := 0, cap := 4, opening := false } })).xch.any
      fun x => x.dom == 1 && !x.opening) = true ∧
    domBroken (dom1 (launchState []) fun d => { d with broken := true }) 1 = true ∧
    ((myCore (level0 fun l => { l with arrived := true })).levels.map (·.arrived)) = [true] ∧
    ((myCore (level0 fun l => { l with dropped := true })).levels.map fun l => (l.arrived, l.dropped)) = [(false, true)] ∧
    NoTx (level0 fun l => { l with dropped := true }) ∧ Settled (level0 fun l => { l with dropped := true }) 5 := by
  unfold Settled NoTx
  decide +kernel
/-- The count 2 at a domain of two, 3; a rank that is not 0; phase 0 after phase 0 has completed, and phase 1. -/
theorem witness_BarrierInitAndWait :
    NoTx (launchState [(5, 2), (6, 3)]) ∧ Present (launchState [(5, 2), (6, 3)]) 5 ∧ xn (launchState [(5, 2), (6, 3)]) 5 ≤ 2 ∧
    2 < xn (launchState [(5, 2), (6, 3)]) 6 ∧ ((myCore (level0 fun l => { l with rank := 1 })).levels.map (·.rank)) = [1] ∧
    (1 ≤ ((0#32).toNat + 1 + 2 ^ 32 - 0) % 2 ^ 32 ∧ ((0#32).toNat + 1 + 2 ^ 32 - 0) % 2 ^ 32 ≤ 2 ^ 31 - 1) ∧
    domBroken (launchState []) 1 = false ∧ domBroken (dom1 (launchState []) fun d => { d with broken := true }) 1 = true ∧
    ((0#32).toNat + 1 + 2 ^ 32 - 1) % 2 ^ 32 = 0 ∧ 2 ^ 31 ≤ ((0#32).toNat + 1 + 2 ^ 32 - 2) % 2 ^ 32 := by
  unfold Present NoTx
  decide +kernel
/-- The first of two arrivals, and the second. -/
theorem witness_BarrierCounting :
    let s := withMsg (launchState []) 1 0 (.arrive 1 0 false 5 none)
    let u := dom1 s fun d => { d with a := 1, counted := [0] }
    findMsg s 3 = some { id := 3, core := 1, ctx := 0, kind := .arrive 1 0 false 5 none } ∧ releaseBehind s 1 0 3 = false ∧
    domOf s 1 = some { id := 1, launch := 1, members := [0, 1], e := 2 } ∧ (0 + 1 ≠ 2) ∧ (∀ k ∈ [0, 1], xchOf s k 1 = none) ∧
    domOf u 1 = some { id := 1, launch := 1, members := [0, 1], e := 2, a := 1, counted := [0] } ∧ 1 + 1 = 2 := by decide +kernel
/-- A waiting context, a phase that opens, and one that closes. -/
theorem witness_BarrierCompletes :
    let w := core0 [] fun c => { c with ctxs := [(0, { ctxWith .u [] with st := .waiting (.barrier 1 0 (some 0) 5 .awt) })],
                                        levels := [{ dom := 1, rank := 0, size := 2, arrived := true }] }
    let s := withMsg w 0 0 (.completion 1 0 0 false false)
    let o := modCore s 0 fun c => { c with xch := some { dom := 1, level := 0, off := 0, cap := 4 } }
    let p := modCtx s 0 0 fun c => { c with st := .waiting (.phase 1 0) }
    let e := modCore s 0 fun c => { c with xch := some { dom := 1, level := 0, off := 0, cap := 4, opening := false, closing := true } }
    findMsg s 3 = some { id := 3, core := 0, ctx := 0, kind := .completion 1 0 0 false false } ∧ ((getCore s 0).levels.any fun l => l.dom == 1) = true ∧
    arrivedAhead (dropMsg s 3) 0 1 0 = false ∧ arrivedAhead (dropMsg o 3) 0 1 0 = false ∧ arrivedAhead (dropMsg e 3) 0 1 0 = false ∧
    (getCtx s 0 0).st = .waiting (.barrier 1 0 (some 0) 5 .awt) ∧ (getCtx s 0 0).keptWait = none ∧
    (getCtx p 0 0).st = .waiting (.phase 1 0) ∧ (0 % 2 ^ 32 + 1 + 2 ^ 32 - 0 % 2 ^ 32) % 2 ^ 32 = 1 := by decide +kernel
/-- A push of colour 4095, a pop, the colour 4096; depth 3; a second dom.set; an open exchange phase; the levels 0 and 1. -/
theorem witness_Domains :
    let s := launchState [(5, 4095), (6, 0xFFFFFFFFFFFFFFFF), (7, 4096), (8, 0), (9, 1)]
    NoTx s ∧ Present s 5 ∧ Settled s 10 ∧ xn s 5 ≤ 4095 ∧ xr s 6 = BitVec.allOnes 64 ∧ 4095 < xn s 7 ∧ xr s 7 ≠ BitVec.allOnes 64 ∧
    (myCore s).domDepth ≠ 3 ∧ (myCore (core0 [] fun c => { c with domDepth := 3 })).domDepth = 3 ∧ (myCore s).domset = none ∧
    (myCore s).xch = none ∧ (myCore s).domDepth.toNat < xn s 9 ∧ xn s 8 ≤ (myCore s).domDepth.toNat ∧
    (myCore s).levels[xn s 8]? = some { dom := 1, rank := 0, size := 2 } := by
  unfold Present Settled NoTx
  decide +kernel
/-- One of two members has issued; both have, of two colours; both pop. -/
theorem witness_DomainChange :
    let half := core0 [] fun c => { c with domset := some (0, 5, some 4, 0) }
    let push := modCore half 1 fun c => { c with domset := some (0, 6, some 3, 0) }
    let pop := modCore (core0 [] fun c => { c with domset := some (0, 5, none, 0) }) 1 fun c => { c with domset := some (0, 5, none, 0) }
    let d : Dom := { id := 1, launch := 1, members := [0, 1], e := 2 }
    domOf half d.id = some d ∧ d.members.Nodup ∧ d.members ≠ [] ∧ (settersOf half d).length ≠ 2 ∧
    (settersOf push d).length = 2 ∧ (∀ x ∈ settersOf push d, x.colour ≠ none) ∧
    countersFor push (([3, 4] : List Nat).map fun c => (groupOf (settersOf push d) c).map (·.core)) = true ∧
    (settersOf pop d).length = 2 ∧ (∀ x ∈ settersOf pop d, x.colour = none) := by decide +kernel
/-- A good area of 2 entries, and a bad one of none; an open phase with and without a member to send to. -/
theorem witness_ExchangePhase :
    let s := launchState [(5, 2 * 2 ^ 18 + 64), (6, 64), (7, 1), (8, 2)]
    let x : Exchange := { dom := 1, level := 0, off := 64, cap := 2, opening := false }
    let o := modCore s 0 fun c => { c with xch := some x, qrxcnt := 1 }
    let f := { x with buffer := List.replicate 64 (1, 0) }
    NoTx s ∧ Present s 5 ∧ Present s 7 ∧ PresentV s 3 ∧ Settled s 10 ∧
    (xr s 5).toNat < 2 ^ 32 ∧ (xr s 5).toNat / 2 ^ 18 = 2 ∧ (xr s 5).toNat % 64 = 0 ∧ (xr s 5).toNat % 2 ^ 18 + 64 * 2 ≤ (myCore s).spmBytes ∧
    (xr s 6).toNat / 2 ^ 18 = 0 ∧ (myCore s).xch = none ∧ (myCore o).xch = some x ∧ memberRank o (myCore o) 1 1 = true ∧
    slotAllows { o with launches := [{ twoRanks with period := 1, slots := [(0, 0, 1)] }] } (myCore o) 1 = true ∧
    memberRank o (myCore o) 1 2 = false ∧ x.buffer.length < 64 ∧ x.cap < 3 ∧ xn o 7 ≤ x.cap ∧ xn o 7 ≤ (myCore o).qrxcnt.toNat ∧
    (myCore o).levels[x.level]? = some { dom := 1, rank := 0, size := 2 } ∧ x.buffer = [] ∧
    (myCore o).qrxcnt.toNat < xn o 8 ∧ xn o 8 ≤ x.cap ∧ 64 ≤ f.buffer.length ∧
    (myCore (modCore s 0 fun c => { c with xch := some f })).xch = some f ∧
    (∀ l ∈ (myCore s).levels, domBroken s l.dom = false ∧ l.arrived = false ∧ l.dropped = false) := by
  unfold Present Settled PresentV NoTx
  decide +kernel
/-- Slot 0 is due and rank 0 sends to itself; an entry finds room, and none. -/
theorem witness_ExchangeMoves :
    let d : Dom := { id := 1, launch := 1, members := [0], e := 1, t0 := some 0 }
    let x : Exchange := { dom := 1, level := 0, off := 64, cap := 2, opening := false, buffer := [(0, 9)] }
    let s : State := { core0 [] (fun c => { c with xch := some x }) with doms := [d], launches := [{ twoRanks with period := 1, slots := [(0, 0, 0)] }] }
    let e := withMsg s 0 0 (.entry 1 0 0 9)
    let o := modCore s 0 fun c => { c with xch := some { x with opening := true } }
    let b := modCore s 0 fun c => { c with xch := some { x with buffer := [(1, 9)] } }
    domOf s d.id = some d ∧ 0 + d.slot * slotLength d.members ≤ s.cycle ∧ (getCore s 0).xch = some x ∧
    stillOpening s d = false ∧ entriesOpen s d.id = false ∧ stillOpening o d = true ∧ entriesOpen e d.id = true ∧
    s.cycle < 0 + 1 * slotLength d.members ∧ d.members.Nodup ∧ slotEntry b d.launch d.slot (getCore b 0).rank 1 = false ∧
    (∀ o ∈ e.msgs, 3 ≤ o.id) ∧ (getCore e 0).gq = [] ∧ (getCtx e 0 0).st ≠ .free ∧ (getCtx e 0 0).tx = none ∧
    slotEntry s d.launch d.slot (getCore s 0).rank 0 = true ∧ coreOfRank s (getCore s 0) 0 = some 0 ∧
    findMsg e 3 = some { id := 3, core := 0, ctx := 0, kind := .entry 1 0 0 9 } ∧ (e.doms.all fun d => d.a != d.e) = true ∧
    (getCore e 0).qrxcnt.toNat < x.cap ∧ (∀ i ∈ List.range 64, remapAt (getCore e 0) (64 + i) = none) ∧
    x.cap ≤ (2#32).toNat := by decide +kernel

/-! ### accesses of memory -/

/-- The parts that an access reaches. -/
def partsOf (s : State) (ws : List Want) (acc : Acc) : Option (List Part) :=
  match (reach s ws acc).1 with
  | .parts ps => some ps
  | .out _ => none
/-- M mode with an outstanding request of core 0. -/
def withReq (s : State) (r : Req) : State := { s with reqs := [r], nextId := 2 }
def loadOf (parts : List Part) : Req := { id := 1, core := 0, ctx := 0, kind := .load, parts := parts, dst := .x 5 8 false, order := 1 }
/-- The scratchpad region of the spec's layout in region 0 (14 R290): base 0x10000, 65,536 bytes. -/
def spmState (xs : FMap Word) : State :=
  oneCore { ctxs := [(0, ctxWith .u xs)], spmBytes := 65536, qrgn := [(0, 0x100000001), (1, 0x8000000000000000)] }

/-- The last byte of a line, and a doubleword across two lines. -/
theorem witness_Loads : Present (inMode .m [(5, 0x1003F)]) 5 ∧ Settled (inMode .m [(5, 0x1003F)]) 6 ∧ FreeF (inMode .m [(5, 0x1003F)]) 6 ∧
    0x1003F % 64 + 1 ≤ 64 ∧ 64 < 0x1003F % 64 + 8 ∧
    partsOf (inMode .m [(5, 0x1003F)]) [(0, 0x1003F, 1, 0)] .load = some [{ pa := 0x1003F, va := 0x1003F, n := 1 }] ∧
    partsOf (inMode .u []) [(0, 0x1003F, 1, 0)] .load = none := by
  unfold Present Settled FreeF
  decide +kernel
theorem witness_Stores : Present (inMode .m [(5, 0x10038), (6, 7)]) 5 ∧ Present (inMode .m [(5, 0x10038), (6, 7)]) 6 ∧
    FreeF (inMode .m []) 6 ∧ 0x10038 % 64 + 8 ≤ 64 ∧
    partsOf (inMode .m [(5, 0x10038)]) [(0, 0x10038, 8, 0)] .store = some [{ pa := 0x10038, va := 0x10038, n := 8 }] := by
  unfold Present FreeF
  decide +kernel
/-- Region 0: 64 KiB from 0x10000 with 1 KiB pages, root table at 0x2000 and a pointer to a table at 0x3000, whose entry 1 is
the frame at 0x20000. -/
def walkState (leaf : Host.Cell) : State :=
  { oneCore { ctxs := [(0, ctxWith .u [])], spmBytes := 65536, qpwin := [(0, 0xDE00000000000000)],
              qrgn := [(0, 0x100000001), (1, 0x6000000000002000), (2, 0x200000002), (3, 0x8000000000000000)] } with
    mem := [(0x2000, 1), (0x2001, 0x30), leaf, (0x300A, 2)] }
/-- The page of the root table is being handed over: a walk waits. -/
def walkWaits : State := { walkState (0x3008, 0xD7) with pages := [{ frame := 8, new := 0x80, big := false, st := .handover }] }
/-- A scratchpad address, memory outside and inside a transaction, a walk that waits, a host window, another package, a device
register, an address of no space. -/
theorem witness_AccessChecks :
    let t := { txState [] with cores := [(0, { ctxs := [(0, { ctxWith .m [] with tx := some { depth := 1, saved := {}, rd := 4 } })] })] }
    (translate (spmState []) 0x10040 .load).1 = .spm 0x40 ∧ (translate (inMode .u []) 0x10040 .load).1 = .fault 5 ∧
    (translate (inMode .m []) 0x10040 .load).1 = .phys 0x10040 ∧ NoTx (translate (inMode .m []) 0x10040 .load).2 ∧ isDevice 0x10040 = false ∧
    isDevice 0xF00000000000 = true ∧ (translate (inMode .m []) 0xF00000000000 .atomic).1 = .phys 0xF00000000000 ∧
    (translate walkWaits 0x10405 .load).1 = .wait ∧ isMain 0x300000000000 = false ∧ isHost 0x300000000000 = false ∧
    isDevice 0x300000000000 = false ∧ accessError t t.turn (me t).mode 0x300000000000 8 false false = some 3 ∧
    (translate t 0x800000000000 .load).1 = .phys 0x800000000000 ∧ isHost 0x800000000000 = true ∧ ¬ NoTx t ∧
    isHost 0x1000000010040 = false ∧ isDevice 0x1000000010040 = false ∧ paPkg 0x1000000010040 ≠ pkgOf t.turn ∧
    paPkg 0x10040 = pkgOf t.turn ∧ accessError t 0 .m 0x10040 8 false false = none := by unfold NoTx; decide +kernel
theorem witness_IssuedRequests :
    (∀ r ∈ (inMode .m []).reqs, r.id < (inMode .m []).nextId) ∧ isHost 0x10040 = false ∧ l1Find (myCore (inMode .m [])) (lineOf 0x10040) = none ∧
    (myCore (inMode .m [])).l1 = [] ∧ (spmState []).reqs = [] ∧ spmWaits (myCore (spmState [])) 0 0x40 8 true = false ∧ spmWaits (myCore (spmState [])) 0 0x40 8 false = false := by decide +kernel
theorem witness_ScratchpadBytes : ∀ i ∈ List.range 8, remapAt (myCore (spmState [])) (0x40 + i) = none := by decide +kernel

/-! ### atomics, fences and waits -/

/-- Aligned at 4 and not at 8; aligned at 16. -/
theorem witness_Atomics :
    let s := inMode .m [(6, 0x10004), (8, 0x10010)]
    Present s 6 ∧ Present s 8 ∧ Settled s 10 ∧ Settled s 11 ∧ Present s 10 ∧ Present s 11 ∧ (xr s 6).toNat % 4 = 0 ∧ (xr s 6).toNat % 8 ≠ 0 ∧
    (xr s 8).toNat % 16 = 0 ∧ partsOf s [(0, 0x10010, 16, 0)] .amo = some [{ pa := 0x10010, va := 0x10010, n := 16 }] ∧
    inTx s = false ∧ inTx (txState []) = true := by
  unfold Present Settled
  decide +kernel
/-- The least negative word against 1, signed and unsigned. -/
theorem witness_AtomicResults : 0x80000000 < 2 ^ (8 * 4) ∧ (1 : Nat) < 2 ^ (8 * 4) ∧ atomicOp 4 4 0x80000000 1 0 = 0x80000000 ∧
    atomicOp 6 4 0x80000000 1 0 = 1 ∧ atomicOp 0 4 0xFFFFFFFF 2 0 = 1 ∧ atomicOp 9 4 5 7 5 = 7 ∧ combine 4 0x80000000 1 = 1 ∧
    (decodeF fp32 0x7FC00000).isNaN = true ∧ decodeF fp32 0x7F800000 = .inf false ∧ decodeF fp32 0xFF800000 = .inf true := by decide +kernel
/-- A transaction with an empty reduction log, and with a full one. -/
theorem witness_ReductionsAndSignals :
    let t := fun (log : List (Nat × Nat × Word)) =>
      oneCore { ctxs := [(0, { ctxWith .m [(6, 0x10008)] with tx := some { depth := 1, saved := {}, rd := 4, redLog := log } })] }
    let p : Part := { pa := 0x10008, va := 0x10008, n := 8 }
    Present (t []) 6 ∧ (xr (t []) 6).toNat % 8 = 0 ∧ ¬ NoTx (t []) ∧ partsOf (t []) [(0, 0x10008, 8, 0)] .amo = some [p] ∧
    remoteCount (t []) [p] = 0 ∧ p.own = false ∧ isMain p.pa = true ∧ tileFits (t []) 0 0 (tileOf p.pa) = true ∧ tileOver (t []) 0 0 (tileOf p.pa) = false ∧
    (dirOf (t []) (lineOf p.pa)).lock = false ∧ 512 ≤ logUsed (myCore (t (List.replicate 512 (0x10008, 0, 0)))) ∧
    logUsed (myCore (t [])) < 512 ∧ judge (t []) 0 0 true .reduce p.pa ≠ .hold ∧ pageAt (t []) p.pa = none ∧
    NoTx (inMode .m [(6, 0x10008)]) ∧ Settled (inMode .m [(6, 0x10008)]) 10 := by
  unfold Present Settled NoTx
  decide +kernel
/-- A store is open, and a load; no access is; an nput is on its way. -/
theorem witness_ScopedFences :
    let r := loadOf [{ pa := 64, va := 64, n := 8 }]
    NoTx (withReq (inMode .u []) r) ∧ reqDone r = false ∧ reqDone { r with parts := [{ pa := 64, va := 64, n := 8, done := true }] } = true ∧
    reqDone { r with kind := .store } = false ∧ ReqKind.store ≠ .compute ∧ (0 : BitVec 5) = 0 ∧ (6 : BitVec 5) ≠ 0 ∧
    (inMode .u []).reqs = [] ∧ (inMode .u []).msgs = [] ∧ ((withMsg (inMode .u []) 0 0 (.nput 5 9)).msgs.map fun m => (m.core, m.ctx)) = [(0, 0)] := by unfold NoTx; decide +kernel
theorem witness_WaitsOnWords :
    let s := inMode .m [(6, 0x10008), (7, 3), (8, 0x10004)]
    NoTx s ∧ Present s 6 ∧ Present s 7 ∧ Present s 0 ∧ Settled s 10 ∧ (xr s 6).toNat % 8 = 0 ∧ (xr s 8).toNat % 8 ≠ 0 ∧
    partsOf s [(0, 0x10008, 8, 0)] .load = some [{ pa := 0x10008, va := 0x10008, n := 8 }] ∧
    partsOf s [(0, 0x10008, 8, 0)] .amo = some [{ pa := 0x10008, va := 0x10008, n := 8 }] ∧
    remoteCount s [{ pa := 0x10008, va := 0x10008, n := 8 }] = 0 := by
  unfold Present Settled NoTx
  decide +kernel
/-- Word 0x40 of the own scratchpad is 7: gwait for 7 and for 8 with a deadline, tickets 7 and 8. -/
theorem witness_WaitEnds :
    let m := fun (x : Wait) => oneCore { ctxs := [(0, { ctxWith .u [] with st := .waiting x })], spmBytes := 65536, spm := [(0x40, 7)] }
    let w : Watch := { loc := 2 ^ 60 + 0x40, named := 2 ^ 60 + 0x40, va := 0x40, order := 5 }
    let g := m (.word w 7 1 5)
    let t := m (.ticket w 8)
    let a := { g with reqs := [{ loadOf [{ pa := 0x80, va := 0x80, n := 8 }] with kind := .atomic 0, acq := some 10 }] }
    (getCtx g 0 0).st = .waiting (.word w 7 1 5) ∧ (getCtx g 0 0).deferred = [] ∧ (getCtx g 0 0).keptWait = none ∧
    waitersOn g 0 w.loc = [(0, 0)] ∧ watchReady g 0 0 w = true ∧ waitersOn t 0 w.loc = [(0, 0)] ∧ watchReady t 0 0 w = true ∧ 8 < 2 ^ 32 ∧
    (getCtx t 0 0).st = .waiting (.ticket w 8) ∧ watchReady a 0 0 w = false ∧
    leNat (spmRead (getCore (m .commit) 0) 0x40 8) = 7 ∧ (7 % 2 ^ 32 + 2 ^ 32 - 7) % 2 ^ 32 < 2 ^ 31 ∧ 2 ^ 31 ≤ (7 % 2 ^ 32 + 2 ^ 32 - 8) % 2 ^ 32 ∧
    0 < 1 ∧ 1 ≤ ownCycle { m .commit with cycle := 1 } 0 ∧ ownCycle (m .commit) 0 < 1 := by decide +kernel

/-! ### locks -/

/-- A waiter of context 0 of core 0 for line 0x400. -/
def waiterOf (deadline : Nat) : LockWait := { line := 0x400, rd := 5, deadline := deadline, born := 9, named := 0x10000, pa := 0x10000, order := 2 }
def lockState (held : Bool) (queue : List (Nat × Nat × Nat × Nat)) : State :=
  { oneCore { ctxs := [(0, { ctxWith .m [] with lockWait := some (waiterOf 0) })] } with
    locks := [{ line := 0x400, held := held, hcore := 1, hctx := 0, queue := queue, tail := queue, poison := !held }] }

/-- A page whose TLB entry names a frame that it has left, while its table is being handed over. -/
def movedLock : State :=
  modCore { walkState (0x3008, 0xD7) with pages := [{ frame := 8, new := 0x90, big := false, st := .handover },
      { frame := 0x80, new := 0x90, big := false, st := .stale }] } 0 fun c => { c with
    dtlb := [{ part := partOf c, base := 1, pgsz := true, root := 2, page := 1, seq := 0, pte := 0x200D7 }] }

/-- No lock, the limit of four, the lock held; a scratchpad address; no alignment; a line outside memory. A page that has moved,
whose new walk waits. -/
theorem witness_LockInstructions :
    let s := inMode .m [(6, 0x10000), (7, 0x10020), (8, 0x200000000000)]
    let h := fun (ls : List Nat) => oneCore { ctxs := [(0, { ctxWith .m [(6, 0x10000)] with locks := ls })] }
    NoTx s ∧ Present s 6 ∧ Present s 0 ∧ Settled s 10 ∧ (xr s 6).toNat % 64 = 0 ∧ (xr s 7).toNat % 64 ≠ 0 ∧
    partsOf s [(0, 0x10000, 64, 0)] .amo = some [{ pa := 0x10000, va := 0x10000, n := 64 }] ∧ isMain 0x10000 = true ∧
    remoteCount s [{ pa := 0x10000, va := 0x10000, n := 64 }] = 0 ∧ isMain 0x200000000000 = false ∧
    route s true 2 0x10000 = .serve 0x10000 ∧ (lockName s 0x10000 0x10000).1 = some 0x400 ∧
    (match (reach movedLock [(0, 0x10400, 64, 0)] .amo).1 with
      | .parts ps => ps == [{ pa := 0x20000, va := 0x10400, n := 64 }]
      | .out _ => false) = true ∧ (lockName movedLock 0x10400 0x20000).1 = none ∧
    accessError (h [0x180000000]) 0 .m 0x6000000000 64 true false = some 4 ∧ homeGone (h [0x180000000]) 0x6000000000 = false ∧
    ¬ (me (h [1, 2, 3])).locks.length + 1 + (lockRequests (me (lockState true []))).length ≤ 4 ∧ (me s).locks = [] ∧ (me s).lockWait = none ∧ lockRequests (me s) = [] ∧
    (myCore s).ghosts.length < Config.ghostTable ∧ 4 ≤ (me (h [1, 2, 3, 4])).locks.length ∧ 0x400 ∈ (me (h [0x400])).locks ∧
    homeGone (h [0x400]) (0x400 * 64) = false ∧ homeGone { h [0x400] with lostHomes := [homeOf 0x10000] } (0x400 * 64) = true ∧
    (me (inMode .m [])).locks.length + (lockRequests (me (inMode .m []))).length < 4 ∧
    accessError (h [0x400]) 0 .m (0x400 * 64) 64 true false = none ∧ successorOf (myCore (h [0x400])) 0x400 0 = none ∧
    successorOf { succs := [(0x400, 0, 1, 2)] } 0x400 0 = some (1, 2) := by
  unfold Present Settled NoTx
  decide +kernel
/-- No entry, a poisoned free one, a held one; lk.acq and lk.try. -/
theorem witness_LockRequests :
    let m := fun (once : Bool) (s : State) => withMsg s 0 0 (.lockReq 0x400 0 once 9)
    let tries := oneCore { ctxs := [(0, { ctxWith .m [] with lockTries := [waiterOf 0] })] }
    let gone := m false { lockState true [] with lostHomes := [homeOf 0x10000] }
    let late := modCore (m false (lockState true [])) 0 fun c => { c with ctxs := [(0, { ctxWith .m [] with lockWait := some (waiterOf 7) })] }
    let msg : Msg := { id := 3, core := 0, ctx := 0, kind := .lockReq 0x400 0 false 9 }
    lineOf (waiterOf 0).pa = 0x400 ∧ pageAt (m false (lockState true [])) (waiterOf 0).pa = none ∧
    lockComing (m false (lockState true [])) msg = false ∧ lockComing (m true tries) { msg with kind := .lockReq 0x400 0 true 9 } = false ∧
    (waiterOf 7).deadline < ownCycle { late with cycle := 9 } 0 ∧ (getCtx late 0 0).lockWait = some (waiterOf 7) ∧ (getCore late 0).ghosts = [] ∧
    checkAs late 0 0 .m (0x400 * 64) 64 .amo false = none ∧ lockComing late msg = false ∧
    requestHeld (m false (lockState true [])) 0x400 0 = false ∧ requestHeld (m true tries) 0x400 0 = false ∧ requestHeld gone 0x400 0 = false ∧
    checkAs gone 0 0 .m (0x400 * 64) 64 .amo false = some Reason.homelost ∧
    findMsg (m false (lockState true [])) 3 = some { id := 3, core := 0, ctx := 0, kind := .lockReq 0x400 0 false 9 } ∧
    checkAs (lockState true []) 0 0 .m (0x400 * 64) 64 .amo false = none ∧
    (getCtx (m false (lockState true [])) 0 0).lockWait = some (waiterOf 0) ∧
    (getCtx (m true tries) 0 0).lockTries.find? (fun w => w.born == 9) = some (waiterOf 0) ∧ lockOf tries 0x400 = none ∧
    (lockOf (lockState false []) 0x400).map (·.held) = some false ∧
    (lockOf (lockState true []) 0x400).map (·.held) = some true := by decide +kernel
/-- A release without a waiter and with one; a handoff; a link of a waiter that stands behind the holder. -/
theorem witness_LockReleases :
    let q := lockState true [(0, 0, 9, 0)]
    let l : Lock := { line := 0x400, held := true, hcore := 1, hctx := 0, queue := [(0, 0, 9, 0)], tail := [(0, 0, 9, 0)] }
    findMsg (withMsg q 1 0 (.lockRel 0x400 true)) 3 = some { id := 3, core := 1, ctx := 0, kind := .lockRel 0x400 true } ∧
    findMsg (withMsg q 1 0 (.handoff 0x400 0 0 false)) 3 = some { id := 3, core := 1, ctx := 0, kind := .handoff 0x400 0 0 false } ∧
    lockOf q 0x400 = some l ∧ l.held = true ∧ pageAt q (0x400 * 64) = none ∧ l.hcore = 1 ∧ l.hctx = 0 ∧
    lockComing (withMsg q 1 0 (.lockRel 0x400 true)) { id := 3, core := 1, ctx := 0, kind := .lockRel 0x400 true } = false ∧
    lockComing (withMsg q 1 0 (.handoff 0x400 0 0 false)) { id := 3, core := 1, ctx := 0, kind := .handoff 0x400 0 0 false } = false ∧
    handOnWaits (withMsg q 1 0 (.lockRel 0x400 true)) { id := 3, core := 1, ctx := 0, kind := .lockRel 0x400 true } 0x400 = false ∧
    handOnWaits (withMsg q 1 0 (.handoff 0x400 0 0 false)) { id := 3, core := 1, ctx := 0, kind := .handoff 0x400 0 0 false } 0x400 = false ∧
    findMsg (withMsg q 1 0 (.succLink 0x400 1 0 0 0)) 3 = some { id := 3, core := 1, ctx := 0, kind := .succLink 0x400 1 0 0 0 } ∧
    (getCtx q 0 0).lockWait = some (waiterOf 0) ∧ (lockOf (lockState true []) 0x400).map (·.queue) = some [] ∧
    standsBehind l (1, 0) (0, 0) = true ∧ (getCore q 1).succs = [] := by decide +kernel
/-- A deadline that has passed; two cores that wait for each other's line; a parked grant. -/
theorem witness_LockWaitEnds :
    let s := { oneCore { ctxs := [(0, { ctxWith .u [] with lockWait := some (waiterOf 7) })] } with cycle := 7 }
    let v := waiterOf 0
    let w : LockWait := { v with line := 0x401, rd := 6, born := 10, named := 0x10040 }
    let d : State := {
      cycle := 70000, locks := [{ line := 0x400, held := true, hcore := 1 }, { line := 0x401, held := true, hcore := 0 }],
      cores := [(0, { ctxs := [(0, { ctxWith .u [] with lockWait := some v })] }), (1, { ctxs := [(0, { ctxWith .u [] with lockWait := some w })] })] }
    let g : ParkedGrant := { ctx := 16, line := 0x400, deadline := 7, poisoned := false, wait := waiterOf 0 }
    let l := { s with locks := [{ line := 0x400, held := true, hcore := 1, queue := [(0, 0, 9, 7)], tail := [(0, 0, 9, 7)] }] }
    (lockOf l 0x400).map (fun l => l.tail.head?) = some (some (0, 0, 9, 7)) ∧ (getCore s 0).ghosts.length < Config.ghostTable ∧
    (getCtx s 0 0).lockWait = some (waiterOf 7) ∧ 0 < 7 ∧ 7 ≤ s.cycle ∧
    (getCtx d 0 0).lockWait = some v ∧ (getCtx d 1 0).lockWait = some w ∧ (lockOf d 0x400).map (fun l => (l.held, l.hcore, l.hctx)) = some (true, 1, 0) ∧
    (lockOf d 0x401).map (fun l => (l.held, l.hcore, l.hctx)) = some (true, 0, 0) ∧ v.born < w.born ∧ v.born + 65536 ≤ d.cycle ∧ 2 ≤ d.locks.length ∧
    ((getCore { oneCore { parkedGrants := [g] } with cycle := 7 } 0).parkedGrants.find? fun g =>
      (g.ctx == 0 || (decide (0 < 16) && g.ctx % 16 == 0)) && decide (g.deadline ≤ 7)) = some g ∧ imageHeld s 0 16 = false ∧
    ((getCore (oneCore { parkedGrants := [g] }) 0).parkedGrants.find? fun g =>
      (g.ctx == 0 || (decide (0 < 16) && g.ctx % 16 == 0)) && decide (g.deadline ≤ 0)) = none ∧ successorOf (getCore s 0) g.line 0 = none := by decide +kernel

/-! ### transactions -/

/-- EN = 0; depth 1 of 7, depth 7; no pending mark. -/
theorem witness_TransactionInstructions :
    let e := oneCore { ctxs := [(0, ctxWith .u [])], qtxcfg := 0x00C00070 }
    let d := oneCore { ctxs := [(0, { ctxWith .u [] with tx := some { depth := 7, saved := {}, rd := 4 } })] }
    let s := inMode .u []
    let n := oneCore { ctxs := [(0, { ctxWith .u [] with tx := some { depth := 1, saved := {}, rd := 4 } })], qtxcfg := 0x00C00070 }
    Settled s 5 ∧ Present s 6 ∧ NoTx s ∧ (myCore e).qtxcfg.getLsbD 0 = false ∧ NoTx e ∧ (myCore n).qtxcfg.getLsbD 0 = false ∧ ¬ NoTx n ∧ (myCore s).qtxcfg.getLsbD 0 = true ∧
    (me s).regs.xpend = 0 ∧ (me s).regs.vpend = 0 ∧ (me s).regs.fpend = 0 ∧ (myCore s).qtxcfg.toNat / 2 ^ 4 % 8 = 7 ∧
    ((me d).tx.map (·.depth)) = some 7 ∧ ((me (txState [])).tx.map (·.depth)) = some 1 ∧ (txState []).reqs = [] ∧ (txState []).msgs = [] := by
  unfold Present Settled NoTx
  decide +kernel
/-- No transaction; one; one whose abort message waits. -/
theorem witness_TransactionAborts :
    let w := modCtx (txState []) 0 0 fun c => { c with abortMsg := some (1, 0x10000) }
    (getCtx (inMode .u []) 0 0).tx = none ∧ (getCtx (txState []) 0 0).tx = some { depth := 1, saved := { pc := 0x2000 }, rd := 4 } ∧
    (getCtx (txState []) 0 0).abortMsg = none ∧ (getCtx w 0 0).tx.isSome = true ∧ (getCtx w 0 0).abortMsg = some (1, 0x10000) := by decide +kernel
/-- User and M mode; qtrap's CSR class: a write that is refused, a read that is. -/
theorem witness_TransactionRefusals :
    let m := modCtx (txState []) 0 0 fun c => { c with mode := .m }
    ¬ NoTx (txState []) ∧ ¬ NoTx m ∧ m.cur = 0 ∧ { m with cur := 3 }.cur ≠ 0 ∧ (me m).mode = .m ∧ csrAllowed .u 0x805 true = true ∧ 0x805 ∉ [0x001, 0x002, 0x003, 0x800, 0x802] ∧
    csrAllowed .m 0x340 false = true ∧ quistadCsr 0x340 = false ∧ csrAllowed .m 0x5C0 false = true ∧ 0x5C0 / 256 % 4 ≠ 0 ∧
    (1 : BitVec 5) ≠ 0 := by unfold NoTx; decide +kernel
/-- A commit with one home to prepare, one with none left, an abort message, a release. -/
theorem witness_TransactionCommit :
    let t := fun (ph : TxPhase) (msg : Option (Nat × Word)) => oneCore { ctxs := [(0, { ctxWith .u [] with
      st := .waiting .commit, abortMsg := msg, tx := some { depth := 1, saved := {}, rd := 4, writeSet := [0x80], spec := [(0x10000, 9)], phase := ph } })] }
    let r := withMsg (inMode .u []) 0 0 (.txRelease 3 [0x80])
    (getCtx (t .running none) 0 0).st = .waiting .commit ∧ (getCtx (t .running none) 0 0).abortMsg = none ∧
    ((getCtx (t .running none) 0 0).tx.bind fun x => (txUnmarked x).head?) = some (homeOf 0x10000) ∧
    ((getCtx (t (.preparing [homeOf 0x10000]) none) 0 0).tx.map fun x => (txUnmarked x, x.redLog, commitRoom (t x.phase none) 0 0 x)) = some ([], [], true) ∧
    (dirOf (t .running none) (lineOf 0x10000)).st ≠ .p ∧ (getCtx (t .running (some (1, 0))) 0 0).abortMsg = some (1, 0) ∧
    r.msgs.find? (fun m => m.core == 0 && m.ctx == 0 && (match m.kind with | .txRelease h _ => h == 3 | _ => false)) =
      some { id := 3, core := 0, ctx := 0, kind := .txRelease 3 [0x80] } := by decide +kernel
/-- One reduction to commit, with room for it, and behind another commit; an abort message without a transaction. -/
theorem witness_ReductionCommit :
    let w := oneCore { ctxs := [(0, { ctxWith .u [] with abortMsg := some (1, 0) })] }
    let d : Tx := { depth := 1, saved := {}, rd := 4, redSet := [0x80], redLog := [(0x10008, 1, 7)], phase := .preparing [homeOf 0x10000] }
    let u := oneCore { ctxs := [(0, { ctxWith .u [] with st := .waiting .commit, tx := some d })] }
    let v := modCtx u 1 0 fun _ => { ctxWith .u [] with st := .waiting .commit, tx := some { d with writeSet := [0x80] } }
    (txUnmarked d, d.spec, d.redLog.length, commitRoom u 0 0 d) = ([], [], 1, true) ∧ partOf? u (lineOf 0x10008) (clusterIn 0) = none ∧
    (dirOf u (lineOf 0x10008)).st ≠ .p ∧ (getCtx u 0 0).tx = some d ∧ (getCtx u 0 0).st = .waiting .commit ∧ commitRoom v 0 0 d = false ∧
    (getCtx v 0 0).tx = some d ∧ (getCtx w 0 0).abortMsg = some (1, 0) ∧ (getCtx w 0 0).tx = none := by decide +kernel
/-- Core 1 holds a transaction that has read a tile: a younger, an older and a plain accessor. -/
theorem witness_ConflictDecisions :
    let x : Tx := { depth := 1, saved := {}, rd := 4, readSet := [0x80] }
    let s := fun (a : Nat) => ({ cores := [(0, { ctxs := [(0, { ctxWith .u [] with age := some a })] }),
                                           (1, { ctxs := [(0, { ctxWith .u [] with tx := some x, age := some 5 })] })] } : State)
    openTxs (s 4) (paPkg 0x10000) = [(1, 0, x)] ∧ committingAt x (homeOf 0x10000) = false ∧ releaseDue (s 4) (tileOf 0x10000) = false ∧
    judge { s 4 with msgs := [{ id := 1, core := 2, ctx := 0, kind := .txRelease (homeOf 0x10000) [0x80] }] } 0 0 false .read 0x10000 = .hold ∧
    tileOf 0x10000 ∈ x.readSet ∧ (ageOf (s 4) 0 0).1 < (ageOf (s 4) 1 0).1 ∧ ¬ (ageOf (s 6) 0 0).1 < (ageOf (s 6) 1 0).1 := by decide +kernel

/-! ### engine commands -/

/-- 64 bytes at 0x100 to 0x200; a reserved flag, scope 12, no length, a range past the grant; a shadow copy inside and outside
an entry; a copy in two dimensions of 2 rows of 8 bytes, and with a pitch below the row. -/
theorem witness_CopyIssue :
    let e : Remap := { valid := true, log := 8, twin := 64, size := 8 }
    let f := fun (flags : Word) => oneCore { ctxs := [(0, ctxWith .u [(5, 0x200), (6, 0x100), (7, flags)])], spmBytes := 65536, remap := [(0, e)] }
    let s := f 64
    Present s 5 ∧ Present s 6 ∧ Present s 7 ∧ Settled s 8 ∧ NoTx s ∧ (64 : Nat) / 2 ^ 24 % 8 = 0 ∧ (64 : Nat) / 2 ^ 28 % 16 ≤ 11 ∧ 64 % 2 ^ 24 ≠ 0 ∧
    (0xC0000040 : Nat) / 2 ^ 28 % 16 = 12 ∧ (0x1000040 : Nat) / 2 ^ 24 % 8 ≠ 0 ∧ 0x200 + (0 * 0 + 64) ≤ (myCore s).spmBytes ∧
    (myCore s).spmBytes < 0x200 + 0xFFFF ∧ copiesOf (myCore s) < 64 ∧ rangesInUse (myCore s) + 2 ≤ 64 ∧
    (0x8000040#64).getLsbD 27 = true ∧ (remapAt (myCore s) 0x200).isSome = true ∧
    0x200 + 64 ≤ 8 * 64 + 8 * 64 ∧ remapAt (myCore s) 0x100 = none ∧ (me (txState [])).tx.isSome = true ∧
    (0x8000000000000200 : Nat) / 2 ^ 60 % 4 = 0 ∧ (0x8000000000000200 : Nat) / 2 ^ 48 % 2 ^ 8 = 0 ∧ (0x8000000000000100 : Nat) / 2 ^ 48 % 2 ^ 15 = 0 ∧
    (0x0002000800100010 : Nat) / 2 ^ 48 = 2 ∧ (0x0002000800100010 : Nat) / 2 ^ 32 % 2 ^ 16 = 8 ∧ ¬ 0x10 < 8 ∧ 4 < 8 := by
  unfold Present Settled NoTx
  decide +kernel
/-- 64 bytes at 0x100 to 0x200 at the head of the queue, not started, started and finished; a copy to cancel. -/
theorem witness_CopyTurns :
    let x : CopyCmd := { blankCopy (inMode .u []) 4 5 0x200 0x100 64 with dstS := true, srcS := true, dst := 0x200, src := 0x100, rowBytes := 64 }
    let s := oneCore { ctxs := [(0, ctxWith .u [])], cq := [x], spmBytes := 65536 }
    let e := { x with pos := 64 }
    x.goal = 0 ∧ x.ranged = true ∧ x.after = [] ∧ x.hostData = [] ∧ migrating s (0 / 8) = false ∧
    (myCore { s with cores := [(0, { ctxs := [(0, ctxWith .u [])], cq := [{ x with started := true }] })] }).cq = [{ x with started := true }] ∧
    (getCore s 0).cq = [x] ∧ (∀ j ∈ List.range 8, j ≠ 0 → (getCore s j).cq = []) ∧ (getCore s 0).mq = [] ∧ (getCore s 0).gq = [] ∧
    (getCore s 0).pubs = [] ∧ (getCore s 0).remap = [] ∧ s.reqs = [] ∧ x.core = 0 ∧ x.pos = 0 ∧ x.hostWait = false ∧ x.failed = false ∧
    x.cancel = false ∧ x.shadow = false ∧ x.rows = 1 ∧ x.src + 64 ≤ x.dst ∧ x.pos ≠ x.rows * x.rowBytes ∧ e.pos = e.rows * e.rowBytes ∧ e.hostWait = false ∧
    e.orphan = false ∧ x.ctx < 11 ∧ 0 < x.rd ∧ x.rd < 32 ∧ (getCore s 0).retiring = false ∧ NoTx s ∧ x.started = false ∧
    ((myCore s).cq.filter fun x => x.ctx == s.cur && x.rd == (5 : BitVec 5).toNat && !x.orphan) = [x] ∧
    ((myCore s).cq.filter fun x => x.ctx == s.cur && x.rd == (6 : BitVec 5).toNat && !x.orphan) = [] := by unfold NoTx; decide +kernel
/-- A definition of entry 0 (8 units at 8, twin at 64), a publication of a valid entry and of one that is not, op 3. -/
theorem witness_Publication :
    let w : Word := 0x4000008040008000
    let s := oneCore { ctxs := [(0, ctxWith .u [(5, w), (6, 0), (7, 0xC000000000000000)])], spmBytes := 65536 }
    let v := oneCore { ctxs := [(0, ctxWith .u [])], spmBytes := 65536, remap := [(0, { valid := true, log := 8, twin := 64, size := 8 })] }
    let h : CopyCmd := { blankCopy v 4 5 0x200 0x100 64 with
      dstS := true, srcS := true, dst := 0x200, src := 0x208, rowBytes := 64, started := true, bound := [(0, List.replicate 8 false)] }
    let b := modCore v 0 fun c => { c with cq := [h] }
    let p : PubCmd := { id := 1, ctx := 0, op := 0, entry := 0, log := 8, twin := 64, size := 8, rd := 5, order := 1 }
    NoTx s ∧ Present s 5 ∧ Settled s 8 ∧ w.toNat / 2 ^ 62 = 1 ∧ w.toNat / 2 ^ 48 % 2 ^ 14 = 0 ∧ w.toNat / 2 ^ 3 % 2 ^ 9 = 0 ∧
    defineBad (myCore s) 0 (w.toNat / 2 ^ 12 % 2 ^ 12) (w.toNat / 2 ^ 24 % 2 ^ 12) (w.toNat / 2 ^ 36 % 2 ^ 12) = false ∧
    (fget {} (myCore s).remap 0).valid = false ∧ (fget {} (myCore v).remap 0).valid = true ∧ xn s 7 / 2 ^ 62 = 3 ∧
    followed v 0 p.after = true ∧ followed (withReq v (loadOf [{ pa := 64, va := 64, n := 8 }])) 0 [1] = false ∧
    shadowBefore (getCore v 0) p = false ∧ shadowBefore { getCore v 0 with cq := [{ h with shadow := true }] } { p with order := 9 } = true ∧
    readersOf v 0 0 = [] ∧ readersOf b 0 0 ≠ [] ∧ (∀ l ∈ readersOf b 0 0, l.getD 0 true = false) ∧
    ∀ op ∈ [0, 1, 2], ({ p with op := op }).orphan = false ∧ p.ctx < 11 ∧ 0 < p.rd ∧ p.rd < 32 ∧ op < 3 := by
  unfold Present Settled NoTx
  decide +kernel
/-- A descriptor of one element of 8 bytes, a misplaced one and a malformed one; the engine's turn on it. -/
theorem witness_Gathers :
    let desc : List Host.Cell := [(0x100, 4), (0x101, 2), (0x104, 8), (0x105, 3), (0x108, 1), (0x10C, 8), (0x110, 16), (0x204, 2)]
    let s : State := { core0 [(5, 0x10400), (6, 0x100), (7, 0x104), (8, 0x120)] (fun c => { c with spm := desc, qrgn := [(0, 0x100000001), (1, 0x8000000000000000)] }) with
      doms := [{ id := 1, launch := 1, members := [0, 1], e := 2, t0 := some 0 }] }
    let g : GatherCmd := { id := 1, ctx := 0, scatter := false, active := true, table := 0x10400, descOff := 0x100, idx := 0x204, buf := 0x308, count := 1, esz := 8,
                           stride := 16, rd := 5, dom := 1, mode := .u, rgn := [(0, 0x100000001), (1, 0x8000000000000000)], order := 1 }
    let t := modCore s 0 fun c => { c with gq := [g] }
    let c := getCore t 0
    condHolds s s.turn s.cur (.spmReady 0x100 32) = true ∧ condHolds s s.turn s.cur (.gatherRoom 2) = true ∧ t.doms = [{ id := 1, launch := 1, members := [0, 1], e := 2, t0 := some 0 }] ∧
    g.hostData = [] ∧ 0x10420 + 8 ≤ 2 ^ 48 ∧
    NoTx s ∧ Present s 5 ∧ Settled s 10 ∧ (myCore s).levels[0]? = some { dom := 1, rank := 0, size := 2 } ∧ s.reqs = [] ∧ (myCore s).cq = [] ∧
    xn s 6 % 32 = 0 ∧ xn s 6 + 32 ≤ (myCore s).spmBytes ∧ xn s 7 % 32 ≠ 0 ∧ xn s 8 % 32 = 0 ∧ leNat (spmRead c (0x120 + 8) 4) = 0 ∧
    leNat (spmRead c 0x100 4) = 0x204 ∧ leNat (spmRead c 0x104 4) = 0x308 ∧ leNat (spmRead c 0x108 4) = 1 ∧ leNat (spmRead c 0x10C 2) = 8 ∧
    leNat (spmRead c 0x10E 2) = 0 ∧ leNat (spmRead c 0x110 8) = 16 ∧ leNat (spmRead c 0x118 8) = 0 ∧ (0 ≠ 2 ∨ 0 = 0) ∧
    gathersFor t (clusterOf 0) 1 = [(0, g)] ∧ c.remap = [] ∧ 0x10400 + leNat (spmRead c g.idx 4) * g.stride = 0x10420 ∧
    ((findRegion g.rgn 0x10420).map fun x => (x.kind, x.base * 65536)) = some (2, 0x10000) ∧
    (∀ i ∈ List.range 8, findRegion g.rgn (0x10420 + i) = findRegion g.rgn 0x10420) ∧ 0x10420 - 0x10000 + 8 ≤ c.spmBytes ∧
    g.buf + 8 ≤ 0x420 ∧ g.idx + 4 ≤ g.buf ∧ g.idx + 4 ≤ 0x420 := by
  unfold Present Settled NoTx
  decide +kernel

/-! ### cache lines, translations, migration -/

theorem witness_CacheLineInstructions :
    let s := inMode .m [(6, 0x10040)]
    let gone := { s with lostHomes := [homeOf 0x10040] }
    let kept := { s with locks := [{ line := lineOf 0x10040, held := true, hcore := 9 }] }
    (translate walkWaits 0x10405 .load).1 = .wait ∧ NoTx walkWaits ∧ accessError gone gone.turn (me gone).mode 0x10040 1 false false = some Reason.homelost ∧
    accessError s s.turn (me s).mode 0x10040 1 false false = none ∧ condHolds s s.turn s.cur (.lineDone (lineOf 0x10040)) = true ∧
    condHolds (withReq s (loadOf [{ pa := 0x10048, va := 0x10048, n := 8 }])) 0 0 (.lineDone (lineOf 0x10040)) = false ∧
    holderCluster s (lineOf 0x10040) = none ∧ holderCluster kept (lineOf 0x10040) ≠ none ∧
    NoTx s ∧ Present s 6 ∧ (translate (inMode .u []) 0x10040 .load).1 = .fault 5 ∧ (translate (spmState []) 0x10040 .load).1 = .spm 0x40 ∧
    (translate s 0x10040 .load).1 = .phys 0x10040 ∧ isMain 0x10040 = true ∧ paPkg 0x10040 = pkgOf s.turn ∧ isMain 0x200000000000 = false ∧
    mainError s 0x10040 1 false = none ∧ s.reqs = [] ∧ heldForCommit s (lineOf 0x10040 * 64) 64 = false ∧ openTxs s 0 = [] ∧ s.locks = [] ∧
    (dirOf s (lineOf 0x10040)).st ≠ .p := by
  unfold Present NoTx
  decide +kernel
/-- One entry by address, by region and all; a reserved selector. -/
theorem witness_TranslationInvalidate :
    let s := inMode .s [(5, 0x10040), (6, 4), (7, 1), (8, 2), (9, 0x10)]
    let h := { walkState (0x3008, 0xD7) with cores := [(0, { getCore (walkState (0x3008, 0xD7)) 0 with
      ctxs := [(0, ctxWith .s [(5, 0x10040), (6, 0)]), (2, { ctxWith .u [] with st := .held 0x10048 })] })] }
    (encode (.tlbInv 5 6)).isSome = true ∧ (me (inMode .u [])).mode = .u ∧ (me s).mode ≠ .u ∧ NoTx s ∧ Present s 5 ∧ Present s 6 ∧
    (∀ v ∈ [4, 1, 2], v / 2 ^ 11 = 0 ∧ v / 2 ^ 4 % 2 ^ 4 = 0 ∧ v / 4 % 4 ≠ 3 ∧ v % 4 ≠ 3) ∧ 0x10 / 2 ^ 4 % 2 ^ 4 ≠ 0 ∧ s.reqs = [] ∧
    condHolds s s.turn s.cur (.reachQuiet 0) = true ∧ condHolds (withReq s (loadOf [{ pa := 64, va := 64, n := 8 }])) 0 0 (.reachQuiet 0) = false ∧
    condHolds h h.turn h.cur (.reachQuiet 0) = true ∧ ((getCore h 0).ctx 2).st = .held 0x10048 ∧ (getCore h 0).retiring = false ∧
    0 ∈ reachCores h h.turn 0 ∧ ((findRegion (myCore h).qrgn 0x10048).map fun r => (r.base, r.limit, r.pgsz)) = some (1, 1, true) := by
  unfold Present NoTx
  decide +kernel
/-- The 2 MiB page at 0x200000 to 0x400000 in M mode; to itself, and while it moves. -/
theorem witness_MigrationIssue :
    let s := inMode .m [(5, 0x200040), (6, 0x400000), (7, 0x200000), (8, 0x400400)]
    let p : Page := { frame := 0x800, new := 0x1000, big := true, st := .eft }
    let gone := { s with lostHomes := List.range 16 }
    let w := walkState (0x3008, 0xD7)
    let o := { w with mem := [(0x2000, 1), (0x2001, 0x30), (0x3008, 0xC7), (0x300B, 0x40)],
                      cores := [(0, { getCore w 0 with ctxs := [(0, ctxWith .s [(5, 0x10405), (6, 0x30000)])] })] }
    let x : Tx := { depth := 1, saved := {}, rd := 4, readSet := [tileOf 0x200000], phase := .preparing [homeOf 0x200000] }
    let c := modCtx s 1 0 fun _ => { ctxWith .u [] with st := .waiting .commit, tx := some x }
    (translate walkWaits 0x10405 .load).1 = .wait ∧ NoTx walkWaits ∧ (pagesIn { s with pages := [{ p with frame := 0x1000, st := .stale }] } 0x1000 2048).length = 1 ∧
    accessError gone 0 .m 0x400000 0x200000 true true = some Reason.homelost ∧
    (translate o 0x10405 .load).1 = .phys 0x40000005 ∧ (me o).mode = .s ∧ accessError o 0 .s 0x40000000 1024 false true = some Reason.nowindow ∧
    accessError o 0 .s 0x30000 1024 true true = none ∧ NoTx o ∧
    pageAt { s with pages := [{ p with frame := 0x1000, new := 0x2000 }] } 0x400000 = some { p with frame := 0x1000, new := 0x2000 } ∧
    tailsAt s 0x800 < 256 ∧ pageCommits s 0x200040 true = false ∧ pageCommits c 0x200040 true = true ∧
    NoTx s ∧ Present s 5 ∧ Present s 6 ∧ Settled s 10 ∧ (encode (.pgMig 10 5 6)).isSome = true ∧ (me (inMode .u [])).mode = .u ∧ (me s).mode ≠ .u ∧
    (translate (inMode .u []) 0x10040 .load).1 = .fault 5 ∧ (translate (spmState []) 0x10040 .load).1 = .spm 0x40 ∧
    (translate s 0x200040 .load).1 = .phys 0x200040 ∧ remoteCount s [{ pa := 0x200040, va := 0x200040, n := 1 }] = 0 ∧
    0x400000 % 0x200000 = 0 ∧ isMain 0x400000 = true ∧ isMain 0x200040 = true ∧ 0x400000 ≠ 0x800 * 1024 ∧ 0x200000 = 0x800 * 1024 ∧ 0x400400 % 0x200000 ≠ 0 ∧
    accessError s 0 .m 0x400000 0x200000 true true = none ∧ accessError s 0 .m 0x200000 0x200000 false true = none ∧ s.pages = [] ∧
    pageAt { s with pages := [p] } 0x200040 = some p ∧ openTxs s 0 = [] ∧ s.dir = [] := by
  unfold Present Settled NoTx
  decide +kernel
theorem witness_MigrationState :
    let p : Page := { frame := 0x40, new := 0x1001, big := false, st := .eft, todo := [0] }
    let q := { p with new := 0x80, st := .tail }
    ((ownerOf { inMode .u [] with pages := [q] } none 2 0x10040).toOption = some (0x20040, some 0x80)) ∧ ({ p with st := .stale } : Page).st = .stale ∧ 0x80 < 2 ^ 46 ∧
    pageAt { inMode .u [] with pages := [q] } 0x10040 = some q ∧ p.st ≠ .tail ∧ p.st ≠ .stale ∧
    pageAt (inMode .u []) 0x10040 = none ∧ pageAt { inMode .u [] with pages := [p] } 0x10040 = some p ∧ p.new < 2 ^ 46 := by decide +kernel
/-- Frame 0x40 moves to 0x80: the last block, INSTALL, INSTALL_ACK. -/
theorem witness_MigrationHandover :
    let p : Page := { frame := 0x40, new := 0x80, big := false, st := .eft, todo := [0], rd := 5, mode := .m }
    let h := { p with st := .handover }
    let l : Lock := { line := 0x403, held := true }
    let s := { inMode .m [] with pages := [p], locks := [l] }
    let b := { p with frame := 0x800, new := 0x1000, big := true, todo := [], marked := List.range 129 }
    let gone := { s with lostHomes := List.range 16 }
    let x : Tx := { depth := 1, saved := {}, rd := 4, readSet := [tileOf 0x20000], phase := .preparing [homeOf 0x20000] }
    let c := modCtx s 1 0 fun _ => { ctxWith .u [] with st := .waiting .commit, tx := some x }
    128 < b.marked.length ∧ heldForCommit { s with pages := [b] } (b.new * 1024) (1024 * pageFrames b.big) = false ∧
    (∀ n ∈ b.todo ++ b.marked, blockError { s with pages := [b] } b n = none) ∧ b.pass + 1 ≠ 8 ∧ 7 + 1 = 8 ∧
    followed s p.core p.after = true ∧ followed (withReq s (loadOf [{ pa := 64, va := 64, n := 8 }])) p.core [1] = false ∧
    0 ∈ p.todo ++ p.marked ∧ blockError gone p 0 ≠ none ∧ p.orphan = false ∧ heldForCommit gone (p.new * 1024) (1024 * pageFrames p.big) = false ∧
    heldForCommit c (p.new * 1024) (1024 * pageFrames p.big) = true ∧ s.locks = [l] ∧ l.line < (p.frame + pageFrames p.big) * 16 ∧
    p.big = false ∧ p.todo = [0] ∧ p.marked = [] ∧ blockError s p 0 = none ∧ p.new ≠ p.frame ∧ heldForCommit s (p.new * 1024) 1024 = false ∧
    s.dir = [] ∧ h.installed = false ∧ ({ h with installed := true }).orphan = false ∧ p.ctx < 11 ∧ 0 < p.rd ∧ p.rd < 32 ∧
    p.frame * 16 ≤ l.line ∧ l.line < p.frame * 16 + 16 := by decide +kernel
/-- A tail that nobody used, one that forwarded for package 1; a purge, its acknowledgement, a redirect; a request that
meets the tail, one that a second tail and a stale mark answered, a forwarded one. -/
theorem witness_MigrationTails :
    let p : Page := { frame := 0x40, new := 0x80, big := false, st := .tail }
    let q := { p with requesters := [(1, 0)] }
    let late := { inMode .m [] with cycle := 100 * Config.cyclesPerUs }
    let r := { loadOf [{ pa := 0x10040, va := 0x10040, n := 8 }] with mode := .m }
    let f := loadOf [{ pa := 0x20040, va := 0x10040, n := 8, fwd := 1 }]
    let s := { withReq (inMode .m []) r with pages := [p] }
    let u := withReq (inMode .m []) f
    let pur := withMsg late 0 15 (.purge 0x40 1 false)
    let own := withReq pur { r with core := 4096, parts := [{ pa := 0x20040, va := 0x10040, n := 8, fwd := 1, named := some 0x10040 }] }
    let ask := withMsg late 0 15 (.purgeAck 0x40 1)
    q.requesters ≠ [] ∧ (∀ e ∈ q.requesters, e.1 ∉ q.acked) ∧ ({ q with purging := true }).purging = true ∧ purgeOpen late 0x40 1 = false ∧
    let behind := { p with waiters := [(7, 0)] }
    let other := { r with id := 7, order := 7 }
    let far := { p with new := 2 ^ 38 }
    purgeOpen pur 0x40 1 = true ∧ (∀ j ∈ List.range 16, sentTo pur (1 * 16 + j) 3 0x40 (frameBig pur 0x40) = false) ∧
    redirectHolds s r 0 { pa := 0x10040, va := 0x10040, n := 8 } = false ∧ orderAllows s r { pa := 0x10040, va := 0x10040, n := 8 } = true ∧
    partRemote s r.core { pa := 0x10040, va := 0x10040, n := 8 } = false ∧ behindWaiters s 1 0 p = false ∧
    behindWaiters { s with reqs := [r, other], pages := [behind] } 1 0 behind = true ∧
    unreachable { s with lostPkgs := [1] } (paPkg (far.frame * 1024)) (paPkg (far.new * 1024)) = true ∧ paPkg (far.new * 1024) = 1 ∧
    laneBehind u 0 1 0x20040 = false ∧ redirectHolds u f 0 { pa := 0x20040, va := 0x10040, n := 8, fwd := 1 } = false ∧
    (loadOf [{ pa := 0x10040, va := 0x10040, n := 8, resent := true, answer := some 8 }]).parts.all (fun p => !p.done && p.resent && p.answer == some 8) ∧
    sentTo own 16 3 0x40 (frameBig own 0x40) = true ∧ findMsg ask 3 = some { id := 3, core := 0, ctx := 15, kind := .purgeAck 0x40 1 } ∧
    sentTo own 16 3 0x40 false = true ∧ sentTo late 0 3 0x40 false = false ∧ clusterOf r.core = 0 ∧ frameOf 0x10040 = 0x40 ∧
    ({ r with parts := [{ pa := 0x20040, va := 0x10040, n := 8, fwd := 2, named := some 0x10040 }] }).parts.all (fun p => decide (2 ≤ p.fwd)) ∧
    p.purging = false ∧ p.lastFwd + 100 * Config.cyclesPerUs ≤ late.cycle ∧ p.since + p.life * Config.cyclesPerUs ≤ late.cycle ∧
    q.acked = [] ∧ findMsg (withMsg late 0 15 (.purge 0x40 1 false)) 3 = some { id := 3, core := 0, ctx := 15, kind := .purge 0x40 1 false } ∧
    redirectAhead (withMsg late 0 15 (.purge 0x40 1 false)) 3 0x40 1 = false ∧ fget 0 q.requesters 1 + 100 * Config.cyclesPerUs ≤ late.cycle ∧
    (∀ e ∈ q.requesters, e.1 = 1) ∧ findMsg (withMsg late 0 15 (.redirect 0 0x40 0x80 false)) 3 = some { id := 3, core := 0, ctx := 15, kind := .redirect 0 0x40 0x80 false } ∧
    findReq s 1 = some r ∧ r.queued = false ∧ r.tx = false ∧ (r.parts.all fun p => localMain r.core p && p.answer.isNone) = true ∧ s.msgs = [] ∧
    pageAt s 0x10040 = some p ∧ (r.parts.all fun p => (partError s r p false).isNone) = true ∧ findReq u 1 = some f ∧
    (f.parts.all fun p => (partError u f p false).isNone && isMain p.pa && !p.own) = true ∧ judge u 0 0 false .read 0x20040 = .go [] 11 ∧
    (dirOf u (lineOf 0x20040)).st ≠ .p := by decide +kernel

/-! ### vectors -/

/-- Vector and mask registers of context 0. -/
def vecState (xs : FMap Word) (vs : FMap VWord) (ks : FMap Word) : State :=
  oneCore { ctxs := [(0, { mode := .m, st := .live, regs := { x := xs, v := vs, k := ks, pc := 0x1000 } })] }
/-- Lanes 0 and 1 active under k1: aligned addresses, a misaligned second one, no lane under k2. -/
theorem witness_VectorMemory :
    let s := vecState [(5, 0x10000), (6, 8), (7, 2)] [(3, 1)] [(1, 3), (2, 0)]
    VqRoom s ∧ Present s 5 ∧ Present s 6 ∧ PresentV s 3 ∧ SettledV s 4 ∧
    (List.range (laneCount 32)).filter (active (regs s) 1) = [0, 1] ∧ (List.range (laneCount 32)).filter (active (regs s) 2) = [] ∧
    (0x10000 : Word).toNat % 4 = 0 ∧ (0x10000 + 2 : Word).toNat % 4 ≠ 0 ∧ remoteCount s [{ pa := 0x10000, va := 0x10000, n := 4 }] = 0 ∧
    partsOf s [(0, 0x10000, 4, 0), (1, 0x10008, 4, 0)] .load =
      some [{ pa := 0x10000, va := 0x10000, n := 4 }, { pa := 0x10008, va := 0x10008, n := 4, lane := 1 }] := by
  unfold Present PresentV SettledV VqRoom
  decide +kernel
/-- The operands of VectorFloat, VectorReductions, VectorInteger, VectorCompares, VectorMoves and MaskOperations: present and
settled, with room in the queue. -/
theorem witness_VectorOperands :
    let s := vecState [(5, 1), (6, 2)] [(1, 0x7F80000000800000), (2, 0x3F800000)] [(1, 1)]
    VqRoom s ∧ SettledV s 3 ∧ PresentV s 1 ∧ PresentV s 2 ∧ PresentV s 3 ∧ Present s (5#4 |>.setWidth 5) ∧ Present s (6#4 |>.setWidth 5) ∧ Settled s 10 ∧
    etFmt 0 = none ∧ etFmt 6 = some fp32 := by
  unfold Present Settled PresentV SettledV VqRoom
  decide +kernel
/-- One element of the own package's memory, on a page that does not move. -/
theorem witness_QueuedAccess : isMain 0x10000 = true ∧ paPkg 0x10000 = pkgOf (vecState [] [] []).turn ∧
    pageMoving (vecState [] [] []) 0x10000 = false := by decide +kernel
/-- Signs: a NaN and a number, two numbers, the two zeros (06 R165). -/
theorem witness_VectorSigns :
    (decodeF fp32 0x7FC00000).isNaN ∧ ¬ (decodeF fp32 0x3F800000).isNaN ∧ ltVal (decodeF fp32 0xBF800000) (decodeF fp32 0x3F800000) ∧
    0x80000000 = zeroOf fp32 true ∧ 0 = zeroOf fp32 false ∧ fMinMax fp32 false 0 0x80000000 = (0x80000000, 0) ∧
    fMinMax fp32 true 0x7FA00000 0x3F800000 = (0x3F800000, 16) := by decide +kernel
/-- Two writes of v registers, a put into a v register, a transaction that aborts. -/
theorem witness_ReuseLatch : (0x20000 : Word).getLsbD 17 = true ∧ (0x20000 : Word).toNat / 2 ^ 12 % 32 = 0 ∧
    (getCtx (txState []) 0 0).tx ≠ none := by decide +kernel
/-- 06 R178's example: vfma with the hint keeps v1, and the put into its lanes 0 and 1 clears the latch. -/
theorem test_reuse_latch : nextHas (exec (.vfma 3 1 2 2 0 0 1) (vecState [] [(1, 0x3F800000), (2, 0x3F800000)] []))
    (fun t => (regs t).latch == some 1 && (nputRegs (regs t) 0x221000 0x4000000040000000).latch == none) = true := by decide +kernel
/-- 0x7FFFFFFF + 1 wraps in lane 0, lane 1 is inactive and kept. -/
theorem test_viadd_lanes : nextHas (exec (.viadd 3 1 2 2 1 0) (vecState [] [(1, 0x57FFFFFFF), (2, 0x600000001), (3, 0x9000000FF)] [(1, 1)]))
    (fun t => readV (regs t) 3 == 0x980000000) = true := by decide +kernel

/-! ### the matrix unit -/

/-- A of 64 by 64 bf16 at 0, B at 8,192: KLEN 64, pitch 128 (07 R186, R187). -/
def mmWord : Word := 0x4000000080
def mmState (xs : FMap Word) : State := oneCore { ctxs := [(0, ctxWith .u xs)], spmBytes := 65536 }
theorem witness_MatrixMultiplies :
    let s := mmState [(5, 0), (6, mmWord), (7, 8192), (8, mmWord)]
    let denied : State := { launchState [] with launches := [{ twoRanks with mtx := false }] }
    NoTx s ∧ mtxDenied denied = true ∧ mtxDenied s = false ∧ Present s 5 ∧ Present s 6 ∧ Present s 7 ∧ Present s 8 ∧ Settled s 10 ∧ FreeF s 1 ∧ FreeF s 2 ∧
    opKind (xr s 5) ≠ 2 ∧ firstBad (multiplyChecks s 0 10 (xr s 5) (xr s 6) (xr s 7) (xr s 8)) = none ∧
    firstBad (multiplyChecks s 0 10 (xr s 5) (xr s 6) (xr s 7) 0) = some 0 ∧ (xr s 6).getLsbD 56 = false ∧
    MqRoom s { blankMtx s 0 10 with a0 := 0, a1 := mmWord, b0 := 8192, b1 := mmWord } := by
  unfold Present Settled FreeF NoTx MqRoom
  decide +kernel
theorem witness_MatrixChecks :
    mmWord.getLsbD 51 = false ∧ mmWord.getLsbD 52 = false ∧ opKind 0 ≤ 1 ∧ opKind 8192 ≤ 1 ∧
    firstBad (multiplyChecks (mmState []) 0 10 0 mmWord (65536 - 8192) mmWord) = none ∧
    firstBad (multiplyChecks (mmState []) 0 10 0 mmWord (65536 - 8192 + 16) mmWord) = some (65536 - 8192 + 16) := by decide +kernel
theorem witness_OperandReach : reachA mmWord 64 2 = 8192 ∧ reachB mmWord 64 2 = 8192 ∧ (2 ∈ [1, 2, 4]) := by decide +kernel
theorem witness_MatrixCommands :
    let s := mmState [(5, 64), (6, 128)]
    NoTx s ∧ mtxDenied s = false ∧ Settled s 10 ∧ Present s 5 ∧ Present s 6 ∧ PresentV s 3 ∧ areaBad s 64 false false 8 88 = false ∧
    areaBad s 4 false false 8 88 = true ∧ areaBad s 128 false false 64 256 = false ∧ partlySame s 64 256 88 = false ∧
    firstBad (areaChecks s false 0 0x20080) = some 0x20080 ∧ firstBad (areaChecks s false 0 0x10080) = none ∧
    MqRoom s (blankMtx s 16 10) := by
  unfold Present Settled PresentV NoTx MqRoom
  decide +kernel
/-- A bf16 multiply, and ma.zero, at the head of core 0; credit, and none. -/
def mmCmd : MtxCmd := { blankMtx (mmState []) 0 10 with a0 := 0, a1 := mmWord, b0 := 8192, b1 := mmWord }
def mqState (x : MtxCmd) : State := oneCore { ctxs := [(0, ctxWith .u [])], spmBytes := 65536, mq := [x] }
theorem witness_MatrixGrants :
    let s := mqState mmCmd
    (∀ c ∈ List.range 8, 0 < (getCore s c).qmxw.toNat) ∧ (fget {} s.arb 0).ptr < 8 ∧ mtxEligible s 0 = true ∧
    (∀ c ∈ List.range 8, c ≠ 0 → mtxEligible s c = false) ∧ (fget {} s.arb 0).credit.getD 0 1 = 1 ∧
    (∀ c ∈ List.range 8, mtxEligible (mmState []) c = false) ∧
    min ((fget ({} : Arb) [(0, { credit := List.replicate 8 0 })] 0).credit.getD 0 1) (getCore s 0).qmxw.toNat = 0 := by decide +kernel
/-- What a multiply sees with its last grant. -/
def seenLast (s : State) (k : Nat) (x : MtxCmd) : State :=
  let x' := { beginReads s k x with step := x.step + 1 }
  seenBy (readImages (modHead s k fun _ => x') k x') k x'.bound
theorem witness_MultiplyResults :
    let s := mqState mmCmd
    headCmd s 0 = some mmCmd ∧ mtxIsQe mmCmd.code = false ∧ mmCmd.a1.getLsbD 51 = false ∧ mmCmd.a1.getLsbD 52 = false ∧ mmCmd.pair = none ∧
    mmCmd.step + 1 = grantsOf mmCmd ∧ (multiplyGroups (seenLast s 0 mmCmd) 0 mmCmd).toOption = some [(0, 64, mmCmd.b0)] ∧
    operandsFail (seenLast s 0 mmCmd) 0 mmCmd [(0, 64, mmCmd.b0)] = none := by decide +kernel
theorem witness_OperandsRead :
    let v := seenLast (mqState mmCmd) 0 mmCmd
    ReadsA v 0 mmCmd (List.range 64) (fun i j => elemA v 0 mmCmd (mtxElem mmCmd.code) i j) := fun _ _ => rfl
/-- A of another core, which no window reaches, fails. Cores 0 and 8 are paired; core 0 receives its last grant. -/
theorem witness_PairedResults :
    let f := { mmCmd with a0 := 2 ^ 52 + 2 ^ 18 }
    let x := { mmCmd with pair := some 8, a1 := mmWord + 2 ^ 52 }
    let z := { x with pair := some 0 }
    let y := { z with step := grantsOf z }
    let s : State := { cores := [(0, { ctxs := [(0, ctxWith .u [])], spmBytes := 65536, mq := [x] }),
                                 (8, { ctxs := [(0, ctxWith .u [])], spmBytes := 65536, mq := [y] })] }
    let x' := { beginReads s 0 x with step := x.step + 1 }
    let w := readImages (readImages (modHead s 0 fun _ => x') 0 x') 8 y
    (multiplyResult (seenLast (mqState f) 0 f) 0 f (fun w => elemB (seenLast (mqState f) 0 f) 0 f w (mtxElemB f.code))).toOption = none ∧
    headCmd s 0 = some x ∧ headCmd s 8 = some y ∧ x.step + 1 = grantsOf x ∧ y.status = none ∧ x.a1.getLsbD 51 = false ∧
    operandsFail (seenBy w 0 x'.bound) 0 x [(0, 64, x.b0)] = none ∧ operandsFail (seenBy w 8 y.bound) 8 y [(0, 64, y.b0)] = none := by decide +kernel
/-- Infinities of both signs, and of one (07 R193). -/
theorem witness_GroupRounding :
    (decodeF fp32 0x7FC00000).isNaN = true ∧ groupRound 0 [.inf false, .inf true] = 0x7FC00000 ∧ groupRound 0 [.inf true] = 0xFF800000 ∧
    groupRound 0x3F800000 [.fin false 1 0, .fin true 1 1] = 0 := by decide +kernel
theorem witness_MatrixUnitResults :
    let s := mqState { blankMtx (mmState []) 20 10 with a0 := 64 }
    let h : Word := 0x10080 + 2 ^ 19 + 0x8000 * 2 ^ 32
    opKind 64 = 0 ∧ opOffset 64 + 256 ≤ (getCore s 0).spmBytes ∧ (∀ j ∈ List.range 256, remapAt (getCore s 0) (64 + j) = none) ∧
    fmtBytes (bitsOf 0x10080 18 16) = 2 ∧ areaReach 0x10080 2 ≤ 65536 ∧
    h.getLsbD 19 = true ∧ h.getLsbD 51 = false ∧ bitsOf h 49 32 = 0x8000 ∧ 64 + areaReach h 2 ≤ 0x8000 ∧ 64 * 2 ≤ opRowp h ∧
    opOffset 64 + areaReach h 2 ≤ 65536 ∧ (∀ w ∈ [88, 256, 8192], (viewError s 0 { mmCmd with mode := .u } (2 ^ 52 + 2 ^ 18) w false).isSome = true) ∧
    (viewError s 0 { mmCmd with mode := .u } (2 ^ 52 + 2 ^ 18) 8192 true).isSome = true := by decide +kernel
/-- The last unit, a completion, the operands-consumed token, a pair and its window. -/
theorem witness_MatrixEvents :
    let z := blankMtx (mmState []) 16 10
    let done := { mmCmd with status := some 0, consumed := true, a1 := mmWord + 2 ^ 56 }
    let p := { mmCmd with a1 := mmWord + 2 ^ 52, waitingSince := some 0 }
    let s : State := { cores := [(0, { ctxs := [(0, ctxWith .u [])], mq := [p] }), (8, { ctxs := [(0, ctxWith .u [])], mq := [p] })] }
    let full := modCore (mqState { mmCmd with orphan := true, status := some (-8) }) 0 fun c => { c with upq := List.replicate 16 { code := 12, value := 0 } }
    canRaise full 0 0 = false ∧ canRaise (mqState z) 0 0 = true ∧ (∀ j ∈ List.range 20, mayPair (mqState p) 0 j = false) ∧
    headCmd (mqState z) 0 = some z ∧ 9 < z.code ∧ z.step = 0 ∧ done.orphan = false ∧ headCmd (mqState done) 0 = some done ∧ done.a1.getLsbD 56 = true ∧
    done.told = false ∧ atPairing s 0 = some p ∧ headCmd s 8 = some p ∧ mayPair s 0 8 = true ∧ (∀ j ∈ List.range 20, mayPair s 0 j = true → j = 8) ∧
    (∀ j ∈ List.range 20, mayPair s 8 j = true → j = 0) ∧
    ({ p with window := 0 }).window ≤ waitedFor (mqState { p with window := 0 }) 0 { p with window := 0 } ∧
    waitedFor (mqState { p with window := 5 }) 0 { p with window := 5 } < 5 ∧
    8 ∈ s.cores.map (·.1) := by decide +kernel

/-! ### context images, deliveries -/

/-- Context 0 in S mode may save live helper 3, with its image at 0x40 of the scratchpad, and load into helper 4. -/
theorem witness_ContextImages :
    let s := oneCore { ctxs := [(0, ctxWith .s [(5, 3), (6, 0x10040), (7, 4), (8, 0x10044), (9, 11)]), (3, ctxWith .u [])] }
    InMode (inMode .u []) .u ∧ ¬ InMode s .u ∧ NoTx s ∧ Present s 5 ∧ Present s 6 ∧ Settled s 10 ∧ xn s 5 = 3 ∧ xn s 5 ≠ s.cur ∧
    ((myCore s).ctx 3).st = .live ∧ ((myCore s).ctx 4).st = .free ∧ (myCore s).ctxops = [] ∧ (xr s 6).toNat % 64 = 0 ∧ (xr s 8).toNat % 64 ≠ 0 ∧
    10 < xn s 9 := by
  unfold Present Settled NoTx InMode
  decide +kernel
theorem witness_RecordRoundTrip : (ctxWith .s [(5, 7)]).regs.pc.toNat % 4 = 0 ∧ (ctxWith .s [(5, 7)]).st = .live ∧ (ctxWith .s [(5, 7)]).keptWait = none ∧
    readX (contextOfRecord {} (recordBytes (ctxWith .s [(5, 7)]))).regs 5 = 7 := by decide +kernel
/-- A save to memory and a load from it in M mode; a helper that holds a lock; one with a request outstanding; lines that wait
for a commit and that a lost home turns away; images of a context in U mode, of one that waits and of a held one. -/
theorem witness_ContextTransfers :
    let op : CtxOp := { load := false, issuer := 0, target := 3, va := 0x10000, rd := 5, id := 1, mode := .m }
    let s := fun (load : Bool) (c : Context) => oneCore { ctxs := [(0, ctxWith .m []), (3, c)], ctxops := [{ op with load := load }] }
    let c := ctxWith .u []
    let x : Tx := { depth := 1, saved := {}, rd := 4, readSet := [0x80], phase := .preparing [homeOf 0x10000] }
    let hold := fun (s : State) => { s with cores := s.cores ++ [(1, { ctxs := [(0, { ctxWith .u [] with st := .waiting .commit, tx := some x })] })] }
    let gone := fun (s : State) => { s with lostHomes := List.range 16 }
    (getCore (s false c) 0).ctxops.find? (fun o => o.target == 3 && !o.load) = some op ∧
    (getCore (s true c) 0).ctxops.find? (fun o => o.target == 3 && o.load) = some { op with load := true } ∧
    repliesIn (s false c) 0 3 = true ∧ repliesIn { s false c with reqs := [{ loadOf [] with ctx := 3 }] } 0 3 = false ∧
    imageFault (s false c) 0 op .store = none ∧ imageFault (s false c) 0 { op with va := 0x100000000000000 } .store = some 7 ∧
    (putLines (s false c) 0 op (recordBytes c) 24).1 = .all ∧ (getLines (s true c) 0 { op with load := true } [] 24).1 = .all ∧
    op.hostWait = false ∧ ({ op with hostWait := true }).hostWait = true ∧ followed (s false c) 0 op.after = true ∧
    followed (withReq (s false c) { loadOf [{ pa := 64, va := 64, n := 8 }] with kind := .atomic 0 }) 0 [1] = false ∧
    (putLines (hold (s false c)) 0 op (recordBytes c) 24).1 = .wait ∧ (getLines (hold (s true c)) 0 { op with load := true } [] 24).1 = .wait ∧
    (putLines (gone (s false c)) 0 op (recordBytes c) 24).1 = .error ∧ (getLines (gone (s true c)) 0 { op with load := true } [] 24).1 = .error ∧
    imageFault (s true c) 0 { op with load := true } .load = none ∧ imageFault (s true c) 0 { op with load := true, va := 0x100000000000000 } .load = some 5 ∧
    (([c, { c with st := .waiting (.word { loc := 64, named := 64, va := 64 } 7 0 5) }, { c with st := .held 0x5000 }].map fun c =>
      leNat (((recordBytes c).drop 0x5C8).take 8) / 2 ^ 61) = [1, 2, 3]) ∧
    leNat (((recordBytes c).drop 0x5C8).take 8) / 2 ^ 59 % 4 = 0 ∧ Mode.u.code < leNat (((recordBytes (ctxWith .m [])).drop 0x5C8).take 8) / 2 ^ 59 % 4 ∧
    ({ c with locks := [7] }).locks ≠ [] ∧ c.tx = none ∧ lockRequests c = [] ∧ c.deferred = [] := by decide +kernel
/-- A load of 8 bytes has its answer; a failed one; one whose context has ended. -/
theorem witness_ReplyWrites :
    let p : Part := { pa := 64, va := 64, n := 8, done := true, res := 9 }
    let r := loadOf [p]
    let s := fun r => withReq (inMode .u []) r
    findReq (s r) 1 = some r ∧ r.queued = false ∧ reqDone r = true ∧ r.ctx < 16 ∧ r.orphan = false ∧ r.fail = none ∧ r.dst = .x 5 8 false ∧
    findReq (s { r with fail := some (0x130, 64) }) 1 = some { r with fail := some (0x130, 64) } ∧
    findReq (s { r with orphan := true }) 1 = some { r with orphan := true } ∧ findReq (s { r with dst := .pair 6 }) 1 = some { r with dst := .pair 6 } ∧
    findReq (s { r with dst := .v 3 4 }) 1 = some { r with dst := .v 3 4 } ∧ findReq (s { r with dst := .none }) 1 = some { r with dst := .none } ∧
    findReq (s { r with dst := .vb 3 8 [0, 2] }) 1 = some { r with dst := .vb 3 8 [0, 2] } ∧
    (∀ k ∈ [ReqKind.pageState, .lockState], let q := { loadOf [{ pa := 0x10000, va := 0x10000, n := 8 }] with kind := k, mode := .m }
      findReq (s q) 1 = some q ∧ accessError (s q) q.core q.mode 0x10000 8 (k == .lockState) false = none ∧ pageAt (s q) 0x10000 = none) ∧ (4 : Nat) ∈ [1, 2, 4, 8] := by decide +kernel
theorem witness_DeferredTraps : (getCtx (inMode .u []) 0 1).st = .free ∧ (getCtx (inMode .u []) 0 0).st ≠ .free ∧ (getCtx (inMode .u []) 0 0).tx = none ∧
    (getCtx (txState []) 0 0).tx ≠ none := by decide +kernel
/-- An entry with a result to write, one with an access; the result of a division. -/
theorem witness_QueueFills :
    let e : VqEntry := { ctx := 0, work := .fillX 5 9 }
    let m : VqEntry := { ctx := 0, work := .memory 1 }
    let r := { loadOf [{ pa := 0, va := 0, n := 4, done := true, res := 9, own := true }] with kind := .compute, dst := .f 5 }
    let s := fun e => { oneCore { ctxs := [(0, ctxWith .u [])], vq := [e] } with reqs := [r] }
    (getCore (s { e with orphan := true }) 0).vq = [{ e with orphan := true }] ∧ (getCore (s { e with work := .done }) 0).vq = [{ e with work := .done }] ∧
    (getCore (s e) 0).vq = [e] ∧ e.orphan = false ∧ (getCore (s m) 0).vq = [m] ∧ findReq (s m) 1 = some r ∧
    (s e).reqs.find? (fun r => r.core == 0 && r.ctx == 0 && r.dst == .f 5 && reqDone r && r.fail.isNone && !r.orphan && !r.queued) = some r := by decide +kernel
/-- An nput from core 1 to x5 of context 0 of core 0, and to its free helper 1. -/
theorem witness_PutFills :
    let o : CtxOp := { load := false, issuer := 1, target := 0, va := 0x40, rd := 5, pos := 9 }
    (o.pos = 9 ∧ ({ o with pos := 0 }).pos < 9 ∧ ({ o with load := true }).load = true ∧ o.hostWait = false ∧ ({ o with hostWait := true }).hostWait = true) ∧
    let s := fun d => withMsg (launchState []) 1 0 (.nput d 9)
    let m := fun d => ({ id := 3, core := 1, ctx := 0, kind := .nput d 9 } : Msg)
    let u := fun d => wakeCore (dropMsg (s d) 3) 0
    findMsg (s 0x5000) 3 = some (m 0x5000) ∧ nputHeld (s 0x5000) (m 0x5000) 0x5000 = false ∧ (getCore (u 0x5000) 0).launch = some 1 ∧
    (getCore (u 0x5000) 1).launch = some 1 ∧ helperIsFree (getCore (u 0x5000) 0) 0 = false ∧ helperIsFree (getCore (u 0x5100) 0) 1 = true ∧
    nputHeld (withReq (s 0x5000) { loadOf [{ pa := 64, va := 64, n := 8 }] with core := 1 }) (m 0x5000) 0x5000 = true ∧
    (getCore (modCore (u 0x5000) 0 fun c => { c with launch := none }) 0).launch ≠ some 1 ∧ savedOf (u 0x5000) 0 (some 1) = none ∧
    (0x5000#64).getLsbD 17 = false ∧ (0x23000#64).getLsbD 17 = true ∧ (0x23000#64).toNat / 2 ^ 12 % 32 % 16 = 3 := by decide +kernel
/-- A pnext whose accesses have completed; an ecall before the next parcel, and after the last one. -/
theorem witness_ParcelEnds :
    let r := { loadOf [{ pa := 0, va := 0, n := 8, done := true, res := 2, own := true }] with kind := .compute, queued := true }
    let s := { launchState [] with reqs := [r] }
    let e := modCtx (launchState []) 0 0 fun c => { c with st := .parked [.accessesDone] }
    pendingPnext s 0 = some r ∧ r.orphan = false ∧ r.fail = none ∧ completedBefore s 0 r.order = true ∧ pendingPnext e 0 = none ∧
    (getCtx e 0 0).st = .parked [.accessesDone] ∧ condHolds e 0 0 .accessesDone = true ∧
    completedBefore { s with reqs := [r, { loadOf [{ pa := 64, va := 64, n := 8 }] with id := 0, order := 0 }] } 0 r.order = false ∧
    (getCtx (launchState []) 0 0).st ≠ .parked [.accessesDone] ∧ pendingPnext (launchState []) 0 = none ∧
    condHolds (withReq e (loadOf [{ pa := 64, va := 64, n := 8 }])) 0 0 .accessesDone = false ∧ twoRanks.id = 1 ∧ (getCore e 0).launch = some 1 ∧ nextParcel e 0 = some (twoRanks, 2) ∧
    nextParcel { e with launches := [{ twoRanks with parcels := 2 }] } 0 = none := by decide +kernel

/-! ### homes -/

/-- A load, a store and a signal of line 0x401 in M mode; of package 1 from package 0; a line that the L1 holds. -/
theorem witness_ServedAccesses :
    let p : Part := { pa := 0x10040, va := 0x10040, n := 8, data := 7 }
    let s := fun (r : Req) => withReq (inMode .m []) r
    let r := { loadOf [p] with mode := .m }
    let w := { r with kind := .store, dst := .none }
    let g := { r with kind := .signal, dst := .none }
    let far := { loadOf [{ p with pa := 0x1000000010040, far := true }] with mode := .m }
    let f := { s far with pkgs := [0, 1] }
    let x : Tx := { depth := 1, saved := {}, rd := 4, readSet := [0x80], phase := .preparing [homeOf p.pa] }
    let c := fun r => { s r with cores := [(0, { ctxs := [(0, ctxWith .m [])] }), (1, { ctxs := [(0, { ctxWith .u [] with st := .waiting .commit, tx := some x })] })] }
    let pg : Page := { frame := 0x40, new := 0x80, big := false, st := .handover }
    let full := { s r with l2way := (List.range 24).map fun i => ((0x401 + 0x8000 * (i + 1)) * 16, i),
                           l2 := (List.range 24).map fun i => ((0x401 + 0x8000 * (i + 1)) * 16, .s) }
    let l := { s r with cores := [(0, { ctxs := [(0, ctxWith .m [])], l1 := [{ set := 1, way := 0, line := 0x401, st := .m }] })] }
    (∀ q ∈ [r, w, g], findReq (s q) 1 = some q ∧ orderAllows (s q) q p = true ∧ redirectHolds (s q) q 0 p = false ∧
      partError (s q) q p (coversWhole q (lineOf p.pa)) = none ∧ pageAt (s q) p.pa = none ∧ (dirOf (s q) (lineOf p.pa)).st ≠ .p ∧
      judge (s q) 0 0 false (if isWriteKind q.kind then .write else .read) p.pa = .go [] 11) ∧
    p.answer = none ∧ p.named = none ∧ p.fwd = 0 ∧ p.own = false ∧ p.far = false ∧ isMain p.pa = true ∧ paPkg p.pa = pkgOf 0 ∧ l1Hits l r p = true ∧
    paPkg 0x1000000010040 ≠ pkgOf 0 ∧ remoteSent f 0 0x1000000010040 = true ∧
    laneBehind f 0 far.order 0x1000000010040 = false ∧ hasArrived f 1 0 0x1000000010040 = false ∧ l2Room (s r) 0 0x401 = true ∧ pageServes (s r) p.pa true = true ∧
    (dirOf (s r) 0x401).st ≠ .p ∧ (∀ q ∈ [r, w, g], q.kind ≠ .compute ∧ q.tx = false) ∧
    partError { s r with lostHomes := List.range 16 } r p (coversWhole r (lineOf p.pa)) = some Reason.homelost ∧
    judge (c r) 0 0 false .read p.pa = .hold ∧ pageServes (c r) p.pa false = true ∧
    pageAt { s r with pages := [pg] } p.pa = some pg ∧ pageServes { s r with pages := [pg] } p.pa true = false ∧ (1, 0) ∉ pg.waiters ∧
    orderAllows { s r with pages := [pg] } r p = true ∧ redirectHolds { s r with pages := [pg] } r 0 p = false ∧
    partError { s r with pages := [pg] } r p (coversWhole r (lineOf p.pa)) = none ∧ pg.st = .handover ∧
    l2Room full 0 0x401 = false ∧
    (far.parts.all fun p => orderAllows f far p && (partError f far p (coversWhole far (lineOf p.pa))).isNone &&
      judge f 0 0 false .read p.pa == .go [] 11) = true := by decide +kernel
theorem witness_AccessesWait :
    let p : Part := { pa := 0x10040, va := 0x10040, n := 8 }
    findReq (withReq (inMode .m []) (loadOf [p])) 1 = some (loadOf [p]) ∧ (loadOf [p]).kind = .load ∧
    orderAllows (withReq (inMode .m []) { loadOf [p] with queued := true }) { loadOf [p] with queued := true } p = false := by decide +kernel
/-- An access of a transaction: its tile fits, its line is locked; 64 other tiles are in use. -/
theorem witness_TransactionalAccess :
    let p : Part := { pa := 0x10040, va := 0x10040, n := 8, data := 7 }
    let r := { loadOf [p] with tx := true, mode := .m }
    let s := fun (tiles : List Nat) => { oneCore { ctxs := [(0, { ctxWith .m [] with tx := some { depth := 1, saved := {}, rd := 4, readSet := tiles } })] } with
      reqs := [r], nextId := 2 }
    let k := { s [] with dir := [(0x401, { lock := true })] }
    let pg : Page := { frame := 0x40, new := 0x80, big := false, st := .eft }
    let w := modCtx (s []) 0 0 fun c => { c with abortMsg := some (1, 0x10000) }
    let x : Tx := { depth := 1, saved := {}, rd := 4, writeSet := [0x80] }
    let foe := fun (ph : TxPhase) (st : CtxState) => modCtx (s []) 1 0 fun _ => { ctxWith .u [] with st := st, age := some 0, tx := some { x with phase := ph } }
    let late := modCtx (foe .running .live) 0 0 fun c => { c with age := some 7 }
    let full := { s [] with l2way := (List.range 24).map fun i => ((0x401 + 0x8000 * (i + 1)) * 16, i),
                            l2 := (List.range 24).map fun i => ((0x401 + 0x8000 * (i + 1)) * 16, .s) }
    findReq (s []) 1 = some r ∧ orderAllows (s []) r p = true ∧ redirectHolds (s []) r 0 p = false ∧ paPkg p.pa = pkgOf r.core ∧ p.far = false ∧
    tileFits (s []) 0 0 (tileOf p.pa) = true ∧ partError (s []) r p (coversWhole r (lineOf p.pa)) = none ∧ (dirOf k (lineOf p.pa)).lock = true ∧
    (dirOf (s []) (lineOf p.pa)).lock = false ∧ pageAt (s []) p.pa = none ∧ (dirOf (s []) (lineOf p.pa)).st ≠ .p ∧
    judge (s []) 0 0 true .read p.pa = .go [] 1 ∧ pageAt { s [] with pages := [pg] } p.pa = some pg ∧ l2Room (s []) 0 0x401 = true ∧
    (getCtx w 0 0).abortMsg = some (1, 0x10000) ∧ judge (foe (.preparing [homeOf p.pa]) (.waiting .commit)) 0 0 true .read p.pa = .hold ∧
    judge late 0 0 true .read p.pa = .selfAbort ∧ l2Room full 0 0x401 = false := by decide +kernel
/-- A line of cluster 1 in every state, with its copy there. -/
theorem witness_HomeTransitions :
    let s := fun (d : DirLine) (c : LineSt) => { inMode .m [] with dir := [(0x401, d)], l2 := [(0x401 * 16 + 1, c)] }
    (∀ x ∈ [LineSt.i, .s, .e, .m, .o, .p], (dirOf (s { st := x, own := 1 } x) 0x401).st = x ∧ l2Of (s { st := x, own := 1 } x) 0x401 1 = x) ∧
    (dirOf (s { st := .p, own := 1, tag := 3 } .p) 0x401).tag = 3 ∧
    (let x : Tx := { depth := 1, saved := {}, rd := 4, readSet := [0x80], phase := .preparing [homeOf 0x10040] }
     let h := s { st := .p, own := 1 } .p
     heldForCommit h (0x401 * 64) 64 = false ∧
     heldForCommit { h with cores := h.cores ++ [(1, { ctxs := [(0, { ctxWith .u [] with st := .waiting .commit, tx := some x })] })] } (0x401 * 64) 64 = true) := by decide +kernel
theorem witness_Reductions :
    let p : Part := { pa := 0x10040, va := 0x10040, n := 8, data := 7 }
    let r := { loadOf [p] with kind := .reduce 1, dst := .none, mode := .m }
    let s := withReq (inMode .m []) r
    let h := { s with dir := [(0x401, { st := .p, tag := 1, ph := 1 })] }
    let x : Tx := { depth := 1, saved := {}, rd := 4, writeSet := [0x80], phase := .preparing [homeOf p.pa] }
    let pg : Page := { frame := 0x40, new := 0x80, big := false, st := .eft }
    findReq s 1 = some r ∧ orderAllows s r p = true ∧ redirectHolds s r 0 p = false ∧ paPkg p.pa = pkgOf r.core ∧ p.far = false ∧ pageAt s p.pa = none ∧
    partError s r p false = none ∧ judge s 0 0 false .reduce p.pa = .go [] 11 ∧ (dirOf s 0x401).st = .i ∧ (dirOf h 0x401).st = .p ∧
    (dirOf h 0x401).ph.getLsbD (clusterIn 0) = true ∧ (dirOf h 0x401).tag = 1 ∧ l2Room s 0 0x401 = true ∧
    judge { s with cores := [(0, { ctxs := [(0, ctxWith .m [])] }), (1, { ctxs := [(0, { ctxWith .u [] with st := .waiting .commit, tx := some x })] })] } 0 0
      false .reduce p.pa = .hold ∧
    pageAt { s with pages := [pg] } p.pa = some pg ∧ pageServes { s with pages := [pg] } p.pa true = true ∧
    l2Room { s with l2way := (List.range 24).map fun i => ((0x401 + 0x8000 * (i + 1)) * 16, i),
                    l2 := (List.range 24).map fun i => ((0x401 + 0x8000 * (i + 1)) * 16, .s) } 0 0x401 = false := by decide +kernel
theorem witness_Probes : (cvOf { inMode .m [] with dirCv := [(0x80, 1)] } (0x401 / 8)).getLsbD 0 = true ∧ (inMode .m []).probeMiss = [] ∧
    (cvOf (inMode .m []) (0x401 / 8)).getLsbD 0 = false ∧ (0x401 * 16 + 0) ∈ ({ inMode .m [] with probeMiss := [0x401 * 16] } : State).probeMiss := by decide +kernel
/-- A load of the own scratchpad that waited, and of core 1 through its window. -/
theorem witness_ScratchpadPorts :
    let p : Part := { pa := 0x40, va := 0x10040, n := 8, own := true }
    let q : Part := { pa := 0x200000040040, va := 0x20040, n := 8 }
    let s := fun (p : Part) => { launchState [] with reqs := [loadOf [p]], nextId := 2 }
    let v := fun (p : Part) => modCore (s p) 0 fun c => { c with qpwin := [(0, 0xDE00200000000000)] }
    let img : SavedRank := { launch := 1, rank := 1, parcel := 1, base := 0x100000, spmBytes := 65536 }
    let i := modCore (v q) 1 fun c => { c with launch := some 2, saved := some img }
    let w := modCore (s p) 0 fun c => { c with cq := [{ blankCopy (s p) 4 5 0x40 0x200 64 with
      dstS := true, srcS := true, dst := 0x40, src := 0x200, rowBytes := 64 }] }
    findReq (s p) 1 = some (loadOf [p]) ∧ orderAllows (s p) (loadOf [p]) p = true ∧ redirectHolds (s p) (loadOf [p]) 0 p = false ∧ p.far = false ∧ redirectHolds (v q) (loadOf [q]) 0 q = false ∧
    spmWaits (getCore (s p) 0) 1 0x40 8 false = false ∧ findReq (v q) 1 = some (loadOf [q]) ∧ orderAllows (v q) (loadOf [q]) q = true ∧
    isSpm q.pa = true ∧ partRemote (v q) 0 q = false ∧ partError (v q) (loadOf [q]) q false = none ∧ windowCore q.pa = 1 ∧
    (getCore (v q) 1).launch = (getCore (v q) 0).launch ∧ partError (s q) (loadOf [q]) q false ≠ none ∧
    spmWaits (getCore w 0) 3 0x40 8 false = true ∧ savedOf i 1 (getCore i 0).launch = some img ∧ (getCore i 1).launch ≠ (getCore i 0).launch ∧
    (let x : Tx := { depth := 1, saved := {}, rd := 4, readSet := [tileOf 0x116040], phase := .preparing [homeOf 0x116040] }
     heldForCommit i 0x116040 8 = false ∧ imageAddr img (imageRemap i img) 0x40 = 0x116040 ∧
     heldForCommit { i with cores := i.cores ++ [(2, { ctxs := [(0, { ctxWith .u [] with st := .waiting .commit, tx := some x })] })] } 0x116040 8 = true) ∧
    partError i (loadOf [q]) q false = none ∧ orderAllows i (loadOf [q]) q = true := by decide +kernel

/-! ### boundaries and launches -/

theorem witness_UpcallDelivery :
    let u : UpcallRec := { code := 0x103, value := 9 }
    let s := fun (qupv : Word) => oneCore { ctxs := [(0, ctxWith .u [])], upq := [u], qupv := qupv }
    let p := oneCore { ctxs := [(0, ctxWith .u []), (4, ctxWith .u [])], upq := [{ code := 13, value := 64, ctx := 4 }] }
    let h := modCtx (s 0x4001) 0 0 fun c => { c with st := .held 64 }
    (getCore (s 0x4001) 0).upq = [u] ∧ (getCore (s 0) 0).preempting = false ∧ (getCtx (s 0) 0 0).mode = .u ∧ (getCtx (s 0) 0 0).tx = none ∧
    (getCtx (s 0) 0 0).st = .live ∧ upcallsOn (getCore (s 0x4001) 0) = true ∧ upcallActive (getCore (s 0x4001) 0) = false ∧
    upcallActive (getCore (modCore (s 0x4001) 0 fun c => { c with qupcause := 0x8000000000000003 }) 0) = true ∧
    (getCore p 0).upq = [{ code := 13, value := 64, ctx := 4 }] ∧ (getCtx p 0 4).st = .live ∧ (getCtx p 0 0).st = .live ∧ upcallsOn (getCore p 0) = false ∧
    (getCtx (modCtx p 0 4 fun c => { c with st := .free }) 0 4).st = .free ∧
    upcallsOn (getCore (s 0) 0) = false ∧ (getCtx (inMode .s []) 0 0).mode ≠ .u ∧ (getCtx h 0 0).st = .held 64 := by decide +kernel
theorem witness_DeferredTrapTaken :
    let h := oneCore { ctxs := [(0, { ctxWith .u [] with deferred := [⟨0x131, 64⟩] }), (3, { ctxWith .u [] with deferred := [⟨0x131, 64⟩], st := .parked [.vecDone] })] }
    (getCtx h 0 3).deferred = [⟨0x131, 64⟩] ∧ ¬ (3 = 0 ∨ (0x131 ≠ 0x131 ∧ 0x131 ≠ 0x135) ∨ ∀ e ∈ (getCtx h 0 0).deferred, e.code ≠ 0x131) ∧
    (getCtx h 0 3).st = .parked [.vecDone] ∧
    let s := fun (m : Mode) => oneCore { ctxs := [(0, { ctxWith m [] with deferred := [⟨0x130, 64⟩] })] }
    (getCtx (s .u) 0 0).deferred = [⟨0x130, 64⟩] ∧ (getCtx (s .u) 0 0).tx = none ∧ (getCtx (s .s) 0 0).mode ≠ .u ∧ (getCtx (s .u) 0 0).st = .live ∧
    inCtxOp (getCore (s .u) 0) 0 = false ∧ (getCore (s .u) 0).preempting = false := by decide +kernel
theorem witness_Interrupts :
    let s := oneCore { ctxs := [(0, ctxWith .u [])], mip := 0x200, mie := 0x200, stvec := 0x4001 }
    let w := oneCore { ctxs := [(0, { ctxWith .s [] with mstatus := 2, st := .waiting .wfi })], mip := 0x200, mie := 0x200, halted := true }
    let x := modCore (txState []) 0 fun c => { c with mip := 0x200, mie := 0x200 }
    (getCore s 0).mip.getLsbD 9 = true ∧ (getCore s 0).mie.getLsbD 9 = true ∧ (getCtx s 0 0).st = .live ∧ (getCore s 0).preempting = false ∧
    (getCore s 0).quarantined = false ∧ (getCtx s 0 0).mode = .u ∧ (getCtx s 0 0).tx = none ∧ (getCore (inMode .u []) 0).mip.getLsbD 9 = false ∧
    (getCtx w 0 0).st = .waiting .wfi ∧ (getCtx w 0 0).mode = .s ∧ (getCtx w 0 0).mstatus.getLsbD 1 = true ∧ (getCtx w 0 0).tx = none ∧
    (getCore w 0).halted = true ∧ (getCtx x 0 0).tx.isSome = true ∧ (getCore x 0).mip.getLsbD 9 = true ∧ (getCtx x 0 0).st ≠ .free := by decide +kernel
/-- A first and a second expiry; a yield whose window is over, and one that waits for context 2. -/
theorem witness_WatchdogAndYield :
    let s := fun n => { core0 [] (fun c => { c with qcont := 0x10000, wdogs := n }) with cycle := 65536 }
    let y := fun (d : Nat) (o : List Nat) => oneCore { ctxs := [(0, { ctxWith .u [] with st := .waiting (.yield d o) })] }
    (getCore (s 0) 0).qcont.toNat / 2 ^ 16 % 2 ^ 24 = 1 ∧ (getCore (s 0) 0).launch ≠ none ∧ anyLive (getCore (s 0) 0) = true ∧
    (getCore (s 0) 0).halted = false ∧ (getCore (s 0) 0).preempting = false ∧ (getCore (s 0) 0).lastIssue + 1 * 65536 ≤ ownCycle (s 0) 0 ∧
    (getCore (s 1) 0).wdogs ≠ 0 ∧ (getCtx (y 0 [2]) 0 0).st = .waiting (.yield 0 [2]) ∧ 0 ≤ ownCycle (y 0 [2]) 0 ∧ ownCycle (y 9 [2]) 0 < 9 ∧ (getCtx (y 9 []) 0 0).st = .waiting (.yield 9 []) := by decide +kernel
theorem witness_Containment :
    let s := launchState []
    let x : CopyCmd := { blankCopy s 4 5 0x200 0x100 2048 with
      dstS := true, srcS := true, dst := 0x2000, src := 0x100, rowBytes := 2048, started := true, pos := 64, goal := 1024 }
    let d := core0 [] fun c => { c with qcont := 0x100, domDepth := 1, levels := c.levels ++ [{ dom := 1, rank := 0, size := 2 }] }
    (stopCore (core0 [] fun c => { c with cq := [x] }) 0 |> fun t => (getCore t 0).cq.length) = 1 ∧ (getCore (stopCore s 0) 0).cq = [] ∧
    (getCore (stopCore s 0) 0).pubs = [] ∧ (stopCore s 0).reqs = [] ∧ bitsOf (getCore d 0).qcont 11 8 = 1 ∧ (getCore d 0).domDepth ≠ 0 ∧
    levelAt (getCore d 0) (getCore d 0).domDepth.toNat = some { dom := 1, rank := 0, size := 2 } ∧ (domOf d 1).isSome = true ∧
    launchOf (postFor s 0 0 2 5 0 0 0) 1 = some twoRanks ∧ clusterOf 0 ∉ s.spares ∧
    (getCore s 0).launch = some 1 ∧ launchOf s 1 = some twoRanks ∧ twoRanks.failed = none ∧ bitsOf (getCore s 0).qcont 11 8 = 0 ∧
    bitsOf (getCore (core0 [] fun c => { c with qcont := 0x200 }) 0).qcont 11 8 = 2 ∧ (getCore s 0).quarantined = false ∧
    (getCore (core0 [] fun c => { c with quarantined := true }) 0).quarantined = true ∧ clusterOf 0 ∈ ({ s with spares := [0] }).spares := by decide +kernel

/-- Partition 2 of tenant 5: quad 0 and a writable window of 1 GiB from 0. -/
def podState : State := {
  parts := [(2, { tenant := 5, quads := 1, windows := [0xDE00000000000000], l2mask := List.replicate 16 0, llcWays := 16, bwHbm := 1, bwDdr := 1 })] }
/-- A packet: entry 0x1000, args 7, 2 ranks, 4 parcels, 64 KiB, MTX = 0, record 0x4000, tag 9, regions 0x8000. -/
def packet (cores parcels spm flags : Nat) (policy record regions : Nat) : BitVec 1024 :=
  BitVec.ofNat 1024 (0x1000 + 7 * 2 ^ 64 + cores * 2 ^ 128 + parcels * 2 ^ 160 + spm * 2 ^ 192 + flags * 2 ^ 240 + policy * 2 ^ 264 +
    record * 2 ^ 320 + 9 * 2 ^ 384 + regions * 2 ^ 512)
/-- Tenant 5 attached, with one packet at the endpoint. -/
def packetState (w : BitVec 1024) (f : HostTable → HostTable) : State := { podState with
  sessions := [(5, { known := true, highest := 9, seen := [9] })], nextId := 2,
  tables := [f { id := 1, pkg := 0, tenant := 5, use := .check 0 8 3 w, pa := w.toNat / 2 ^ 448 % 2 ^ 64 }] }
/-- A message that is new and one that is not; a packet behind another; a RECORD that is right, is not, and is held; each check;
a slot table in memory, held, and in a host window, not come and come. -/
theorem witness_LaunchPackets :
    let field := fun (w : BitVec 1024) off n => w.toNat / 2 ^ (8 * off) % 2 ^ (8 * n)
    let good := packet 2 4 65536 0 0 0x4000 0x8000
    let at_ := fun (slots : Nat) => good + BitVec.ofNat 1024 (slots * 2 ^ 448)
    let s := packetState good id
    let tab : HostTable := { id := 1, pkg := 0, tenant := 5, use := .check 0 8 3 good, pa := 0 }
    let moving : Page := { frame := 0x10, new := 0x80, big := false, st := .handover }
    let host := 0x800000000000
    let wide := { s with parts := s.parts.map fun e => (e.1, { e.2 with windows := [0xDE00000000000000, 0x9E00800000000000] }) }
    let fits := { s with mem := [(0x8000, 1), (0x8004, 1), (0x8014, 1)] }
    (accept podState 0 5 8 = none ∧ (accept s 0 5 8).isSome = true ∧ 0 < 16) ∧ tableById s 1 = some tab ∧ tab.use = .check 0 8 3 good ∧
    (tab :: [{ tab with id := 0 }]).any (fun o => o.pkg == 0 && o.tenant == 5 && decide (o.id < 1)) = true ∧
    tenantMay s 0 5 0x4000 64 true = true ∧ tenantMay s 0 5 (2 ^ 31) 64 true = false ∧ tenantPart s 0 5 = podState.parts.head? ∧ tenantPart s 0 6 = none ∧
    field good 0x28 8 = 0x4000 ∧ field good 0x10 4 = 2 ∧ field good 0x14 4 = 4 ∧ field good 0x18 4 = 65536 ∧ field good 0x1E 1 / 8 = 0 ∧
    field good 0x1F 1 / 2 = 0 ∧ field good 0x25 3 = 0 ∧ field good 0x48 56 = 0 ∧ field good 0x21 1 % 16 = 0 ∧ field good 0x38 8 = 0 ∧
    field good 0x40 8 = 0x8000 ∧ tenantMay s 0 5 0x8000 128 false = true ∧ tenantMay s 0 5 (2 ^ 31) 128 false = false ∧
    deviceHeld s 0x4000 64 true = false ∧ deviceHeld { s with pages := [moving] } 0x4000 64 true = true ∧
    field good 0 8 = 0x1000 ∧ (quadsOf 1).length = 1 ∧ field (at_ 0x8000) 0x38 8 = 0x8000 ∧ tenantMay s 0 5 0x8000 16 false = true ∧
    isHost 0x8000 = false ∧ slotsHeld s 0x8000 = false ∧ slotsHeld { s with pages := [{ moving with frame := 0x20 }] } 0x8000 = true ∧
    slotsOk s 0 5 0x8000 2 (readSlotTable s 0 5 0x8000).1 = false ∧ slotsOk fits 0 5 0x8000 2 (readSlotTable fits 0 5 0x8000).1 = true ∧
    isHost host = true ∧ field (at_ host) 0x38 8 = host ∧ tenantMay wide 0 5 host 16 false = true ∧ tenantMay s 0 5 host 16 false = false ∧
    tableDone { tab with pa := host } = false ∧ tableDone { tab with pa := host, got := List.replicate 16 0 } = true ∧
    tableDone { tab with pa := host, refused := true } = true ∧
    field (packet 33 4 65536 0 0 0x4000 0x8000) 0x10 4 = 33 ∧ field (packet 0 4 65536 0 0 0x4000 0x8000) 0x10 4 = 0 ∧
    field (packet 2 4 65537 0 0 0x4000 0x8000) 0x18 4 % 16384 ≠ 0 ∧ 262144 < field (packet 2 4 262145 0 0 0x4000 0x8000) 0x18 4 ∧
    field (packet 2 4 65536 8 0 0x4000 0x8000) 0x1E 1 / 8 ≠ 0 ∧ field (packet 2 0 65536 0 3 0x4000 0) 0x21 1 % 16 = 3 ∧
    field (packet 2 0 65536 0 3 0x4000 0) 0x14 4 = 0 ∧ field (packet 2 0 65536 0 3 0x4000 0) 0x40 8 = 0 := by decide +kernel
theorem witness_Sequencer :
    let s := fun e => { launchState [] with events := [(0, [e])] }
    let h := { launchState [] with launches := [{ twoRanks with retired := [1] }], pages := [{ frame := 0x10, new := 0x80, big := false, st := .handover }] }
    (∀ e ∈ [Sched.submit 1, .retire 0 1, .saved 0 true, .saved 0 false, .ctl 0 true false], fget [] (s e).events 0 = [e]) ∧
    recordHeld (s (.retire 0 1)) 1 = false ∧ recordHeld { h with events := [(0, [.retire 0 1])] } 1 = true ∧
    launchOf (s (.submit 1)) 1 = some twoRanks ∧
    (launchOf (freeRank h 0 1) 1).map (fun l => (l.place.length, l.retired.length, l.finished)) = some (2, 2, false) ∧
    (launchOf (freeRank (launchState []) 0 1) 1).map (fun l => (l.place.length, l.retired.length)) = some (2, 1) := by decide +kernel
/-- Two ranks on four cores of a cluster; three ranks that find two cores. -/
theorem witness_Placement :
    let l := { twoRanks with mtx := false, started := false }
    let s := { podState with launches := [{ l with cores := 3 }] }
    let v := { podState with launches := [{ l with id := 7, prio := 1 }], occ := [(4, { occ := some (7, 0), saveV := true })] }
    victimCore v 2 4 = true ∧ victimCore v 1 4 = false ∧ (occOf v 4).occ = some (7, 0) ∧ waitingOf s 0 2 = [{ l with cores := 3 }] ∧
    placeLaunch podState l [4, 5, 6, 7] (fun _ => false) = some ([4, 5], []) ∧ ([4, 5, 6, 7] : List Nat).Pairwise (· < ·) ∧ 0 < l.cores ∧
    2 ≤ (([4, 5, 6, 7] : List Nat).filter fun k => clusterOf k == 0).length ∧
    placeLaunch s { l with cores := 3 } (([4, 5] : List Nat).filter (freeCore s)) (fun _ => false) = none ∧
    placeLaunch s { l with cores := 3 } (([4, 5] : List Nat).filter fun k => freeCore s k || victimCore s 0 k) (victimCore s 0) = none := by decide +kernel
theorem witness_PartitionChange :
    let p : Partn := { tenant := 5, quads := 2, windows := List.replicate 16 0, l2mask := List.replicate 16 0, llcWays := 16, bwHbm := 1, bwDdr := 1 }
    podState.parts.find? (fun e => e.1 == partKey 0 2) = podState.parts.head? ∧ (1#128).getLsbD 0 = true ∧ p.quads.getLsbD 0 = false ∧
    fget [] podState.events 0 = [] ∧ partAllowed podState 0 3 p = true ∧ partAllowed podState 0 3 { p with quads := 1 } = false ∧
    fget [] ({ podState with events := [(0, [.submit 1])] }).events 0 ≠ [] ∧ p.quads.getLsbD 1 = true := by decide +kernel
/-- A rank to start and none; tables in memory, held, and in a host window, not read and read. -/
theorem witness_RankStart :
    let l := { twoRanks with unstarted := [0, 1] }
    let st := fun (l : Launch) => { launchState [] with cores := [(0, { ctxs := [(0, ctxWith .m [])] })], occ := [(0, { occ := some (1, 0) })], launches := [l] }
    let host := 0x800000000000
    let tab : HostTable := { id := 1, pkg := 0, tenant := 5, use := .regions 0 1, pa := host }
    let moving : Page := { frame := 0, new := 0x80, big := false, st := .handover }
    rankToStart (st l) 0 = some (l, 0) ∧ rankToStart (launchState []) 0 = none ∧ launchOf (st l) 1 = some l ∧
    startWait (st l) 0 l = none ∧ (startWait { st l with pages := [moving] } 0 l).isSome = true ∧
    isHost l.regions = false ∧ isHost l.slotsPa = false ∧ readHeld (st l) l.regions 128 = false ∧ readHeld { st l with pages := [moving] } l.regions 128 = true ∧
    l.slotsPa = 0 ∧ 0x8000 ≠ 0 ∧ isHost 0x8000 = false ∧ slotsHeld (st l) 0x8000 = false ∧ slotsHeld { st l with pages := [{ moving with frame := 0x20 }] } 0x8000 = true ∧
    l.started = true ∧ l.finished = false ∧ l.unstarted.length = l.place.length ∧
    isHost host = true ∧ findTable (st l) (.regions 0 1) = none ∧ findTable { st l with tables := [tab] } (.regions 0 1) = some tab ∧
    tableDone tab = false ∧ tableDone { tab with got := List.replicate 128 0 } = true ∧ findTable (st l) (.slots 1) = none ∧
    findTable { st l with tables := [{ tab with use := .slots 1 }] } (.slots 1) = some { tab with use := .slots 1 } ∧
    0 < twoRanks.parcels ∧ twoRanks.parcels ≤ 4 := by decide +kernel
/-- A core to pre-empt: it may stop, and it has drained; its area is enabled at 0x100000 with a window, and not enabled. -/
theorem witness_Preemption :
    let s := fun (qsave : Word) (p : Bool) => core0 [] fun c => { c with victimFor := some (1, 0), qsave := qsave, preempting := p, qpwin := [(0, 0xDE00000000000000)] }
    let x : Tx := { depth := 1, saved := {}, rd := 4, writeSet := [tileOf 0x100000], phase := .preparing [homeOf 0x100000] }
    (getCore (s 0x100001 false) 0).victimFor = some (1, 0) ∧ (getCore (s 0x100001 false) 0).launch = some 1 ∧ (getCore (s 0x100001 false) 0).retiring = false ∧
    mayStop (s 0x100001 false) 0 = true ∧ drained (s 0x100001 true) 0 = true ∧ areaHeld (s 0x100001 true) 0x100000 = false ∧ (getCore (modCore (s 0x100001 false) 0 fun c => { c with retiring := true }) 0).retiring = true ∧
    mayStop (modCore (s 0x100001 false) 0 fun c => { c with domset := some (0, 0, none, 5) }) 0 = false ∧
    saveAreaError (s 0x100001 true) 0 0x100000 (areaParts (liveCtxs (getCore (s 0x100001 true) 0)) 65536) = none ∧
    saveAreaError { s 0x100001 true with lostHomes := List.range 16 } 0 0x100000
      (areaParts (liveCtxs (getCore (s 0x100001 true) 0)) 65536) = some (0x100000, Reason.homelost) ∧
    drained (withReq (s 0x100001 true) (loadOf [{ pa := 64, va := 64, n := 8 }])) 0 = false ∧
    areaHeld (modCtx (s 0x100001 true) 1 0 fun _ => { ctxWith .u [] with st := .waiting .commit, tx := some x }) 0x100000 = true ∧
    rankYetToStart (s 0x100001 true) 0 2 = false ∧
    rankYetToStart { s 0x100001 true with launches := [{ twoRanks with id := 2, unstarted := [0] }] } 0 2 = true ∧ (getCore (s 0 true) 0).qsave.getLsbD 0 = false ∧
    (getCore ({ (s 0x100001 true) with turn := 0 }) 1).launch ≠ some 2 := by decide +kernel
/-- A saved rank to restore, with no grant parked, with one in time and with one out of time; its area reachable and not. -/
theorem witness_Restoring :
    let sr : SavedRank := { launch := 1, rank := 0, parcel := 0, base := 0x100000, spmBytes := 65536 }
    let s := { core0 [] (fun c => { c with launch := none, saved := some sr, qpwin := [(0, 0xDE00000000000000)] }) with occ := [(0, { occ := some (1, 0) })] }
    let g : ParkedGrant := { ctx := 16, line := 0x400, deadline := 9, poisoned := false, wait := waiterOf 0 }
    rankToRestore s 0 = some sr ∧ rankToRestore (launchState []) 0 = none ∧ (getCore s 0).launch = none ∧ (getCore s 0).victimFor = none ∧
    (getCore s 0).quarantined = false ∧ areaHeld s sr.base = false ∧ (getCore s 0).parkedGrants = [] ∧ g.ctx / 16 = sr.num ∧
    ownCycle s 0 < g.deadline ∧ ¬ ownCycle { s with cycle := 9 } 0 < g.deadline ∧
    saveAreaError s 0 0x100000 (areaParts (savedLive s 0x100000) (savedGrant s 0x100000)) = none ∧
    saveAreaError { s with lostHomes := [homeOf 0x100000] } 0 0x100000 (areaParts (savedLive s 0x100000) (savedGrant s 0x100000)) ≠ none := by decide +kernel
theorem witness_Resets : savedRanks (getCore (launchState []) 0) = [] ∧ fget [] podState.events 0 = [] ∧ fget [] ({ podState with events := [(0, [.submit 1])] }).events 0 ≠ [] ∧
    podState.parts.find? (fun e => e.1 == partKey 0 2) =
      some (partKey 0 2, { tenant := 5, quads := 1, windows := [0xDE00000000000000], l2mask := List.replicate 16 0, llcWays := 16, bwHbm := 1, bwDdr := 1 }) := by decide +kernel

/-! ### host, links, lifecycle -/

theorem witness_YieldAndPresence : (me (inMode .u [])).st = .live ∧ (launchState []).cycle = 0 := by decide +kernel
/-- Tenant 5 has a session in which 1 to 7 and 9 have been accepted, 9 with a kept reply. -/
def hostState : State :=
  let kept : HostReply := { asked := 9, seq := 4, reqId := 3, status := 0 }
  { podState with sessions := [(5, { known := true, highest := 9, seen := [9, 7, 6, 5, 4, 3, 2, 1], sent := 4, replies := [kept] })] }
/-- 8 is new; 9 and 0 are not; tenant 6 is unknown; 8 is too old once 2,000 has come; a package that has stopped, and one without
socket 20. -/
theorem witness_MessagesOnce :
    let x := sessionOf hostState 0 5
    let stop := { hostState with boots := [(0, { stopped := true })] }
    let mute := { hostState with boots := [(0, { withheld := 0x100000 })] }
    (bootOf hostState 0).stage = 6 ∧ (bootOf hostState 0).stopped = false ∧ (bootOf hostState 0).withheld.getLsbD 20 = false ∧
    (bootOf stop 0).stopped = true ∧ (bootOf mute 0).withheld.getLsbD 20 = true ∧ accept stop 0 5 8 = none ∧ accept mute 0 5 8 = none ∧
    x.known = true ∧ 0 < 8 ∧ 8 ∉ x.seen ∧ x.highest ≤ 8 + 1024 ∧ 9 ∈ x.seen ∧ (sessionOf hostState 0 6).known = false ∧ ¬ (2000 ≤ 8 + 1024) ∧
    x.replies[0]? = some { asked := 9, seq := 4, reqId := 3, status := 0 } ∧ max x.highest 8 ≤ 7 + 1024 ∧ 7 ∈ x.seen ∧
    (accept hostState 0 5 8).isSome = true ∧ accept hostState 0 5 9 = none ∧ accept hostState 0 5 0 = none ∧ accept hostState 0 6 8 = none := by decide +kernel
/-- 8 bytes at 0x10040 and outside every window; 0 and 8,193 bytes; a scratchpad window; requests that come in order, that do not,
and that must wait. -/
theorem witness_HostMemory :
    let a := (accept hostState 0 5 8).getD hostState
    let q : HostReq := { seq := 8, reqId := 1, pa := 0x10040, len := 8 }
    let u := modSession a 0 5 fun x => { x with pend := [] }
    let moving := { u with pages := [{ frame := 0x40, new := 0x80, big := false, st := .handover }] }
    (accept hostState 0 5 8).isSome = true ∧ (0 < 8 ∧ 8 ≤ 8192) ∧ 8192 < 8193 ∧ 0x10040 % 64 + 8 ≤ 64 ∧
    endpointError a 0 5 0x10040 8 false false = none ∧ endpointError a 0 5 0x10040 8 true false = none ∧ endpointError a 0 5 (2 ^ 31) 8 true false = some 1 ∧
    isMain 0x10040 = true ∧ pageAt a 0x10040 = none ∧ heldForCommit a 0x10040 8 = false ∧ (dirOf a (lineOf 0x10040)).st ≠ .p ∧
    (sessionOf a 0 5).pend = [] ∧ (sessionOf a 0 5).seen.Nodup ∧ (∀ n < 8, 0 < n → n ∈ (sessionOf a 0 5).seen) ∧
    (sessionOf (modSession a 0 5 fun x => { x with pend := [q] }) 0 5).pend = [q] ∧ inOrder (sessionOf a 0 5) 8 = true ∧
    inOrder { sessionOf a 0 5 with seen := [8] } 8 = false ∧
    (endpointRead u 0 5 2 0x10040 8).1 = .ok ∧ (endpointRead u 0 5 2 (2 ^ 31) 8).1 = .error (2 ^ 31) 1 ∧ (endpointRead moving 0 5 2 0x10040 8).1 = .wait ∧
    (endpointWrite u 0 5 2 0x10040 (leBytes 8 7)).1 = .ok ∧ (endpointWrite u 0 5 2 (2 ^ 31) (leBytes 8 7)).1 = .error (2 ^ 31) 1 ∧
    (endpointWrite moving 0 5 2 0x10040 (leBytes 8 7)).1 = .wait ∧ ([q] : List HostReq).Pairwise (fun a b => a.seq ≤ b.seq) ∧
    paSpace 0x200000000040 = 2 ∧ paPkg 0x200000000040 = 0 ∧ hostState.pkgs.contains 0 = true ∧ paOff 0x200000000040 < 2 ^ 30 ∧
    spmWithheld hostState 0x200000000040 = false ∧
    windowCheck (tenantWindows { hostState with parts := [(2, { tenant := 5, quads := 1, windows := [0xDE00200000000000], l2mask := [], llcWays := 16, bwHbm := 1, bwDdr := 1 })] } 0 5)
      0x200000000040 8 false = none := by decide +kernel
/-- A core of the tenant's quad, one that is not; a core with a saved rank; a ring of 64 entries. -/
theorem witness_DoorbellsAndEvents :
    let r := { hostState with rings := [(5, { log2n := 6, window := 0, offset := 0, written := 3 })] }
    let sr : SavedRank := { launch := 1, rank := 0, parcel := 0, base := 0x100000, spmBytes := 65536 }
    (accept hostState 0 5 8).isSome = true ∧ (hostState.parts.any fun e => e.1 / 128 == 0 && e.2.tenant == 5 && e.2.quads.getLsbD (31 / 32)) = true ∧
    (hostState.parts.any fun e => e.1 / 128 == 0 && e.2.tenant == 5 && e.2.quads.getLsbD (32 / 32)) = false ∧
    (getCore hostState 31).saved = none ∧ (getCore (modCore hostState 31 fun c => { c with saved := some sr }) 31).saved = some sr ∧
    fhas hostState.rings (ringKey 0 5) = false ∧ fhas r.rings (ringKey 0 5) = true ∧
    3 - 2 ^ 6 ≤ 2 ∧ 2 ≤ 3 := by decide +kernel
/-- The management session of a package; a die and a channel withheld. Whether a signature is good is the part's
(`Config.operatorVerify`). -/
theorem witness_Management :
    let s : State := { sessions := [(0, { known := true })] }
    let d := { s with boots := [(0, { withheld := 0x1010, channels := 1 })] }
    let stop := { s with boots := [(0, { stopped := true })] }
    (accept s 0 0 1).isSome = true ∧ (bootOf s 0).withheld = 0 ∧ (bootOf s 0).channels = 0 ∧ (bootOf d 0).withheld.getLsbD 4 = true ∧
    (bootOf d 0).withheld.getLsbD 12 = true ∧ (bootOf d 0).channels.getLsbD 0 = true ∧ (accept d 0 0 1).isSome = true ∧
    (bootOf s 0).stage = 6 ∧ (bootOf s 0).stopped = false ∧ (bootOf s 0).withheld.getLsbD 20 = false ∧ (bootOf stop 0).stopped = true ∧
    ¬ (0 < 0) ∧ fhas d.rings (ringKey 0 5) = false ∧ (0 < 1 ∧ 1 ∉ (sessionOf s 0 0).seen ∧ (sessionOf s 0 0).highest ≤ 1 + 1024) := by decide +kernel
/-- A ticket and a load on host window 0 (PA 0x8000_0000_0000), with the window, without, beyond it and without permission; the
message and its reply; a table that it reads; a write that follows it. -/
theorem witness_HostWindows :
    let p : Part := { pa := 0x800000000040, va := 0x800000000040, n := 8 }
    let r := { loadOf [p] with kind := .ticketGet, mode := .m }
    let s := withReq (inMode .m []) r
    let x : HostWin := { pkg := 0, tenant := 0, window := 0, wr := true, base := 0, size := 4096 }
    let w := { s with hwins := [x] }
    let l := { loadOf [p] with mode := .m }
    let m : HostMsg := { id := 7, pkg := 0, tenant := 0, type := 0x12, window := 0, offset := 64, len := 8, seq := 1, req := some (1, 0) }
    let h := { w with hostq := [m], sessions := [(0, { known := true, highest := 9, seen := [9] })] }
    let bytes := List.replicate 8 (0 : Byte)
    p.sent = false ∧ m.len = 8 ∧ ({ m with type := 0x11 } : HostMsg).type = 0x11 ∧ p.answer = none ∧ p.own = false ∧
    findReq (withReq w l) 1 = some l ∧ orderAllows (withReq w l) l p = true ∧ accessError (withReq w l) 0 .m p.pa 8 false false = none ∧
    accessError (withReq s l) 0 .m p.pa 8 false false = some 4 ∧ l.kind = .load ∧
    findReq s 1 = some r ∧ orderAllows s r p = true ∧ isHost p.pa = true ∧ hostAtomic r.kind p = some (0, p.pa, 8, 2 ^ 32) ∧ proxyBehind s r p = false ∧
    paPkg p.pa = pkgOf 0 ∧ s.pkgs.contains (pkgOf 0) = true ∧ hostWindow s 0 0 0 = none ∧ hostWindow w 0 0 0 = some x ∧
    x.size < paOff 0x800000001000 % 2 ^ 38 + 8 ∧ paOff p.pa % 2 ^ 38 + 8 ≤ x.size ∧ ({ x with wr := false }).wr = false ∧
    accessError s 0 .m p.pa 8 true false = some 4 ∧ accessError w 0 .m p.pa 8 true false = none ∧ findHost h 7 = some m ∧ findHost s 7 = none ∧
    accept h 0 0 9 = none ∧ (accept h 0 0 10).isSome = true ∧ replyWhole m 0 [] = false ∧ replyWhole m 0 bytes = true ∧ replyWhole m 4 [] = true ∧
    p.done = false ∧ ({ m with req := none, table := some 5 } : HostMsg).table = some 5 ∧ m.cmd = none ∧ m.watch = none ∧ m.follow = [] ∧
    ({ m with req := none, follow := [(128, bytes)] } : HostMsg).follow = [(128, bytes)] ∧ m.table = none ∧
    ({ h with tables := [{ id := 5, pkg := 0, tenant := 0, use := .slots 1, pa := p.pa }] } : State).tables.map (·.id) = [5] ∧
    proxyBehind { s with reqs := [r, { r with id := 2, order := 2 }] } { r with id := 2, order := 2 } p = true := by decide +kernel
/-- One cell in order, one out of order; a sender with credit; a link that is down; a module's two ends. -/
theorem witness_LinkCodewords :
    let f : Link := { txSeq := 3 }
    let n : Link := { f with unacked := [(1, 0, 1), (2, 0, 1)], pos := 1 }
    let dead := { inMode .u [] with links := [(30, { up := false })] }
    linkUp (inMode .u []) 0 0 = true ∧ linkUp { inMode .u [] with links := [(0, { up := false })] } 0 0 = false ∧
    endUp (inMode .u []) 0 30 = true ∧ endUp dead 0 30 = false ∧ wordEnd 0 0 = farEnd 0 0 ∧ wordEnd 0 30 = some (512, 30) ∧ wordEnd 512 30 = some (0, 30) ∧
    wordEnd 0 47 = none ∧ (8 < (List.replicate 9 ((3, 1, 0) : Nat × Nat × Nat)).length) ∧
    wordFits f [(3, 1, 0)] [] false 0 = true ∧ wordFits { f with credits := [128, 0, 128, 128] } [(3, 1, 0)] [] false 0 = false ∧
    wordFits n [(2, 0, 1), (3, 1, 1)] [] false 0 = true ∧ wordFits n [(3, 1, 1)] [] false 0 = false ∧ wordFits f [] [] true 0 = false ∧
    f.credits.length = 4 ∧ f.bufs.length = 4 ∧ f.rxNext < 1024 ∧ farEnd 0 0 = some (1, linkTo 1 0 0) ∧ farEnd 0 21 = some (256, 21) ∧ farEnd 0 24 = none ∧
    (receiveWord 7 0 0 true [] [] true 5 { f with naks := 15, nakSeq := 5 }).naks = 16 ∧
    ¬ 16 ≤ (receiveWord 7 0 0 true [] [] false 5 f).naks ∧ (receiveWord 7 0 0 false [] [] false 5 f).lastGood + 10 * Config.cyclesPerUs ≤ 10 * Config.cyclesPerUs ∧
    (3 = (f.txSeq + 0) % 1024) ∧ (1 = (({} : Link).rxNext + 0) % 1024) ∧ (5 ≠ (({} : Link).rxNext + 0) % 1024) := by decide +kernel
/-- A request to package 1 that was sent 2 ms ago, and one that was not; a lock request, a release and a watch; a context that waits
for one. -/
theorem witness_LinkLoss :
    let r := { loadOf [{ pa := 0x1000000010040, va := 0x10040, n := 8, far := true, since := some 0 }] with mode := .m }
    let w : LockWait := { line := 0x40000000401, rd := 0, deadline := 0, born := 0, named := 0x1000000010040, order := 2 }
    let a := oneCore { ctxs := [(0, { ctxWith .u [] with lockWait := some w, st := .waiting (.lock 0x40000000401) })] }
    let m := { withMsg (inMode .u []) 0 0 (.lockReq 0x40000000401 0 false 0) with pkgs := [0, 1], cycle := 2000 * Config.cyclesPerUs }
    let v : Watch := { loc := 0x1000000010040, named := 0x1000000010040, va := 0x10040 }
    let wt := fun (v : Watch) => { oneCore { ctxs := [(0, { ctxWith .u [] with st := .waiting (.word v 7 0 5) })] } with
      pkgs := [0, 1], cycle := 2000 * Config.cyclesPerUs }
    unanswered m 0 1 = true ∧ paPkg w.named = 1 ∧ (getCtx a 0 0).lockWait = some w ∧ (getCtx a 0 0).lockTries = [] ∧ (getCtx a 0 0).keptWait = none ∧
    unanswered (wt { v with since := some 0 }) 0 1 = true ∧ unanswered (wt { v with since := some 0, taken := true }) 0 1 = false ∧
    (getCtx (wt v) 0 0).st = .waiting (.word v 7 0 5) ∧ (getCtx (wt v) 0 0).lockWait = none ∧ v.loc < 2 ^ 56 ∧ paPkg v.loc = 1 ∧ farFrom 0 v.named = true ∧
    watchReady (wt v) 0 0 v = true ∧ watchUnsent (wt v) 0 v = false ∧ releaseTo 0 1 { id := 3, core := 0, ctx := 0, kind := .lockRel 0x40000000401 false } = true ∧
    (let q := { r with parts := r.parts.map fun p => { p with since := none } }
     ∀ p ∈ q.parts, partRemote (withReq (inMode .u []) q) 0 p = true ∧ orderAllows (withReq (inMode .u []) q) q p = true ∧
       redirectHolds (withReq (inMode .u []) q) q 0 p = false ∧ remoteSent (withReq (inMode .u []) q) 0 p.pa = true) ∧
    let s := { withReq (inMode .u []) r with pkgs := [0, 1], cycle := 2000 * Config.cyclesPerUs }
    unanswered s 0 1 = true ∧ unanswered { s with cycle := 7 } 0 1 = false ∧ 1 ∉ s.lostPkgs ∧ waitsOnPkg s 1 r = true ∧
    linkUp s 0 3 = true ∧ (getCtx s 0 0).st ≠ .free ∧ (getCtx s 0 0).st ≠ .reserved ∧ (getCtx s 0 0).tx = none ∧ r.orphan = false ∧ r.dst = .x 5 8 false := by decide +kernel
theorem witness_HomeAndDieLoss :
    ({ inMode .u [] with lostHomes := [3] } : State).lostHomes.contains (0 * 16 + 3) = true ∧ (inMode .u []).lostHomes.contains (0 * 16 + 3) = false ∧
    (∀ l ∈ [({ line := 0x18, held := true } : Lock)], paPkg (l.line * 64) = 0 ∧ homeOf (l.line * 64) = 3) ∧
    (0 < 4 ∧ 4 ≤ 11 ∧ 11 < 12 ∧ 12 ≤ 20 ∧ 20 ≤ 22 ∧ 20 ≠ 21 ∧ 22 < 23) ∧
    paPkg 0x600 * 16 + homeOf 0x600 ∈ ({ inMode .u [] with lostHomes := [3] } : State).lostHomes := by decide +kernel
/-- A machine in which no core holds a saved rank. -/
theorem witness_NoSavedRanks : ∀ k, savedRanks (getCore State.reset k) = [] := fun _ => rfl
/-- Failed dies: a compute die that DEGRADE bit 3 allows, and one that nothing allows; a socket without a die, and channel 0, with
and without bit 1. -/
theorem witness_BringUp :
    (∀ i ∈ List.range 23, (1#23).getLsbD i = true → i < 4 ∧ (8#4).getLsbD 3 = true) ∧ (1#23).getLsbD 0 = true ∧ (0#4).getLsbD 3 = false ∧
    (1#12) ≠ 0 ∧ (0xA#4).getLsbD 1 = true ∧ (0xA#4).getLsbD 3 = true ∧ (8#4).getLsbD 1 = false := by decide +kernel
/-- An island at the floor for 1 ms; islands that were lowered, the last of which is hot; idle cores; a gather engine at work; a
notice that some homes have acknowledged, and one that all have. -/
theorem witness_Power :
    let s : State := { islands := [(0, { mhz := 950, floorSince := some 0 })], boots := [(0, { lowered := [1, 0] })], cycle := 1000 * Config.cyclesPerUs,
                       cores := (List.range 128).map fun k => (k, {}) }
    let n := setIsland s 0 0 { notice := true, acked := [0, 1] }
    let g := launchState []
    (islandAt s 0 0).throttled = false ∧ (islandAt s 0 0).floorSince = some 0 ∧ 0 + 1000 * Config.cyclesPerUs ≤ s.cycle ∧ (bootOf s 0).lowered = [1] ++ 0 :: [] ∧
    (∀ j ∈ [1], j ∈ [1, 5]) ∧ 0 ∉ [1, 5] ∧ (∀ j ∈ (bootOf s 0).lowered, j ∈ [0, 1]) ∧ 2600 ≤ 2650 ∧ 2650 ≤ 2700 ∧
    (List.range 32).filter (fun i => decide (105 ≤ ([] : List Nat).getD i 0)) = [] ∧
    (∀ j ∈ List.range 128, coreIdle (getCore s (0 * 4096 + 0 * 128 + j)) = true) ∧ ¬ (∀ j ∈ List.range 128, coreIdle (getCore g j) = true) ∧
    unitsIdle s 0 0 = true ∧ (islandAt s 0 0).gated = false ∧ (islandAt s 0 0).notice = false ∧ (islandAt (setIsland s 0 0 { gated := true }) 0 0).gated = true ∧
    (islandAt n 0 0).notice = true ∧ 0 * 16 + 2 ∉ n.lostHomes ∧ 2 ∉ (islandAt n 0 0).acked ∧ (∀ h < 2, h ∈ (islandAt n 0 0).acked) ∧
    (∀ h < 16, h ∈ (islandAt (setIsland s 0 0 { notice := true, acked := List.range 16 }) 0 0).acked) ∧
    clusterOf 0 = 0 * 16 + 0 ∧ (∃ e ∈ s.parts ++ podState.parts, e.1 / 128 = 0 ∧ e.2.quads.getLsbD 0 = true) ∧
    fhas podState.rings (ringKey 0 5) = false := by decide +kernel

/-! ### translation, fetch, step, invariants -/

/-- A page with R, W, U, A and D set, one without V, and no region. -/
theorem witness_Translation :
    let s := walkState (0x3008, 0xD7)
    let ro := modCore s 0 fun c => { c with qpwin := [(0, 0x9E00000000000000)] }
    let x : Tx := { depth := 1, saved := {}, rd := 4, writeSet := [tileOf 0x3008], phase := .preparing [homeOf 0x3008] }
    let cm := modCtx s 1 0 fun _ => { ctxWith .u [] with st := .waiting .commit, tx := some x }
    (translate s 0x10405 .load).1 = .phys 0x20005 ∧ (translate s 0x10405 .store).1 = .phys 0x20005 ∧ (translate s 0x10405 .fetch).1 = .fault 12 ∧
    (translate (walkState (0x3008, 0xD6)) 0x10405 .load).1 = .fault 13 ∧ (translate s 0x20005 .load).1 = .spm 5 ∧ (translate s 0x40005 .load).1 = .fault 5 ∧
    (translate (inMode .m []) 0x40005 .load).1 = .phys 0x40005 ∧ (translate (inMode .m []) (2 ^ 56) .load).1 = .fault 5 ∧
    (walkRead s 0 0 0x200000000000).1 = .error ∧ accessError s 0 .u 0x2000 8 false false = none ∧ accessError s 0 .u 0x3008 8 true false = none ∧
    heldForCommit s 0x3008 8 = false ∧ pageAt s 0x3008 = none ∧ (dirOf s (lineOf 0x3008)).st ≠ .p ∧ (walkRead walkWaits 0 0 0x2000).1 = .wait ∧
    ((walk s 0 0 (regionOf (getCore s 0).qrgn 0) 0x405).1 = .leaf 0x3008 0x200D7) ∧ (walk walkWaits 0 0 (regionOf (getCore s 0).qrgn 0) 0x405).1 = .wait ∧
    (walkWrite ro 0 0 0x3008 0xD7).1 = .error ∧ (walkWrite cm 0 0 0x3008 0xD7).1 = .wait ∧ (walkRead cm 0 0 0x3008).1 = .wait ∧
    (walk ro 0 0 { regionOf (getCore s 0).qrgn 0 with root := 0x200000000 } 0x405).1 = .accessFault ∧
    (walk { s with mem := [] } 0 0 (regionOf (getCore s 0).qrgn 0) 0x405).1 = .pageFault ∧
    ((tlbFind (getCore (translate s 0x10405 .load).2 0).dtlb 0 0 (regionOf (getCore s 0).qrgn 0) 1).map (·.pte)) = some 0x200D7 ∧
    (let l2 := modCore (translate s 0x10405 .load).2 0 fun c => { c with dtlb := [] }
     tlbFind (getCore l2 0).dtlb 0 0 (regionOf (getCore s 0).qrgn 0) 1 = none ∧
     (tlbFind (fget [] l2.l2tlb (clusterOf 0)) 0 0 (regionOf (getCore s 0).qrgn 0) 1).map (·.pte) = some 0x200D7) ∧
    leafPermits 0x200D7 .load .u false false = true ∧ leafPermits 0x200D7 .fetch .u false false = false ∧
    (let at_ := fun (st : PageSt) => { s with pages := [{ frame := 12, new := 0x80, big := false, st := st }] }
     pageAt (at_ .tail) 0x3008 = some { frame := 12, new := 0x80, big := false, st := .tail } ∧ pageAt (at_ .tail) 0x20008 = none ∧ 0x20008 ≠ 0x3008 ∧
     (at_ .stale).pages.map (·.st) = [.stale] ∧ (at_ .handover).pages.map (·.st) = [.handover] ∧ heldForCommit (at_ .tail) 0x20008 8 = false ∧
     forwardError (at_ .tail) 0 .u 0x3008 0x20008 8 false false = none ∧
     forwardError { at_ .tail with lostHomes := [homeOf 0x20008] } 0 .u 0x3008 0x20008 8 false false = some Reason.homelost) ∧
    (translateWith { s with cores := s.cores.map fun e => (e.1, { e.2 with saved := some { launch := 1, rank := 0, parcel := 0, base := 0, spmBytes := 65536 } }) }
      0 16 .u [(0, 0x100000001), (1, 0x8000000000000000)] 0x10040 .load).1 = .spm 0x40 := by decide +kernel
/-- A window of 1 GiB: inside, outside, read-only, of another package, a wrong form. -/
theorem witness_AddressErrors :
    let s := walkState (0x3008, 0xD7)
    let two := { s with pkgs := [0, 1] }
    let wide := modCore two 0 fun c => { c with qpwin := [(0, 0xDE01000000000000), (1, 0xDE00200000000000), (2, 0xDE00800000000000)], launch := some 1, spmBytes := 65536 }
    let ro := oneCore { ctxs := [(0, ctxWith .u [])], qpwin := [(0, 0x9E00000000000000)] }
    let out := fun (b : BitVec 23) => { wide with boots := [(0, { withheld := b, channels := 1 })] }
    accessError s 0 .u 0x10040 8 true false = none ∧ accessError s 0 .u (2 ^ 30 - 4) 8 false false = some 1 ∧ accessError ro 0 .u 0x10040 8 true false = some 2 ∧
    accessError s 0 .u 0x1000000010040 8 false false = some 4 ∧ accessError s 0 .u 0x300000000000 8 false false = some 3 ∧
    unreachable two 0 1 = false ∧ unreachable { two with lostPkgs := [1] } 0 1 = true ∧ windowHolds 0xDE01000000000000 0x1000000010040 8 = true ∧
    windowCheck (tenantWindows wide 1 0) 0x1000000010040 8 false ≠ none ∧ accessError wide 0 .u 0x1000000010040 8 false false = some 13 ∧
    0x200000000040 % 2 ^ 44 < 2 ^ 30 ∧ 2 ^ 30 ≤ 0x200040000000 % 2 ^ 44 ∧ spmWithheld wide 0x200000000040 = false ∧ spmWithheld (out 1) 0x200000000040 = true ∧
    accessError wide 0 .u 0x200000000040 8 false false = none ∧ accessError wide 0 .u 0x200000040040 8 false false = some 6 ∧
    accessError wide 0 .u 0x800000000040 8 false false = some 4 ∧ 0xF00000000000 / 2 ^ 44 % 16 = 15 ∧
    (bootOf (out 0x1000) 0).withheld.getLsbD (12 + 0x10040 / 0xC00000000) = true ∧ 0x10040 + 8 ≤ 0x6000000000 ∧
    (bootOf (out 0x100000) 0).withheld.getLsbD 20 = true ∧ (bootOf (out 0) 0).channels.getLsbD 0 = true ∧
    windowHolds 0xDE00000000000000 (2 ^ 30 - 8) 8 = true ∧ windowHolds 0xDE00000000000000 (2 ^ 30 - 4) 8 = false := by decide +kernel
/-- A place inside a DDR-5 module, whatever its size. -/
theorem witness_DdrModule : 0x100000000000 % 2 ^ 44 % 0x4000000000 + 0 ≤ Config.ddrModuleBytes 0 := Nat.zero_le _

/-- What a fetch reads. -/
def fetched (s : State) : Option IWord :=
  match (fetch s).1 with
  | .word w => some w
  | _ => none
/-- From memory, from a cached line, past a window; the next context after the last. -/
theorem witness_FetchAndIssue :
    let s := { inMode .m [] with mem := [(0x1000, 0x33)] }
    let c := modCore s 0 fun c => { c with icache := [(0x40, 0x13 :: List.replicate 63 0)] }
    let w := { s with pages := [{ frame := 4, new := 0x80, big := false, st := .handover }] }
    let x : Tx := { depth := 1, saved := {}, rd := 4, writeSet := [tileOf 0x1000], phase := .preparing [homeOf 0x1000] }
    let h := modCtx s 1 0 fun _ => { ctxWith .u [] with st := .waiting .commit, tx := some x }
    (translate s 0x1000 .fetch).1 = .phys 0x1000 ∧ accessError s s.turn (me s).mode 0x1000 4 false false = none ∧
    ctxReady s 0 0 = true ∧ ctxReady (modCore s 0 fun c => { c with halted := true }) 0 0 = false ∧ ctxReady w 0 0 = false ∧
    ctxReady (modCtx s 0 0 fun c => { c with st := .parked [.walk 0x1000 0] }) 0 0 = true ∧
    pageAt w 0x1000 = some { frame := 4, new := 0x80, big := false, st := .handover } ∧ heldForCommit h 0x1000 64 = true ∧
    accessError { s with lostHomes := List.range 16 } 0 .m 0x1000 4 false false = some Reason.homelost ∧
    (translate walkWaits 0x10405 .fetch).1 = .wait ∧
    fetched s = some 0x33 ∧ fetched c = some 0x13 ∧ fetched (inMode .u []) = none ∧ nextCtx s 0 = some 0 ∧
    nextCtx (oneCore { ctxs := [(0, ctxWith .m []), (3, ctxWith .u [])], last := 0 }) 0 = some 3 ∧ nextCtx (oneCore {}) 0 = none := by decide +kernel
/-- An add placed at the reset PC is fetched, and a step runs it. -/
theorem witness_StepRunsDecoded :
    let s := State.reset.withFetchWord 32 0x00580833
    s.agenda = [] ∧ allStopped s = false ∧ (bootOf s (pkgOf s.turn)).stopped = false ∧ boundaryEvent s s.turn = none ∧ coreWorks s s.turn = true ∧ s.cycle % 2 = 0 ∧
    nextCtx s s.turn = some 0 ∧ fetched (toIssue s 0) = some 0x00580833 ∧
    (fetch (toIssue { s with pages := [{ frame := 0, new := 0x80, big := false, st := .handover }] } 0)).1 = .wait ∧
    (decode 0x00000000#32).toOption = none ∧ (fetch (toIssue { s with lostHomes := List.range 16 } 0)).1 = .fault 1 := by decide +kernel
/-- addi x5, x0, 7 as the first instruction after reset (03 R54). -/
theorem test_first_instruction : nextHas (step (State.reset.withFetchWord 32 0x00700293)) (fun t =>
    xr t 5 == 7 && (regs t).pc == 4 && t.cycle == 1) = true := by decide +kernel
/-- sd x0, 0(x0) as the first instruction runs (03 R54, 00 R7). -/
theorem test_first_store : nextHas (step (State.reset.withFetchWord 32 0x00003023)) (fun t => (regs t).pc == 4) = true := by decide +kernel
theorem witness_DecodeIsWellFormed : (decode 0x00580833).toOption = some (.add 16 16 5) ∧ (0x00580830#32).toNat % 4 ≠ 3 ∧
    (decode 0x00580830).toOption = none := by decide +kernel
theorem witness_DecodeEncode : (encode (.add 5 6 7)).isSome = true ∧ Instr.wf (.add 5 6 7) = true := by decide +kernel
theorem witness_StepKeeps : (inMode .m []).memWf ∧ ({ inMode .m [] with mem := [(0x1000, 7)] } : State).memWf ∧
    (∀ r ∈ (inMode .m []).reqs, r.id < (inMode .m []).nextId) ∧ nextHas (step (State.reset.withFetchWord 32 0x00700293)) (fun _ => true) = true := by unfold State.memWf; decide +kernel
/-- SrBits (09 R219): the draw of seed 0, core 0, context 0, count 0, lane 0 is 0. -/
theorem test_srbits_zero : srBits 0 0 0 0 0 = 0 := by decide +kernel

end
end

section
/-! PROOFS. The opcode grid (03 R50): which table reads a word, and which words no table reads. -/
namespace Sys2Proof.Laws

/-! ### only the grid rejects a word by its opcode -/

/-- The word was rejected by its opcode, and not for a field of its table. -/
def rejectsOpcode : Except Reject Instr → Bool
  | .error r => decide (r = .opcode)
  | .ok _ => false

theorem rejectsOpcode_ok (i : Instr) : rejectsOpcode (.ok i) = false := rfl

theorem rejectsOpcode_error (r : Reject) : rejectsOpcode (.error r) = decide (r = .opcode) := rfl

theorem rejectsOpcode_ite (c : Prop) [Decidable c] (a b : Except Reject Instr) :
    rejectsOpcode (if c then a else b) = if c then rejectsOpcode a else rejectsOpcode b :=
  apply_ite rejectsOpcode c a b

theorem rejectsOpcode_check (b : Bool) (r : Reject) (a : Except Reject Instr) :
    rejectsOpcode (check b r a) = if b then rejectsOpcode a else decide (r = .opcode) :=
  rejectsOpcode_ite _ a (.error r)

/-! ### the grid as a list of tables -/

/-- The grid of 03 R50: bits [6:2] of an opcode and the table that reads its words; the entries left out are illegal. -/
def gridTables : List (Nat × (IWord → Except Reject Instr)) := [
  (0, decodeLoad), (1, decodeLoadFp), (2, decodeCtx), (3, decodeMiscMem), (4, decodeOpImm), (5, decodeAuipc), (6, decodeOpImm32),
  (8, decodeStore), (9, decodeStoreFp), (10, decodeMem), (12, decodeOp), (13, decodeLui), (14, decodeOp32),
  (16, decodeMadd), (17, decodeMsub), (18, decodeNmsub), (19, decodeNmadd), (20, decodeOpFp), (22, decodeVec),
  (24, decodeBranch), (25, decodeJalr), (27, decodeJal), (28, decodeSystem), (30, decodeMtx)]

/-- The entries that 03 R50 marks illegal. -/
def illegalEntries : List Nat := [7, 11, 15, 21, 23, 26, 29, 31]

/-- The illegal entries are the ones without a table. -/
theorem mem_illegalEntries_iff : ∀ n < 32, n ∈ illegalEntries ↔ n ∉ gridTables.map Prod.fst := by
  decide

theorem gridTables_entry_lt : ∀ e ∈ gridTables, e.1 < 32 := by
  simp [gridTables]

/-- A table rejects a word for a field of its rows, never for its opcode (03 R51): every branch of it answers an instruction or
names such a field. -/
theorem gridTables_rejectsOpcode (w : IWord) : ∀ e ∈ gridTables, rejectsOpcode (e.2 w) = false := by
  simp only [gridTables, List.forall_mem_cons, List.not_mem_nil, decodeLoad, decodeLoadFp, decodeCtx, decodeMiscMem,
    decodeOpImm, decodeAuipc, decodeOpImm32, decodeStore, decodeStoreFp, decodeMem, decodeAtomic, decodeOp, decodeLui, decodeOp32,
    decodeMadd, decodeMsub, decodeNmsub, decodeNmadd, decodeOpFp, decodeVec, decodeBranch, decodeJalr, decodeJal, decodeSystem,
    decodeMtx, rejectsOpcode_ite, rejectsOpcode_check, rejectsOpcode_ok, rejectsOpcode_error, reduceCtorEq, decide_false, ite_self,
    and_self, false_implies, implies_true]

/-! ### the major opcode of a word -/

/-- A word has the opcode of entry `n` exactly where its bits [1:0] are 0b11 and its bits [6:2] are `n`. -/
theorem fld_opcode_eq_iff (w : IWord) {n : Nat} (hn : n < 32) :
    fld w 0 7 = BitVec.ofNat 7 (4 * n + 3) ↔ w.toNat % 4 = 3 ∧ w.toNat / 4 % 32 = n := by
  rw [← BitVec.toNat_inj, fld_toNat, BitVec.toNat_ofNat]
  omega

theorem decode_of_opcode (w : IWord) :
    ∀ e ∈ gridTables, fld w 0 7 = BitVec.ofNat 7 (4 * e.1 + 3) → decode w = e.2 w := by
  simp only [gridTables, List.forall_mem_cons, List.not_mem_nil, false_implies, implies_true, and_true]
  and_intros <;> intro h <;> simp [decode, h]

theorem decode_of_no_opcode {w : IWord} (h : ∀ e ∈ gridTables, fld w 0 7 ≠ BitVec.ofNat 7 (4 * e.1 + 3)) :
    decode w = .error .opcode := by
  simp only [gridTables, List.forall_mem_cons] at h
  simp [decode, h]

/-! ### the grid decides -/

/-- 03 R50: the table of the entry reads the word. -/
theorem decode_of_entry {w : IWord} {e : Nat × (IWord → Except Reject Instr)} (he : e ∈ gridTables)
    (hlow : w.toNat % 4 = 3) (hentry : w.toNat / 4 % 32 = e.1) : decode w = e.2 w :=
  decode_of_opcode w e he ((fld_opcode_eq_iff w (gridTables_entry_lt e he)).mpr ⟨hlow, hentry⟩)

/-- A word is rejected by its opcode exactly where bits [1:0] are not 0b11 or the entry is an illegal one (03 R50). -/
theorem decode_eq_error_opcode_iff (w : IWord) :
    decode w = .error .opcode ↔ w.toNat % 4 ≠ 3 ∨ w.toNat / 4 % 32 ∈ illegalEntries := by
  rw [mem_illegalEntries_iff _ (Nat.mod_lt _ (by decide))]
  constructor
  · intro hdec
    by_cases hlow : w.toNat % 4 = 3
    · refine .inr fun hentry => ?_
      obtain ⟨e, he, hfst⟩ := List.mem_map.mp hentry
      have hread : rejectsOpcode (decode w) = false := by
        rw [decode_of_entry he hlow hfst.symm, gridTables_rejectsOpcode w e he]
      rw [hdec] at hread
      exact absurd hread (by decide)
    · exact .inl hlow
  · intro hillegal
    refine decode_of_no_opcode fun e he hop => ?_
    obtain ⟨hlow, hentry⟩ := (fld_opcode_eq_iff w (gridTables_entry_lt e he)).mp hop
    exact hillegal.elim (· hlow) (· (List.mem_map.mpr ⟨e, he, hentry.symm⟩))

/-- A rejected word runs as ILLEGAL_INSTRUCTION (00 R8). -/
theorem decodeOrIllegal_of_error {w : IWord} {r : Reject} (h : decode w = .error r) :
    decodeOrIllegal w = .illegalInstruction w := by
  simp [decodeOrIllegal, h]

/-- Settles O12: a word without a table's opcode is rejected by its opcode, and every other word by no opcode, since its
table reads it. -/
theorem opcodeGrid : Obligations.OpcodeGrid := by
  unfold Obligations.OpcodeGrid
  intro w
  have hiff := decode_eq_error_opcode_iff w
  exact ⟨hiff, fun hillegal => decodeOrIllegal_of_error (hiff.mpr hillegal), fun e he => decode_of_entry he⟩

end Sys2Proof.Laws
end

section
/-! PROOFS. ptest (04 R88): what it writes, and that the mark of its destination is all it waits for. -/
namespace Sys2Proof.Laws
open Machine

/-- A pending and a present mark, put together as ptest puts them: bit 1 and bit 0. -/
theorem ofNat_pending_present (pend pres : Bool) :
    BitVec.ofNat 64 (pend.toNat * 2 + pres.toNat) = (if pend then 2 else 0 : Word) + (if pres then 1 else 0) := by
  cases pend <;> cases pres <;> rfl

theorem testBits_x (g : Regs) (reg : BitVec 5) :
    testBits g 0 reg = if reg = 0 then 1 else
      (if g.xpend.getLsbD reg.toNat then 2 else 0) + (if g.xpres.getLsbD reg.toNat then 1 else 0) := by
  rw [← ofNat_pending_present]
  rfl

theorem testBits_v (g : Regs) (reg : BitVec 5) :
    testBits g 1 reg =
      (if g.vpend.getLsbD reg.toNat then 2 else 0) + (if g.vpres.getLsbD reg.toNat then 1 else 0) := by
  rw [← ofNat_pending_present]
  rfl

/-- The named register is no operand that issue looks at: a destination without a pending mark is enough, whatever the
marks of that register are. -/
theorem execPtest_of_settled (s : State) (rd kind reg : BitVec 5) (hd : Settled s rd) :
    execPtest rd kind reg s = .next (retireX s rd (testBits (regs s) kind reg)) := by
  have hmet : unmet s ({ xw := [rd] } : Needs).conds = [] := by
    apply conds_hold <;> simp [hd]
  exact issueTx_met s _ _ hmet

theorem ptest_gives_testBits (s : State) (rd kind reg : BitVec 5) (hd : Settled s rd) :
    Gives (.ptest rd kind reg) s rd (testBits (regs s) kind reg) :=
  ⟨_, (exec_ptest s rd kind reg).trans (execPtest_of_settled s rd kind reg hd), retireX_writes s rd _⟩

/-- Settles O15: ptest writes `testBits`, which reads the x marks for kind 0, save those of x0, and the v marks for kind
1. -/
theorem testPresence : Obligations.TestPresence := by
  unfold Obligations.TestPresence
  intro s rd reg hd bits
  constructor
  · have hx := ptest_gives_testBits s rd 0 reg hd
    rwa [testBits_x] at hx
  · have hv := ptest_gives_testBits s rd 1 reg hd
    rwa [testBits_v] at hv

end Sys2Proof.Laws
end

section
/-! PROOFS. Stochastic-rounding bits (09 R219): SrBits in arithmetic modulo 2^64, and Mix undone
step by step. -/
namespace Sys2Proof.Laws
open Machine

/-! ### each step of Mix can be inverted -/

/-- A step `z xor (z >> k)` of Mix. -/
def xorShift {w : Nat} (k : Nat) (z : BitVec w) : BitVec w := z ^^^ z >>> k

/-- What undoes `xorShift k` where three shifts by `k` leave nothing: with S the shift by `k`, this is 1 + S + S² and
`xorShift k` is 1 + S, whose product over bits is 1 + S³. -/
def unXorShift {w : Nat} (k : Nat) (z : BitVec w) : BitVec w := z ^^^ z >>> k ^^^ z >>> (k + k)

/-- In the product of 1 + S and 1 + S + S² the terms S and S² stand twice, and S³ leaves nothing of the word. -/
theorem xor_shifts_cancel {w k : Nat} (hk : w ≤ k + k + k) (z : BitVec w) :
    z ^^^ z >>> k ^^^ (z >>> k ^^^ z >>> (k + k)) ^^^ (z >>> (k + k) ^^^ z >>> (k + k + k)) = z := by
  have hgone : z >>> (k + k + k) = 0#w := BitVec.ushiftRight_eq_zero hk
  calc
    _ = z ^^^ (z >>> k ^^^ z >>> k) ^^^ (z >>> (k + k) ^^^ z >>> (k + k)) ^^^ z >>> (k + k + k) := by ac_rfl
    _ = z := by simp only [hgone, BitVec.xor_self, BitVec.xor_zero]

theorem unXorShift_xorShift {w k : Nat} (hk : w ≤ k + k + k) (z : BitVec w) : unXorShift k (xorShift k z) = z := by
  have hcancel := xor_shifts_cancel hk z
  simpa only [unXorShift, xorShift, BitVec.ushiftRight_xor_distrib, ← BitVec.shiftRight_add, Nat.add_assoc] using hcancel

theorem xorShift_unXorShift_comm {w : Nat} (k : Nat) (z : BitVec w) :
    xorShift k (unXorShift k z) = unXorShift k (xorShift k z) := by
  simp only [unXorShift, xorShift, BitVec.ushiftRight_xor_distrib, ← BitVec.shiftRight_add, Nat.add_assoc]
  ac_rfl

theorem xorShift_unXorShift {w k : Nat} (hk : w ≤ k + k + k) (z : BitVec w) : xorShift k (unXorShift k z) = z :=
  (xorShift_unXorShift_comm k z).trans (unXorShift_xorShift hk z)

/-- A multiplier with an inverse modulo 2^w, as each odd one has, is undone by a multiplication. -/
theorem mul_mul_cancel_of_inverse {w : Nat} {a b : BitVec w} (hab : a * b = 1#w) (z : BitVec w) : z * a * b = z := by
  rw [BitVec.mul_assoc, hab, BitVec.mul_one]

/-! ### Mix is a bijection -/

theorem mix_eq_steps (z : Word) :
    mix z = xorShift 32 (xorShift 29 (xorShift 31 z * 0xC2B63D198E47A5F3#64) * 0x94E37A51D06B2C8F#64) := rfl

/-- The steps of Mix undone, the last one first; the factors are the inverses of Mix's multipliers modulo 2^64. -/
def unmix (z : Word) : Word :=
  unXorShift 31 (unXorShift 29 (unXorShift 32 z * 0x97C3227AD550726F#64) * 0x169E9662FF7B7B3B#64)

theorem unmix_mix (z : Word) : unmix (mix z) = z := by
  rw [mix_eq_steps, unmix, unXorShift_xorShift (by decide), mul_mul_cancel_of_inverse (by decide),
    unXorShift_xorShift (by decide), mul_mul_cancel_of_inverse (by decide), unXorShift_xorShift (by decide)]

theorem mix_unmix (z : Word) : mix (unmix z) = z := by
  rw [mix_eq_steps, unmix, xorShift_unXorShift (by decide), mul_mul_cancel_of_inverse (by decide),
    xorShift_unXorShift (by decide), mul_mul_cancel_of_inverse (by decide), xorShift_unXorShift (by decide)]

/-! ### Mix and SrBits in arithmetic modulo 2^64 -/

/-- The spec's product modulo 2^64 is the product of words. -/
theorem ofNat_mul_mod (m n : Nat) :
    BitVec.ofNat 64 (m * n % 2 ^ 64) = BitVec.ofNat 64 m * BitVec.ofNat 64 n := by
  rw [← BitVec.ofNat_mul]
  exact BitVec.eq_of_toNat_eq (by simp)

/-- Mix as the spec writes it, on unsigned numbers modulo 2^64. -/
theorem mix_eq_modular (z : Word) :
    mix z =
      let a := xorShift 31 z
      let b := xorShift 29 (BitVec.ofNat 64 (a.toNat * 0xC2B63D198E47A5F3 % 2 ^ 64))
      xorShift 32 (BitVec.ofNat 64 (b.toNat * 0x94E37A51D06B2C8F % 2 ^ 64)) := by
  simp only [mix, xorShift, ofNat_mul_mod, BitVec.ofNat_toNat, BitVec.setWidth_eq]

/-- SrBits as the spec writes it, with id = {core[11:0], ctx[3:0]}. -/
theorem srBits_eq_modular (seed c d : Word) (core ctx : Nat) :
    srBits seed core ctx c d =
      let id := core % 2 ^ 12 * 2 ^ 4 + ctx % 2 ^ 4
      let h := mix (seed ^^^ BitVec.ofNat 64 (id * 0xE38D260B7F4C91A5 % 2 ^ 64))
      let g := mix (h ^^^ BitVec.ofNat 64 (c.toNat * 0xD1A54F873B29E6C1 % 2 ^ 64))
      mix (g ^^^ BitVec.ofNat 64 (d.toNat * 0xA7F1C46E95B30D2B % 2 ^ 64)) := by
  simp only [ofNat_mul_mod, BitVec.ofNat_toNat, BitVec.setWidth_eq]
  rfl

@[simp] theorem mix_zero : mix 0#64 = 0#64 := by decide

theorem srBits_zero : srBits 0 0 0 0 0 = 0 := by
  simp [srBits]

/-- Settles O60: the spec's products modulo 2^64 are products of words, and `unmix` undoes Mix from both sides. -/
theorem stochasticBits : Obligations.StochasticBits := by
  unfold Obligations.StochasticBits
  exact ⟨mix_eq_modular, ⟨unmix, fun z => ⟨unmix_mix z, mix_unmix z⟩⟩, srBits_eq_modular, srBits_zero, fun _ _ _ _ _ => rfl⟩

end Sys2Proof.Laws
end
